-- ==== Sys2Proof/Word.lean ====
section
/-! DEFINITION. The word types of the Slovex F128 and the one kind of finite map every sparse part of the machine's
state is held in. -/

namespace Sys2Proof

/-- A 32-bit register word (spec/00_scope.md R1, spec/02_storage_on_chip.md R47). -/
abbrev Word := BitVec 32

/-- A 64-bit value: a register pair, an address or a counter (spec/00_scope.md R7). -/
abbrev DWord := BitVec 64

/-- One byte of memory. -/
abbrev Byte := BitVec 8

/-- The 96 lanes of a group, lane `i` in bit `i` (spec/06_execution_model.md R158). -/
abbrev LaneMask := BitVec 96

/-- The threads of a team by thread number `96 * home group + lane` (spec/06_execution_model.md R158, R165). -/
abbrev ThreadMask := BitVec 3072

/-- A finite map from numbers to values, as a list of pairs. Its canonical form has strictly rising keys and lists no
value equal to what an unlisted key reads as. -/
abbrev SMap (α : Type) := List (Nat × α)

namespace SMap
variable {α : Type}

/-- The value at key `k`; `d` is what an unlisted key reads as. -/
def look (d : α) : SMap α → Nat → α
  | [], _ => d
  | (a, v) :: t, k => if a = k then v else look d t k

/-- The map without key `k`. -/
def erase : SMap α → Nat → SMap α
  | [], _ => []
  | (a, v) :: t, k => if a = k then erase t k else (a, v) :: erase t k

/-- The map with `(k, v)` placed before the first greater key. -/
def place : SMap α → Nat → α → SMap α
  | [], k, v => [(k, v)]
  | (a, w) :: t, k, v => if k < a then (k, v) :: (a, w) :: t else (a, w) :: place t k v

/-- The map that reads `v` at `k` and is otherwise unchanged. -/
def ins (m : SMap α) (k : Nat) (v : α) : SMap α := place (erase m k) k v

/-- As `ins`, keeping the canonical form: a value equal to `d` is not listed. -/
def put [DecidableEq α] (d : α) (m : SMap α) (k : Nat) (v : α) : SMap α :=
  if v = d then erase m k else ins m k v

/-- Whether key `k` is listed. -/
def has (m : SMap α) (k : Nat) : Bool := m.any fun p => p.1 == k

/-- The canonical form, given what an unlisted key reads as. -/
def wf [DecidableEq α] (d : α) : SMap α → Bool
  | [] => true
  | (a, v) :: t => decide (v ≠ d) && t.all (fun p => decide (a < p.1)) && wf d t

end SMap
end Sys2Proof
end

