-- ==== Sys2Proof/Syntax.lean ====
section
/-! DEFINITION. The syntax of a Lyner instruction and of every transition of the device: one constructor of `Instr` per
row of spec/opcode_table.json. An instruction carries the fields of its format (spec/09_encoding.md R224); a transition
carries the choices that the spec leaves to the machine or to its surroundings. -/

namespace Sys2Proof

/-- The type codes of R222, in code order. -/
inductive Ty where
  | i8 | i16 | i32 | i64 | n8 | n16 | n32 | n64 | b32 | b64 | f64 | f32 | bf16 | f16 | f8e4 | f8e5 | f4 | e8 | tern
  deriving DecidableEq, Repr, Inhabited

/-- The scopes of R223, in code order. -/
inductive Scope where
  | none | grp | team | clus | dev | sys
  deriving DecidableEq, Repr, Inhabited

/-- The rounding modes of R202, in code order. -/
inductive Rm where
  | rne | rtz | rdn | rup
  deriving DecidableEq, Repr, Inhabited

/-- The vo operations of R225, in OP order. -/
inductive VoOp where
  | add | sub | mull | mulh | and | or | xor | shl | shr | sra | min | max | abs | bfe | popc | clz
  | brev | fadd | fsub | fmul | fmin | fmax | cvt | rnd | sel | mov
  deriving DecidableEq, Repr, Inhabited

/-- Fields of ch (R224). -/
structure ChArgs where
  clen : Nat := 0
  wait : Nat := 0
  fa : Nat := 0
  fav : Bool := false
  fb : Nat := 0
  fbv : Bool := false
  deriving DecidableEq, Repr, Inhabited

/-- Fields of so (R224). -/
structure SoArgs where
  sd : Nat := 0
  sa : Nat := 0
  sb : Nat := 0
  sx : Nat := 0
  ty : Ty := .i8
  sel : Nat := 0
  deriving DecidableEq, Repr, Inhabited

/-- Fields of sk (R224). -/
structure SkArgs where
  sd : Nat := 0
  sa : Nat := 0
  ty : Ty := .i8
  sel : Nat := 0
  imm : Nat := 0
  deriving DecidableEq, Repr, Inhabited

/-- Fields of vo (R224); `a` and `b` are the 9-bit source fields of R221. -/
structure VoArgs where
  d : Nat := 0
  a : Nat := 0
  b : Nat := 0
  ty : Ty := .i8
  rm : Rm := .rne
  sat : Bool := false
  ty2 : Ty := .i8
  sel : Nat := 0
  deriving DecidableEq, Repr, Inhabited

/-- Fields of vw (R224). -/
structure VwArgs where
  d : Nat := 0
  a : Nat := 0
  b : Nat := 0
  c : Nat := 0
  ty : Ty := .i8
  ty2 : Ty := .i8
  rm : Rm := .rne
  sat : Bool := false
  neg : Nat := 0
  sel : Nat := 0
  deriving DecidableEq, Repr, Inhabited

/-- Fields of vk (R224). -/
structure VkArgs where
  d : Nat := 0
  a : Nat := 0
  ty : Ty := .i8
  rm : Rm := .rne
  sat : Bool := false
  sel : Nat := 0
  imm : Nat := 0
  deriving DecidableEq, Repr, Inhabited

/-- Fields of vm (R224). -/
structure VmArgs where
  sd : Nat := 0
  a : Nat := 0
  b : Nat := 0
  ty : Ty := .i8
  sel : Nat := 0
  deriving DecidableEq, Repr, Inhabited

/-- Fields of sf (R224) and CF (R218). -/
structure SfArgs where
  d : Nat := 0
  a : Nat := 0
  ty : Ty := .i8
  cf : Nat := 0
  deriving DecidableEq, Repr, Inhabited

/-- Fields of xl (R224) and CF. -/
structure XlArgs where
  d : Nat := 0
  a : Nat := 0
  b : Nat := 0
  sm : Nat := 0
  ty : Ty := .i8
  sel : Nat := 0
  cf : Nat := 0
  deriving DecidableEq, Repr, Inhabited

/-- Fields of bc (R224); the offsets as their raw 20 and 19 bits. -/
structure BcArgs where
  cv : Nat := 0
  toff : Nat := 0
  roff : Nat := 0
  deriving DecidableEq, Repr, Inhabited

/-- Fields of xf (R224) and CF. -/
structure XfArgs where
  d : Nat := 0
  a : Nat := 0
  b : Nat := 0
  ty : Ty := .i8
  ty2 : Ty := .i8
  sel : Nat := 0
  imm : Nat := 0
  cf : Nat := 0
  deriving DecidableEq, Repr, Inhabited

/-- Fields of ma (R224) and CF; `off` is the raw OFF24. -/
structure MaArgs where
  d : Nat := 0
  bp : Nat := 0
  ac : Nat := 0
  scp : Scope := .none
  acq : Bool := false
  rel : Bool := false
  ty : Ty := .i8
  rc : Nat := 0
  x : Nat := 0
  off : Nat := 0
  sel : Nat := 0
  cf : Nat := 0
  deriving DecidableEq, Repr, Inhabited

/-- Fields of mx (R224) and CF; `bp` and `off` belong to the 128-bit form. -/
structure MxArgs where
  d : Nat := 0
  a : Nat := 0
  x : Nat := 0
  ac : Nat := 0
  scp : Scope := .none
  acq : Bool := false
  rel : Bool := false
  ty : Ty := .i8
  sel : Nat := 0
  c : Nat := 0
  bp : Nat := 0
  off : Nat := 0
  cf : Nat := 0
  deriving DecidableEq, Repr, Inhabited

/-- Fields of ms (R224). -/
structure MsArgs where
  ac : Nat := 0
  k : Nat := 0
  sa : Nat := 0
  sb : Nat := 0
  imm : Nat := 0
  scp : Scope := .none
  deriving DecidableEq, Repr, Inhabited

/-- Fields of ce (R224); `offs` and `offd` raw. -/
structure CeArgs where
  q : Nat := 0
  src : Nat := 0
  dst : Nat := 0
  ln : Nat := 0
  map : Nat := 0
  sel : Nat := 0
  offs : Nat := 0
  offd : Nat := 0
  deriving DecidableEq, Repr, Inhabited

/-- Fields of mf (R224). -/
structure MfArgs where
  tc : Nat := 0
  a : Nat := 0
  b : Nat := 0
  fb : Nat := 0
  ty : Ty := .i8
  sel : Nat := 0
  idx : Nat := 0
  cw : Nat := 0
  deriving DecidableEq, Repr, Inhabited

/-- Fields of to (R224). -/
structure ToArgs where
  td : Nat := 0
  ta : Nat := 0
  tb : Nat := 0
  tc : Nat := 0
  ty : Ty := .i8
  sel : Nat := 0
  cw : Nat := 0
  bp : Nat := 0
  off : Nat := 0
  deriving DecidableEq, Repr, Inhabited

/-- Fields of tq (R224) and CF. -/
structure TqArgs where
  sd : Nat := 0
  ta : Nat := 0
  sa : Nat := 0
  sel : Nat := 0
  imm : Nat := 0
  cf : Nat := 0
  deriving DecidableEq, Repr, Inhabited

/-- Fields of gx (R224) and CF. -/
structure GxArgs where
  d : Nat := 0
  a : Nat := 0
  bp : Nat := 0
  ac : Nat := 0
  rgn : Nat := 0
  off : Nat := 0
  cf : Nat := 0
  deriving DecidableEq, Repr, Inhabited

/-- Fields of ta (R224) and CF. -/
structure TaArgs where
  a : Nat := 0
  n : Nat := 0
  sa : Nat := 0
  sel : Nat := 0
  cf : Nat := 0
  deriving DecidableEq, Repr, Inhabited

/-- Fields of nm (R224). -/
structure NmArgs where
  bp : Nat := 0
  stk : Nat := 0
  buf : Nat := 0
  sel : Nat := 0
  off : Nat := 0
  deriving DecidableEq, Repr, Inhabited

/-- Fields of ls (R224). -/
structure LsArgs where
  sa : Nat := 0
  sb : Nat := 0
  sx : Nat := 0
  q : Nat := 0
  coop : Bool := false
  imm : Nat := 0
  deriving DecidableEq, Repr, Inhabited

/-- Fields of sy (R224). -/
structure SyArgs where
  sd : Nat := 0
  sa : Nat := 0
  csr : Nat := 0
  imm : Nat := 0
  deriving DecidableEq, Repr, Inhabited

/-- What a DRAM read of a line meets (spec/05_memory_beyond_the_core.md R130); the surroundings choose. `free` stands in
the reads of an action that has no operand for it: a free value for each (log 25). -/
inductive DramRead where
  | clean | corrected | transient | lasting | free
  deriving DecidableEq, Repr, Inhabited

/-- Which bytes of an outstanding load a load transition takes: bytes `lo` to `lo + n - 1` of one lane
(spec/03_ordering_machine.md R88: a load's bytes may be taken at different steps). -/
structure Part where
  lane : Nat
  lo : Nat
  n : Nat
  deriving DecidableEq, Repr, Inhabited

/-- A move of a core's transform queue: one result of its oldest entry, by its place in the entry, or all that are left
(spec/11_instr_scalar_vector.md R287, spec/09_encoding.md R231). -/
structure XformMove where
  core : Nat
  write : Option Nat
  deriving DecidableEq, Repr, Inhabited

/-- An issue group: the role it belongs to and its own number there. -/
structure IgRef where
  role : Nat
  ig : Nat
  deriving DecidableEq, Repr, Inhabited

/-- An engine entry or port that can stall on a translation fault (spec/01_address_spaces.md R27). -/
inductive EngineId where
  | copy (core q : Nat)
  | tile (pair entry : Nat)
  | nmu (stack : Nat)
  | gossip (ctx rgn : Nat)
  deriving DecidableEq, Repr, Inhabited

/-- A reduction packet (R143): values of format `vf` (0 f64, 1 f32, 2 bf16, 3 f16), each with its poison. -/
structure RPacket where
  stack : Nat
  buf : Nat
  con : Nat
  elem : Nat
  vf : Nat
  fin : Bool
  vals : List (Nat × Bool)
  deriving DecidableEq, Repr, Inhabited

/-- Where a reduction packet comes from: the oldest one sent by a copy queue, or a peer (R143). -/
inductive PacketSrc where
  | copy (core q : Nat)
  | peer (p : RPacket)
  deriving DecidableEq, Repr, Inhabited

/-- A gossip packet (R151): an element's half, its poison, the side it departed to, the sender's MODE, its number. -/
structure GxPacket where
  elem : Nat
  hs : DWord
  hw : DWord
  psn : Bool
  toRight : Bool
  mode : Nat
  round : Nat
  seq : Nat
  deriving DecidableEq, Repr, Inhabited

/-- What a peer asks of this device's memory (R39): a read, a write or an atomic on a device physical address. -/
inductive PeerReq where
  | read (peer addr n : Nat)
  | write (peer addr : Nat) (data : List Byte)
  | atomic (peer addr : Nat) (kind sel : Nat) (ty : Ty) (a c : DWord)
  deriving DecidableEq, Repr, Inhabited

/-- A peer's answer to the oldest unanswered access of a route (R39, R120): whether its check passed, and the bytes
read. -/
structure PeerAns where
  ok : Bool
  data : List Byte
  deriving DecidableEq, Repr, Inhabited

/-- What the fabric manager grants (R39): an export to a peer, or a context's route to a peer over a link. -/
inductive Grant where
  | exportRange (peer base len : Nat) (rd wr : Bool)
  | route (ctx peer link : Nat)
  deriving DecidableEq, Repr, Inhabited

/-- An instruction or a transition: one constructor per row of spec/opcode_table.json. -/
inductive Instr where
  /-- CH (R260). -/
  | ch (x : ChArgs)
  /-- SO_ADD (R262). -/
  | soAdd (x : SoArgs)
  /-- SO_SUB (R262). -/
  | soSub (x : SoArgs)
  /-- SO_MUL (R262). -/
  | soMul (x : SoArgs)
  /-- SO_MULH (R262). -/
  | soMulh (x : SoArgs)
  /-- SO_AND (R262). -/
  | soAnd (x : SoArgs)
  /-- SO_OR (R262). -/
  | soOr (x : SoArgs)
  /-- SO_XOR (R262). -/
  | soXor (x : SoArgs)
  /-- SO_SHL (R262). -/
  | soShl (x : SoArgs)
  /-- SO_SHR (R262). -/
  | soShr (x : SoArgs)
  /-- SO_SRA (R262). -/
  | soSra (x : SoArgs)
  /-- SO_MIN (R262). -/
  | soMin (x : SoArgs)
  /-- SO_MAX (R262). -/
  | soMax (x : SoArgs)
  /-- SO_CMP (R262). -/
  | soCmp (x : SoArgs)
  /-- SO_SEL (R262). -/
  | soSel (x : SoArgs)
  /-- SO_BFE (R263). -/
  | soBfe (x : SoArgs)
  /-- SO_BFI (R263). -/
  | soBfi (x : SoArgs)
  /-- SO_POPC (R262). -/
  | soPopc (x : SoArgs)
  /-- SO_CLZ (R262). -/
  | soClz (x : SoArgs)
  /-- SO_ADD64 (R262). -/
  | soAdd64 (x : SoArgs)
  /-- SO_LEA (R262). -/
  | soLea (x : SoArgs)
  /-- SO_MOV (R262). -/
  | soMov (x : SoArgs)
  /-- SO_RDID (R265). -/
  | soRdid (x : SoArgs)
  /-- SK_MOV (R266). -/
  | skMov (x : SkArgs)
  /-- SK_ADD (R266). -/
  | skAdd (x : SkArgs)
  /-- SK_AND (R266). -/
  | skAnd (x : SkArgs)
  /-- SK_OR (R266). -/
  | skOr (x : SkArgs)
  /-- SK_XOR (R266). -/
  | skXor (x : SkArgs)
  /-- SK_CMP (R266). -/
  | skCmp (x : SkArgs)
  /-- VO_ADD (R268). -/
  | voAdd (x : VoArgs)
  /-- VO_SUB (R268). -/
  | voSub (x : VoArgs)
  /-- VO_MULL (R268). -/
  | voMull (x : VoArgs)
  /-- VO_MULH (R268). -/
  | voMulh (x : VoArgs)
  /-- VO_AND (R268). -/
  | voAnd (x : VoArgs)
  /-- VO_OR (R268). -/
  | voOr (x : VoArgs)
  /-- VO_XOR (R268). -/
  | voXor (x : VoArgs)
  /-- VO_SHL (R268). -/
  | voShl (x : VoArgs)
  /-- VO_SHR (R268). -/
  | voShr (x : VoArgs)
  /-- VO_SRA (R268). -/
  | voSra (x : VoArgs)
  /-- VO_MIN (R268). -/
  | voMin (x : VoArgs)
  /-- VO_MAX (R268). -/
  | voMax (x : VoArgs)
  /-- VO_ABS (R268). -/
  | voAbs (x : VoArgs)
  /-- VO_BFE (R263). -/
  | voBfe (x : VoArgs)
  /-- VO_POPC (R268). -/
  | voPopc (x : VoArgs)
  /-- VO_CLZ (R268). -/
  | voClz (x : VoArgs)
  /-- VO_BREV (R268). -/
  | voBrev (x : VoArgs)
  /-- VO_FADD (R269). -/
  | voFadd (x : VoArgs)
  /-- VO_FSUB (R269). -/
  | voFsub (x : VoArgs)
  /-- VO_FMUL (R269). -/
  | voFmul (x : VoArgs)
  /-- VO_FMIN (R269). -/
  | voFmin (x : VoArgs)
  /-- VO_FMAX (R269). -/
  | voFmax (x : VoArgs)
  /-- VO_CVT (R270). -/
  | voCvt (x : VoArgs)
  /-- VO_RND (R270). -/
  | voRnd (x : VoArgs)
  /-- VO_SEL (R271). -/
  | voSel (x : VoArgs)
  /-- VO_MOV (R271). -/
  | voMov (x : VoArgs)
  /-- VW_FMA (R272). -/
  | vwFma (x : VwArgs)
  /-- VW_MAD (R272). -/
  | vwMad (x : VwArgs)
  /-- VW_BFI (R272). -/
  | vwBfi (x : VwArgs)
  /-- VW_CVTSR (R272). -/
  | vwCvtsr (x : VwArgs)
  /-- VW_PACK (R272). -/
  | vwPack (x : VwArgs)
  /-- VK_ADD (R273). -/
  | vkAdd (x : VkArgs)
  /-- VK_MUL (R273). -/
  | vkMul (x : VkArgs)
  /-- VK_AND (R273). -/
  | vkAnd (x : VkArgs)
  /-- VK_OR (R273). -/
  | vkOr (x : VkArgs)
  /-- VK_MOV (R273). -/
  | vkMov (x : VkArgs)
  /-- VK_FMA (R273). -/
  | vkFma (x : VkArgs)
  /-- VP (R274). -/
  | vp (op1 : VoOp) (x1 : VoArgs) (op2 : VoOp) (x2 : VoArgs)
  /-- VM_CMP (R276). -/
  | vmCmp (x : VmArgs)
  /-- VM_CLASS (R277). -/
  | vmClass (x : VmArgs)
  /-- SF_RCP (R278). -/
  | sfRcp (x : SfArgs)
  /-- SF_RSQ (R278). -/
  | sfRsq (x : SfArgs)
  /-- SF_SQRT (R278). -/
  | sfSqrt (x : SfArgs)
  /-- SF_EXP2 (R278). -/
  | sfExp2 (x : SfArgs)
  /-- SF_LOG2 (R278). -/
  | sfLog2 (x : SfArgs)
  /-- SF_SIN (R278). -/
  | sfSin (x : SfArgs)
  /-- SF_COS (R278). -/
  | sfCos (x : SfArgs)
  /-- SF_TANH (R278). -/
  | sfTanh (x : SfArgs)
  /-- SF_SIGM (R278). -/
  | sfSigm (x : SfArgs)
  /-- SF_GELU (R278). -/
  | sfGelu (x : SfArgs)
  /-- SF_SILU (R278). -/
  | sfSilu (x : SfArgs)
  /-- SF_ERF (R278). -/
  | sfErf (x : SfArgs)
  /-- XL_SHFL (R281). -/
  | xlShfl (x : XlArgs)
  /-- XL_SHFLX (R281). -/
  | xlShflx (x : XlArgs)
  /-- XL_BFLY (R283). -/
  | xlBfly (x : XlArgs)
  /-- XL_VOTE (R281). -/
  | xlVote (x : XlArgs)
  /-- XL_RDLN (R281). -/
  | xlRdln (x : XlArgs)
  /-- XL_WRLN (R281). -/
  | xlWrln (x : XlArgs)
  /-- XL_SCAN (R282). -/
  | xlScan (x : XlArgs)
  /-- XL_RED (R282). -/
  | xlRed (x : XlArgs)
  /-- BC_BR (R169). -/
  | bcBr (x : BcArgs)
  /-- BC_BRD (R167). -/
  | bcBrd (x : BcArgs)
  /-- BC_JMP (R285). -/
  | bcJmp (x : BcArgs)
  /-- BC_CALL (R285). -/
  | bcCall (x : BcArgs)
  /-- BC_RET (R285). -/
  | bcRet (x : BcArgs)
  /-- BC_EXIT (R166). -/
  | bcExit (x : BcArgs)
  /-- BC_NOP (R285). -/
  | bcNop (x : BcArgs)
  /-- BC_BRK (R285). -/
  | bcBrk (x : BcArgs)
  /-- XF_QUANT (R288). -/
  | xfQuant (x : XfArgs)
  /-- XF_DQ (R289). -/
  | xfDq (x : XfArgs)
  /-- XF_SIGN (R290). -/
  | xfSign (x : XfArgs)
  /-- XF_PACK (R290). -/
  | xfPack (x : XfArgs)
  /-- MA_LD (R296). -/
  | maLd (x : MaArgs)
  /-- MA_ST (R296). -/
  | maSt (x : MaArgs)
  /-- MA_LDG (R295). -/
  | maLdg (x : MaArgs)
  /-- MA_STG (R295). -/
  | maStg (x : MaArgs)
  /-- MA_LDS (R295). -/
  | maLds (x : MaArgs)
  /-- MA_STS (R295). -/
  | maSts (x : MaArgs)
  /-- MA_LDSC (R295). -/
  | maLdsc (x : MaArgs)
  /-- MA_PF (R298). -/
  | maPf (x : MaArgs)
  /-- MA_FPUSH (R299). -/
  | maFpush (x : MaArgs)
  /-- MA_FPOP (R299). -/
  | maFpop (x : MaArgs)
  /-- MX_ATOM_96 (R301). -/
  | mxAtom96 (x : MxArgs)
  /-- MX_ATOM_128 (R301). -/
  | mxAtom128 (x : MxArgs)
  /-- MX_CAS_96 (R301). -/
  | mxCas96 (x : MxArgs)
  /-- MX_CAS_128 (R301). -/
  | mxCas128 (x : MxArgs)
  /-- MX_FATOM_96 (R115). -/
  | mxFatom96 (x : MxArgs)
  /-- MX_FATOM_128 (R115). -/
  | mxFatom128 (x : MxArgs)
  /-- MX_RED_96 (R301). -/
  | mxRed96 (x : MxArgs)
  /-- MX_RED_128 (R301). -/
  | mxRed128 (x : MxArgs)
  /-- MS_WAITC (R303). -/
  | msWaitc (x : MsArgs)
  /-- MS_WAITB (R304). -/
  | msWaitb (x : MsArgs)
  /-- MS_WAITM (R305). -/
  | msWaitm (x : MsArgs)
  /-- MS_COMMIT (R304). -/
  | msCommit (x : MsArgs)
  /-- MS_BAR_T (R307). -/
  | msBarT (x : MsArgs)
  /-- MS_BAR_R (R307). -/
  | msBarR (x : MsArgs)
  /-- MS_BAR_G (R307). -/
  | msBarG (x : MsArgs)
  /-- MS_BIND (R308). -/
  | msBind (x : MsArgs)
  /-- MS_UNBIND (R309). -/
  | msUnbind (x : MsArgs)
  /-- MS_QJOIN (R310). -/
  | msQjoin (x : MsArgs)
  /-- MS_RCLAIM (R162). -/
  | msRclaim (x : MsArgs)
  /-- MS_RGIVE (R162). -/
  | msRgive (x : MsArgs)
  /-- MS_ACQ (R306). -/
  | msAcq (x : MsArgs)
  /-- MS_REL (R306). -/
  | msRel (x : MsArgs)
  /-- CE_CP (R315). -/
  | ceCp (x : CeArgs)
  /-- CE_CHAIN (R317). -/
  | ceChain (x : CeArgs)
  /-- CE_FILL (R317). -/
  | ceFill (x : CeArgs)
  /-- MF_MMA (R327). -/
  | mfMma (x : MfArgs)
  /-- MF_MMASP (R328). -/
  | mfMmasp (x : MfArgs)
  /-- TO_LD (R330). -/
  | toLd (x : ToArgs)
  /-- TO_ST (R330). -/
  | toSt (x : ToArgs)
  /-- TO_ZERO (R331). -/
  | toZero (x : ToArgs)
  /-- TO_FREE (R331). -/
  | toFree (x : ToArgs)
  /-- TO_DENSE (R332). -/
  | toDense (x : ToArgs)
  /-- TO_CMPR (R332). -/
  | toCmpr (x : ToArgs)
  /-- TO_ADD (R334). -/
  | toAdd (x : ToArgs)
  /-- TO_MUL (R333). -/
  | toMul (x : ToArgs)
  /-- TO_GEMM (R334). -/
  | toGemm (x : ToArgs)
  /-- TO_LU (R335). -/
  | toLu (x : ToArgs)
  /-- TO_TRSM (R336). -/
  | toTrsm (x : ToArgs)
  /-- TO_SCAL (R337). -/
  | toScal (x : ToArgs)
  /-- TO_TR (R337). -/
  | toTr (x : ToArgs)
  /-- TO_ROUND (R332). -/
  | toRound (x : ToArgs)
  /-- TQ_INFO (R343). -/
  | tqInfo (x : TqArgs)
  /-- TQ_GET (R343). -/
  | tqGet (x : TqArgs)
  /-- TQ_SET (R343). -/
  | tqSet (x : TqArgs)
  /-- GX_ADD (R346). -/
  | gxAdd (x : GxArgs)
  /-- GX_READ (R346). -/
  | gxRead (x : GxArgs)
  /-- GX_STEP (R347). -/
  | gxStep (x : GxArgs)
  /-- GX_SPREAD (R346). -/
  | gxSpread (x : GxArgs)
  /-- GX_CTL (R348). -/
  | gxCtl (x : GxArgs)
  /-- TA_REC (R356). -/
  | taRec (x : TaArgs)
  /-- TA_MARK (R356). -/
  | taMark (x : TaArgs)
  /-- TA_POP (R357). -/
  | taPop (x : TaArgs)
  /-- TA_CTL_FLUSH (R356). -/
  | taCtlFlush (x : TaArgs)
  /-- TA_CTL_REWIND (R356). -/
  | taCtlRewind (x : TaArgs)
  /-- TA_HASH (R356). -/
  | taHash (x : TaArgs)
  /-- TA_GATE_OFF (R360). -/
  | taGateOff (x : TaArgs)
  /-- TA_GATE_REC (R360). -/
  | taGateRec (x : TaArgs)
  /-- TA_GATE_PLAY (R362). -/
  | taGatePlay (x : TaArgs)
  /-- NM_UPD (R364). -/
  | nmUpd (x : NmArgs)
  /-- NM_LAND_INST (R364). -/
  | nmLandInst (x : NmArgs)
  /-- NM_LAND_REM (R364). -/
  | nmLandRem (x : NmArgs)
  /-- NM_CTL_DONE (R364). -/
  | nmCtlDone (x : NmArgs)
  /-- LS_LAUNCH (R365). -/
  | lsLaunch (x : LsArgs)
  /-- LS_SPAWN (R368). -/
  | lsSpawn (x : LsArgs)
  /-- SY_CSRR (R369). -/
  | syCsrr (x : SyArgs)
  /-- SY_CSRW (R369). -/
  | syCsrw (x : SyArgs)
  /-- SY_CSRS (R369). -/
  | syCsrs (x : SyArgs)
  /-- SY_CSRC (R369). -/
  | syCsrc (x : SyArgs)
  /-- SY_TRAP (R369). -/
  | syTrap (x : SyArgs)
  /-- SY_TRET (R374). -/
  | syTret (x : SyArgs)
  /-- SY_CLK (R369). -/
  | syClk (x : SyArgs)
  /-- SY_RNG (R369). -/
  | syRng (x : SyArgs)
  /-- STORE_PERFORM (R88). -/
  | storePerform (g op : Nat) (lane : Option Nat)
  /-- LOAD_PERFORM (R88). -/
  | loadPerform (g op : Nat) (part : Option Part) (dr : DramRead)
  /-- CORE_WRITE_DOWN (R88). -/
  | coreWriteDown (core line : Nat)
  /-- CLUSTER_WRITE_DOWN (R88). -/
  | clusterWriteDown (cluster line : Nat)
  /-- DROP (R88). -/
  | dropLine (atCore : Bool) (unit line : Nat)
  /-- RELEASE_PERFORM (R93). -/
  | releasePerform (g op : Nat) (dr : DramRead)
  /-- ACQUIRE_PERFORM (R94). -/
  | acquirePerform (g op : Nat) (dr : DramRead)
  /-- ATOMIC_PERFORM (R112). -/
  | atomicPerform (g op addr : Nat) (dr : DramRead)
  /-- SCRATCH_ACCESS_PERFORM (R98). -/
  | scratchAccessPerform (g op : Nat) (lane : Option Nat)
  /-- FIFO_PUSH_PERFORM (R299). -/
  | fifoPushPerform (g op : Nat)
  /-- FIFO_POP_PERFORM (R299). -/
  | fifoPopPerform (g op : Nat)
  /-- PIN_COUNTER_AGEING (R72). -/
  | pinCounterAgeing (cluster : Nat)
  /-- MSC_WRITEBACK (R128). -/
  | mscWriteback (line : Nat) (ok : Bool)
  /-- PATROL_SCRUB (R129). -/
  | patrolScrub (line : Nat) (dr : DramRead) (sram : Option Bool)
  /-- FAULT_REPLAY (R26). -/
  | faultReplay (r : IgRef)
  /-- ENGINE_ENTRY_RESUME (R27). -/
  | engineEntryResume (eng : EngineId)
  /-- QUEUE_JOIN_PERFORM (R101). -/
  | queueJoinPerform (join : Nat)
  /-- COPY_CHUNK_LAND (R315). -/
  | copyChunkLand (core q chunk : Nat) (dr : DramRead)
  /-- TILE_ENTRY_START (R193). -/
  | tileEntryStart (pair entry : Nat)
  /-- TILE_COMMIT (R55). -/
  | tileCommit (pair entry : Nat) (dr : DramRead)
  /-- TRANSFORM_ENTRY_COMPLETE (R287). -/
  | transformEntryComplete (move : XformMove)
  /-- NMU_UPDATE (R135). -/
  | nmuUpdate (stack : Nat) (dr : DramRead)
  /-- LANDING_INSTALL (R142). -/
  | landingInstall (stack : Nat)
  /-- LANDING_REMOVE (R145). -/
  | landingRemove (stack : Nat)
  /-- NMU_DONE_WRITE (R364). -/
  | nmuDoneWrite (stack : Nat)
  /-- REDUCTION_PACKET (R143). -/
  | reductionPacket (src : PacketSrc)
  /-- GOSSIP_DEPARTURE (R151). -/
  | gossipDeparture (ctx rgn : Nat)
  /-- GOSSIP_ARRIVAL (R151). -/
  | gossipArrival (ctx rgn link : Nat) (p : GxPacket)
  /-- GOSSIP_BOUNCE (R153). -/
  | gossipBounce (ctx rgn seq : Nat)
  /-- GOSSIP_ACK (R153). -/
  | gossipAck (ctx rgn seq : Nat)
  /-- GOSSIP_SWEEP (R154). -/
  | gossipSweep (ctx rgn : Nat)
  /-- GOSSIP_INIT_COMPLETE (R149). -/
  | gossipInitComplete (ctx rgn : Nat)
  /-- GOSSIP_MODE_EFFECT (R147). -/
  | gossipModeEffect (ctx rgn : Nat)
  /-- LINK_FAILURE (R153). -/
  | linkFailure (link : Nat)
  /-- LINK_RETRAIN (R153): `last` holds, by context and twice the region (plus 1 for departures to the right), the number
  of the last arrival that the partner performed. -/
  | linkRetrain (link : Nat) (last : List (Nat × Nat × Nat)) (partnerReset : Bool)
  /-- PEER_REQUEST (R39). -/
  | peerRequest (req : PeerReq)
  /-- PEER_ACKNOWLEDGEMENT (R84): the peer answers the request at the head of a link's queue. -/
  | peerAcknowledgement (link : Nat) (ans : PeerAns)
  /-- HOST_CXL_MEM_READ (R104). -/
  | hostCxlMemRead (addr n : Nat) (dr : DramRead)
  /-- HOST_CXL_MEM_WRITE (R80). -/
  | hostCxlMemWrite (addr : Nat) (data : List Byte)
  /-- HOST_CXL_SNOOP (R104). -/
  | hostCxlSnoop (addr : Nat) (data : List Byte)
  /-- HOST_WINDOW_WRITE (R36). -/
  | hostWindowWrite (n : Nat) (e : BitVec 128)
  /-- HOST_WINDOW_READBACK (R38). -/
  | hostWindowReadback (n : Nat)
  /-- TEAM_PLACE (R186). -/
  | teamPlace
  /-- TEAM_END (R185). -/
  | teamEnd (team : Nat)
  /-- SCRATCH_RECLAIM (R77). -/
  | scratchReclaim (alloc : Nat)
  /-- GRANULE_RETURN (R51). -/
  | granuleReturn (g : Nat)
  /-- RCLAIM_SERVED (R163). -/
  | rclaimServed (core : Nat)
  /-- PATH_TIMEOUT (R180). -/
  | pathTimeout (r : IgRef)
  /-- BLOCKED_TIME_TICK (R292). -/
  | blockedTimeTick (role : Nat)
  /-- SPAWN_TIMER_EXPIRY (R178). -/
  | spawnTimerExpiry (core bin : Nat)
  /-- SPAWN_BIN_LAUNCH (R179). -/
  | spawnBinLaunch (core bin : Nat)
  /-- PREEMPT_TRIGGER (R375). -/
  | preemptTrigger (ctx : Nat)
  /-- TAPE_ENTRY_PERFORM (R363). -/
  | tapeEntryPerform (g : Nat)
  /-- BANK_DRAIN_COMPLETE (R69). -/
  | bankDrainComplete (cluster bank : Nat)
  /-- BANK_CLEAR_COMPLETE (R69). -/
  | bankClearComplete (cluster bank : Nat)
  /-- DEVICE_RESET (R397). -/
  | deviceReset
  /-- THERMAL_THROTTLE (R395). -/
  | thermalThrottle (steps : Nat)
  /-- THERMAL_CUTOFF (R395). -/
  | thermalCutoff
  /-- COOLANT_FLOW_LOW (R395). -/
  | coolantFlowLow (low : Bool)
  /-- CSR_WRITE (R370). -/
  | csrWrite (g csr : Nat) (value : Word)
  /-- TAPEBASE_WRITE (R349). -/
  | tapebaseWrite (g : Nat) (hi : Bool) (value : Word)
  /-- TAPECTL_WRITE (R350). -/
  | tapectlWrite (g : Nat) (value : Word)
  /-- GXCFG_WRITE (R147). -/
  | gxcfgWrite (ctx rgn : Nat) (value : Word)
  /-- GXLEN_WRITE (R147). -/
  | gxlenWrite (ctx rgn : Nat) (value : Word)
  /-- GXSTAT_WRITE (R148). -/
  | gxstatWrite (ctx rgn : Nat) (value : Word)
  /-- TILEQUOTA_WRITE (R56). -/
  | tilequotaWrite (ctx : Nat) (value : Word)
  /-- RANKCEIL_WRITE (R322). -/
  | rankceilWrite (ctx : Nat) (value : Word)
  /-- RANKMODE_WRITE (R322). -/
  | rankmodeWrite (ctx : Nat) (value : Word)
  /-- CTX_CREATE (R393). -/
  | ctxCreate
  /-- CTX_DESTROY (R393). -/
  | ctxDestroy
  /-- MAP (R393). -/
  | mapPage
  /-- UNMAP (R393). -/
  | unmap
  /-- DECLINE (R393). -/
  | decline
  /-- KEY_DESTROY (R44). -/
  | keyDestroy
  /-- LOAD_IMAGE (R393). -/
  | loadImage
  /-- LAUNCH (R393). -/
  | launch
  /-- PREEMPT (R381). -/
  | preempt
  /-- RESUME (R389). -/
  | resumeCtx
  /-- TEST_TRIGGER (R375). -/
  | testTrigger
  /-- DC_ADD (R42). -/
  | dcAdd
  /-- DC_RELEASE (R157). -/
  | dcRelease (failed : List Nat)
  /-- FLUSH (R393). -/
  | flush (failed : List Nat)
  /-- BANK (R68). -/
  | bankSet
  /-- ATTEST (R396). -/
  | attest
  /-- POWERCAP (R395). -/
  | powercap
  /-- MBDOOR_WRITE (R392). -/
  | mbdoorWrite (value : DWord) (words : List DWord)
  /-- EQTAIL_WRITE (R391). -/
  | eqtailWrite (value : DWord)
  /-- PINCFG_WRITE (R71). -/
  | pincfgWrite (cluster : Nat) (value : DWord)
  /-- HOST_DMA_RING_WRITE (R394). -/
  | hostDmaRingWrite (ctx : Nat)
  /-- EXPORT_TABLE_GRANT (R39). -/
  | exportTableGrant (g : Grant)
  deriving DecidableEq, Repr, Inhabited

/-- What the machine does next: an issue group tries to issue, or a transition is taken. -/
inductive Act where
  | issue (r : IgRef)
  | event (i : Instr)
  deriving DecidableEq, Repr, Inhabited

/-- One move of the machine: `dt` clocks pass, then `act`. -/
structure Action where
  dt : Nat
  act : Act
  deriving DecidableEq, Repr, Inhabited

end Sys2Proof
end

