-- ==== Sys2Proof/WellFormed.lean ====
section
/-! DEFINITION. Which instructions are encodings at all: step 5 of the decode order (spec/09_encoding.md R226), with the
accepted types, selectors and field values that each instruction's description gives. A transition has no encoding and
is well formed. -/

namespace Sys2Proof

/-- The code of a type (R222). -/
def Ty.code : Ty → Nat
  | .i8 => 0 | .i16 => 1 | .i32 => 2 | .i64 => 3 | .n8 => 4 | .n16 => 5 | .n32 => 6 | .n64 => 7
  | .b32 => 8 | .b64 => 9 | .f64 => 10 | .f32 => 11 | .bf16 => 12 | .f16 => 13 | .f8e4 => 14 | .f8e5 => 15
  | .f4 => 16 | .e8 => 17 | .tern => 18

/-- A type that takes 64 bits, hence a register pair (R200). -/
def Ty.is64 : Ty → Bool
  | .i64 => true | .n64 => true | .b64 => true | .f64 => true
  | _ => false

/-- A float type that vector arithmetic takes (R269). -/
def Ty.isFloat : Ty → Bool
  | .f64 => true | .f32 => true | .bf16 => true | .f16 => true
  | _ => false

namespace WellFormed

/-- No type is written: the field holds 0 (R221). -/
def noTy (t : Ty) : Bool := t = .i8
/-- 32-bit integers. -/
def int32 (t : Ty) : Bool := t = .i32 || t = .n32
/-- A 9-bit vector destination (R221), of a type: pairs are even (R200). -/
def dst (d : Nat) (t : Ty) : Bool := decide (d < 384) && (!t.is64 || d % 2 == 0)
/-- A 9-bit source (R221), of a type. -/
def src (a : Nat) (t : Ty) : Bool := decide (a < 512) && (!t.is64 || a % 2 == 0)
/-- A 9-bit source that is one register. -/
def src1 (a : Nat) : Bool := decide (a < 512)
/-- A scalar register number. -/
def sreg (a : Nat) : Bool := decide (a < 128)
/-- The first register of a scalar pair (R200). -/
def spair (a : Nat) : Bool := decide (a < 128) && a % 2 == 0
/-- The first register of a mask triple (R221). -/
def triple (a : Nat) : Bool := decide (a ≤ 124)
/-- CF is 00, 01 or 10 (R229). -/
def cfOk (cf : Nat) : Bool := decide (cf ≤ 2)

/-- R228: the flags of a clause header. -/
def ch (x : ChArgs) : Bool :=
  decide (x.clen < 16) && decide (x.wait < 4096) &&
  (if x.fav then decide (x.fa ≤ 11) else x.fa == 0) && (if x.fbv then decide (x.fb ≤ 11) else x.fb == 0) &&
  !(x.fav && x.fbv && x.fa == x.fb)

/-- The fields of an so operation: the accepted types, whether SB and SX are used, and the bound of SEL. -/
def so (tys : List Ty) (usesA usesB usesX : Bool) (selTop : Nat) (x : SoArgs) : Bool :=
  tys.contains x.ty && sreg x.sd && (if usesA then sreg x.sa else x.sa == 0) &&
  (if usesB then sreg x.sb else x.sb == 0) && (if usesX then sreg x.sx else x.sx == 0) && decide (x.sel < selTop)

def i32s : List Ty := [.i32, .n32]

/-- The fields of an sk operation (R266). -/
def sk (tys : List Ty) (usesA : Bool) (selTop : Nat) (x : SkArgs) : Bool :=
  tys.contains x.ty && sreg x.sd && (if usesA then sreg x.sa else x.sa == 0) && decide (x.sel < selTop) &&
  decide (x.imm < 2 ^ 32)

/-- Elements per word of a narrow type of R270; 0 for a wide type. -/
def narrowPerWord : Ty → Nat
  | .bf16 => 2 | .f16 => 2 | .f8e4 => 4 | .f8e5 => 4 | .f4 => 8 | .e8 => 4 | .tern => 16
  | _ => 0

def isInt : Ty → Bool
  | .i8 => true | .i16 => true | .i32 => true | .i64 => true
  | .n8 => true | .n16 => true | .n32 => true | .n64 => true
  | _ => false

def isFloatAny : Ty → Bool
  | .f64 => true | .f32 => true | .bf16 => true | .f16 => true | .f8e4 => true | .f8e5 => true | .f4 => true
  | _ => false

/-- The pairs of R270 and what they leave of RM and SAT. -/
def cvtPair (ty ty2 : Ty) (rm : Rm) (sat : Bool) : Bool :=
  if ty = ty2 then false
  else if isFloatAny ty2 && isFloatAny ty then true
  else if isFloatAny ty2 && isInt ty then !sat
  else if isInt ty2 && isFloatAny ty then ty ≠ .f4
  else if isInt ty2 && isInt ty then rm = .rne
  else if isFloatAny ty2 && ty = .e8 then rm = .rne && !sat
  else if ty2 = .e8 && isFloatAny ty then true
  else if ty2 = .tern && (ty = .f32 || ty = .f16 || ty = .bf16 || ty = .i32) then rm = .rne && !sat
  else false

/-- The element selector of a conversion (R270). -/
def cvtSel (ty ty2 : Ty) (sel : Nat) : Bool :=
  if narrowPerWord ty ≠ 0 then decide (sel < narrowPerWord ty)
  else if narrowPerWord ty2 ≠ 0 then decide (sel < narrowPerWord ty2)
  else sel == 0

/-- R268 to R271: the fields of a vo operation. -/
def vo (op : VoOp) (x : VoArgs) : Bool :=
  let plainTy2 := noTy x.ty2
  let noRm := decide (x.rm = .rne)
  let noSat := !x.sat
  let noSel := x.sel == 0
  match op with
  | .add => ([Ty.i32, .n32, .i64, .n64].contains x.ty) && dst x.d x.ty && src x.a x.ty && src x.b x.ty && plainTy2 &&
      noRm && (noSat || int32 x.ty) && noSel
  | .sub => ([Ty.i32, .n32, .i64, .n64].contains x.ty) && dst x.d x.ty && src x.a x.ty && src x.b x.ty && plainTy2 &&
      noRm && (noSat || int32 x.ty) && noSel
  | .mull => int32 x.ty && dst x.d x.ty && src1 x.a && src1 x.b && plainTy2 && noRm && noSat && noSel
  | .mulh => int32 x.ty && dst x.d x.ty && src1 x.a && src1 x.b && plainTy2 && noRm && noSat && noSel
  | .and => (x.ty = .b32 || x.ty = .b64) && dst x.d x.ty && src x.a x.ty && src x.b x.ty && plainTy2 && noRm && noSat &&
      noSel
  | .or => (x.ty = .b32 || x.ty = .b64) && dst x.d x.ty && src x.a x.ty && src x.b x.ty && plainTy2 && noRm && noSat &&
      noSel
  | .xor => (x.ty = .b32 || x.ty = .b64) && dst x.d x.ty && src x.a x.ty && src x.b x.ty && plainTy2 && noRm && noSat &&
      noSel
  | .shl => x.ty = .b32 && dst x.d x.ty && src1 x.a && src1 x.b && plainTy2 && noRm && noSat && noSel
  | .shr => x.ty = .b32 && dst x.d x.ty && src1 x.a && src1 x.b && plainTy2 && noRm && noSat && noSel
  | .sra => x.ty = .b32 && dst x.d x.ty && src1 x.a && src1 x.b && plainTy2 && noRm && noSat && noSel
  | .min => (int32 x.ty || x.ty.isFloat) && dst x.d x.ty && src x.a x.ty && src x.b x.ty && plainTy2 && noRm && noSat &&
      noSel
  | .max => (int32 x.ty || x.ty.isFloat) && dst x.d x.ty && src x.a x.ty && src x.b x.ty && plainTy2 && noRm && noSat &&
      noSel
  | .abs => (x.ty = .i32 || x.ty.isFloat) && dst x.d x.ty && src x.a x.ty && x.b == 0 && plainTy2 && noRm &&
      (noSat || x.ty = .i32) && noSel
  | .bfe => int32 x.ty && dst x.d x.ty && src1 x.a && src1 x.b && plainTy2 && noRm && noSat && noSel
  | .popc => x.ty = .b32 && dst x.d x.ty && src1 x.a && x.b == 0 && plainTy2 && noRm && noSat && noSel
  | .clz => x.ty = .b32 && dst x.d x.ty && src1 x.a && x.b == 0 && plainTy2 && noRm && noSat && noSel
  | .brev => x.ty = .b32 && dst x.d x.ty && src1 x.a && x.b == 0 && plainTy2 && noRm && noSat && noSel
  | .fadd => x.ty.isFloat && dst x.d x.ty && src x.a x.ty && src x.b x.ty && plainTy2 && noSel
  | .fsub => x.ty.isFloat && dst x.d x.ty && src x.a x.ty && src x.b x.ty && plainTy2 && noSel
  | .fmul => x.ty.isFloat && dst x.d x.ty && src x.a x.ty && src x.b x.ty && plainTy2 && noSel
  | .fmin => x.ty.isFloat && dst x.d x.ty && src x.a x.ty && src x.b x.ty && plainTy2 && noRm && noSat && noSel
  | .fmax => x.ty.isFloat && dst x.d x.ty && src x.a x.ty && src x.b x.ty && plainTy2 && noRm && noSat && noSel
  | .cvt => dst x.d x.ty && src x.a x.ty2 && x.b == 0 && cvtPair x.ty x.ty2 x.rm x.sat && cvtSel x.ty x.ty2 x.sel
  | .rnd => isFloatAny x.ty && dst x.d x.ty && src x.a x.ty && x.b == 0 && plainTy2 && noSat && cvtSel x.ty x.ty x.sel
  | .sel => (x.ty = .b32 || x.ty = .b64) && dst x.d x.ty && src x.a x.ty && src x.b x.ty && plainTy2 && noRm && noSat &&
      decide (x.sel < 16)
  | .mov => (x.ty = .b32 || x.ty = .b64) && dst x.d x.ty && src x.a x.ty && x.b == 0 && plainTy2 && noRm && noSat && noSel

/-- R272. -/
def vwFma (x : VwArgs) : Bool :=
  x.ty.isFloat && noTy x.ty2 && dst x.d x.ty && src x.a x.ty && src x.b x.ty && src x.c x.ty && decide (x.neg < 8) &&
  x.sel == 0

def vwMad (x : VwArgs) : Bool :=
  int32 x.ty && noTy x.ty2 && dst x.d x.ty && src1 x.a && src1 x.b && src1 x.c && x.neg == 0 && x.rm = .rne && x.sel == 0

def vwBfi (x : VwArgs) : Bool :=
  x.ty = .b32 && noTy x.ty2 && dst x.d x.ty && src1 x.a && src1 x.b && src1 x.c && x.neg == 0 && x.rm = .rne && !x.sat &&
  x.sel == 0

def vwCvtsr (x : VwArgs) : Bool :=
  ([Ty.bf16, .f16, .f8e4, .f8e5, .f4].contains x.ty) && (x.ty2 = .f32 || x.ty2 = .f64) && dst x.d x.ty &&
  src x.a x.ty2 && x.b == 0 && src1 x.c && x.neg == 0 && x.rm = .rne && decide (x.sel < narrowPerWord x.ty)

/-- Elements per word of the types that vw.pack and vo.cvt place (R199). -/
def packPerWord : Ty → Nat
  | .bf16 => 2 | .f16 => 2 | .i16 => 2 | .n16 => 2 | .f8e4 => 4 | .f8e5 => 4 | .i8 => 4 | .n8 => 4 | .f4 => 8
  | _ => 0

def vwPack (x : VwArgs) : Bool :=
  packPerWord x.ty != 0 && (x.ty2 = .f32 || x.ty2 = .i32) && cvtPair x.ty x.ty2 x.rm x.sat && dst x.d x.ty &&
  src1 x.a && src1 x.b && src1 x.c && x.neg == 0 && decide (2 * x.sel + 1 < packPerWord x.ty)

/-- R273: the fields of a vk operation. -/
def vk (tys : List Ty) (usesA : Bool) (rmTys satTys : List Ty) (x : VkArgs) : Bool :=
  tys.contains x.ty && dst x.d x.ty && (if usesA then src1 x.a else x.a == 0) &&
  (x.rm = .rne || rmTys.contains x.ty) && (!x.sat || satTys.contains x.ty) && x.sel == 0 && decide (x.imm < 2 ^ 32)

/-- R276: ord and uno only for float types (R264). -/
def vmCmp (x : VmArgs) : Bool :=
  ([Ty.i32, .n32, .i64, .n64, .f64, .f32, .f16, .bf16].contains x.ty) && triple x.sd && src x.a x.ty && src x.b x.ty &&
  decide (x.sel < 8) && (decide (x.sel < 6) || x.ty.isFloat)

/-- R277. -/
def vmClass (x : VmArgs) : Bool :=
  x.ty.isFloat && triple x.sd && src x.a x.ty && decide (x.b < 512) && x.sel == 0

/-- R278. -/
def sf (x : SfArgs) : Bool :=
  (x.ty = .f32 || x.ty = .f16 || x.ty = .bf16) && dst x.d x.ty && src1 x.a && cfOk x.cf

/-- The fields that the b32 xl forms share. -/
def xlB32 (x : XlArgs) : Bool := x.ty = .b32 && dst x.d x.ty && triple x.sm && cfOk x.cf

def xlShfl (x : XlArgs) : Bool := xlB32 x && src1 x.a && src1 x.b && x.sel == 0
def xlShflx (x : XlArgs) : Bool := xlB32 x && src1 x.a && decide (x.b < 128) && decide (x.sel < 4)
def xlBfly (x : XlArgs) : Bool := xlB32 x && src1 x.a && src1 x.b && decide (x.sel < 16) && decide (x.sel % 8 < 5)
def xlVote (x : XlArgs) : Bool := xlB32 x && src1 x.a && x.b == 0 && decide (x.sel < 4)
/-- rdln and wrln name scalar registers as 384 + N and have no member mask (R281). -/
def xlRdln (x : XlArgs) : Bool :=
  xlB32 x && x.sm == 0 && src1 x.a && decide (384 ≤ x.b) && decide (x.b < 512) && x.sel == 0
def xlWrln (x : XlArgs) : Bool :=
  xlB32 x && x.sm == 0 && decide (384 ≤ x.a) && decide (x.a < 512) && decide (384 ≤ x.b) && decide (x.b < 512) &&
  x.sel == 0
/-- R282: the operation and its type. -/
def scanOp (op : Nat) (ty : Ty) : Bool :=
  if op < 3 then ty = .i32 || ty = .n32 || ty = .f32 else decide (op < 6) && ty = .b32
def xlScan (x : XlArgs) : Bool :=
  dst x.d .b32 && triple x.sm && cfOk x.cf && src1 x.a && x.b == 0 && decide (x.sel < 16) && scanOp (x.sel % 8) x.ty
def xlRed (x : XlArgs) : Bool :=
  dst x.d .b32 && triple x.sm && cfOk x.cf && src1 x.a && x.b == 0 && decide (x.sel < 8) && scanOp x.sel x.ty

/-- R285: the offsets fit their fields. -/
def bcTgt (x : BcArgs) : Bool := decide (x.toff < 2 ^ 20)
def bcBr (x : BcArgs) : Bool := src1 x.cv && bcTgt x && x.roff == 0
def bcBrd (x : BcArgs) : Bool := src1 x.cv && bcTgt x && decide (x.roff < 2 ^ 19) && x.roff != 0
def bcJmp (x : BcArgs) : Bool := x.cv == 0 && bcTgt x && x.roff == 0
def bcCall (x : BcArgs) : Bool := decide (x.cv < 384) && x.cv % 2 == 0 && bcTgt x && x.roff == 0
/-- R221, R285: a scalar pair as the target is refused, as R285 gives bc.ret a vector pair and R284 would let CV name a
scalar one: the model's choice (log 91). -/
def bcRet (x : BcArgs) : Bool := decide (x.cv < 384) && x.cv % 2 == 0 && x.toff == 0 && x.roff == 0
def bcNone (x : BcArgs) : Bool := x.cv == 0 && x.toff == 0 && x.roff == 0
def bcBrk (x : BcArgs) : Bool := x.cv == 0 && bcTgt x && x.roff == 0

/-- R288: a codebook at 384 + N with N at most 120, and a floor that is +0 or a positive finite f32. -/
def xfBook (b : Nat) : Bool := decide (384 ≤ b) && decide (b ≤ 504)
def xfQuant (x : XfArgs) : Bool :=
  x.ty = .f32 && noTy x.ty2 && decide (x.d < 384) && x.d % 2 == 0 && src1 x.a && xfBook x.b && x.sel == 0 &&
  decide (x.imm < 0x7F800000) && cfOk x.cf
def xfDq (x : XfArgs) : Bool :=
  x.ty = .f32 && noTy x.ty2 && decide (x.d < 384) && decide (x.a < 512) && x.a % 2 == 0 && xfBook x.b && x.sel == 0 &&
  x.imm == 0 && cfOk x.cf
def xfSign (x : XfArgs) : Bool :=
  ([Ty.f32, .i32, .f16, .bf16, .i16].contains x.ty) && noTy x.ty2 && decide (x.d < 384) && src1 x.a && x.b == 0 &&
  (if x.ty = .f32 || x.ty = .i32 then x.sel == 0 else decide (x.sel < 2)) && x.imm == 0 && cfOk x.cf
def xfPack (x : XfArgs) : Bool :=
  ([Ty.i8, .n8, .f8e4, .f8e5, .f4, .tern].contains x.ty) && noTy x.ty2 && decide (x.d < 384) && src1 x.a && x.b == 0 &&
  x.sel == 0 && x.imm == 0 && cfOk x.cf

/-- Bytes of a memory element (R293); 0 for a type the ma forms do not take. -/
def memBytes : Ty → Nat
  | .i8 => 1 | .n8 => 1 | .i16 => 2 | .n16 => 2 | .i32 => 4 | .n32 => 4 | .b32 => 4 | .f32 => 4
  | .i64 => 8 | .n64 => 8 | .b64 => 8 | .f64 => 8 | .bf16 => 2 | .f16 => 2 | .f8e4 => 1 | .f8e5 => 1 | .e8 => 1
  | .f4 => 0 | .tern => 0

/-- Types that CV = 1 converts to and from f32 (R293). -/
def cvTy : Ty → Bool
  | .bf16 => true | .f16 => true | .f8e4 => true | .f8e5 => true | .e8 => true
  | _ => false

/-- Fields of the ma SEL (R294). -/
def maCnt (sel : Nat) : Nat := 2 ^ (sel % 4)
def maCv (sel : Nat) : Bool := sel / 4 % 2 == 1
def maRm (sel : Nat) : Nat := sel / 8 % 4
def maSat (sel : Nat) : Bool := sel / 32 % 2 == 1

/-- R294: SEL, and every register it names: D + e, or pairs for 8-byte types. -/
def maData (isStore : Bool) (x : MaArgs) : Bool :=
  memBytes x.ty != 0 && decide (x.sel < 64) && decide (x.sel % 4 ≠ 3) && (!maCv x.sel || cvTy x.ty) &&
  ((maRm x.sel == 0 && !maSat x.sel) || (isStore && maCv x.sel && x.ty ≠ .e8)) &&
  decide (x.d < 384) && (!x.ty.is64 || x.d % 2 == 0) && decide (x.ac < 16) && decide (x.off < 2 ^ 24) && cfOk x.cf &&
  (!isStore || x.cf == 0)

/-- R297: where the acquire and release attributes are accepted (R223 for SCP = none). -/
def maSync (acqOk relOk : Bool) (x : MaArgs) : Bool :=
  (!x.acq || acqOk) && (!x.rel || relOk) &&
  (!(x.acq || x.rel) || (x.ty.is64 && x.sel == 0 && x.scp ≠ .none))

def maLd (x : MaArgs) : Bool := maData false x && maSync true false x && spair x.bp && x.x == 0 && x.rc == 0
def maSt (x : MaArgs) : Bool := maData true x && maSync false true x && spair x.bp && x.x == 0 && x.rc == 0
def maLdg (x : MaArgs) : Bool :=
  maData false x && maSync false false x && x.bp == 0 && decide (x.x < 512) && x.x % 2 == 0 && decide (x.rc < 4)
def maStg (x : MaArgs) : Bool :=
  maData true x && maSync false false x && x.bp == 0 && decide (x.x < 512) && x.x % 2 == 0 && x.rc == 0
def maLds (x : MaArgs) : Bool := maData false x && maSync true false x && sreg x.bp && x.x == 0 && x.rc == 0
def maSts (x : MaArgs) : Bool := maData true x && maSync false true x && sreg x.bp && x.x == 0 && x.rc == 0
def maLdsc (x : MaArgs) : Bool := maData false x && maSync false false x && sreg x.bp && src1 x.x && x.rc == 0
/-- R298. -/
def maPf (x : MaArgs) : Bool :=
  noTy x.ty && x.sel == 0 && x.ac == 0 && !x.acq && !x.rel && (x.scp = .none || x.scp = .clus) && x.d == 0 && x.bp == 0 &&
  decide (x.x < 512) && x.x % 2 == 0 && decide (x.rc < 4) && decide (x.off < 2 ^ 24) && x.cf == 0
/-- R299. -/
def maFifo (isPop : Bool) (x : MaArgs) : Bool :=
  x.ty = .b32 && decide (x.sel < 64) && x.scp = .none && !x.acq && !x.rel && x.rc == 0 && x.x == 0 && x.bp == 0 &&
  x.off == 0 && decide (x.d < 384) && (!isPop || x.d % 2 == 0) && decide (x.ac < 16) && cfOk x.cf && (isPop || x.cf == 0)

/-- R300: the selector and type of an atomic. -/
def atomSel (op : Nat) (t : Ty) : Bool :=
  if op < 3 then t = .i32 || t = .n32 || t = .i64 || t = .n64 else decide (op < 7) && (t = .b32 || t = .b64)
def fatomSel (op : Nat) (t : Ty) : Bool := decide (op < 3) && (t = .f32 || t = .f64)

/-- The fields all mx forms share: addressing, scope, counter, attributes (R92, R300). -/
def mx (wide : Bool) (x : MxArgs) : Bool :=
  (if wide then spair' x && decide (x.x < 512) && decide (x.off < 2 ^ 24) && decide (x.sel < 32)
   else x.bp == 0 && x.off == 0 && decide (x.x < 512) && x.x % 2 == 0 && decide (x.sel < 16)) &&
  x.scp ≠ .none && decide (x.ac < 16) && (!(x.acq || x.rel) || x.ty.is64) && cfOk x.cf
where
  /-- The base is a pair, or one scratch offset register when SEL[4] = 1. -/
  spair' (x : MxArgs) : Bool := decide (x.bp < 128) && (x.sel / 16 == 1 || x.bp % 2 == 0)

def mxAtom (wide : Bool) (x : MxArgs) : Bool :=
  mx wide x && atomSel (x.sel % 16) x.ty && dst x.d x.ty && src x.a x.ty && x.c == 0
def mxCas (wide : Bool) (x : MxArgs) : Bool :=
  mx wide x && x.sel % 16 == 0 && (x.ty = .b32 || x.ty = .b64) && dst x.d x.ty && src x.a x.ty && src x.c x.ty
def mxFatom (wide : Bool) (x : MxArgs) : Bool :=
  mx wide x && fatomSel (x.sel % 16) x.ty && dst x.d x.ty && src x.a x.ty && x.c == 0
def mxRed (wide : Bool) (x : MxArgs) : Bool :=
  mx wide x && (atomSel (x.sel % 16) x.ty && decide (x.sel % 16 < 6) || fatomSel (x.sel % 16) x.ty) && x.d == 0 &&
  src x.a x.ty && x.c == 0 && x.cf == 0

/-- R302: which fields an ms form uses. -/
def ms (ac k sa sb imm scp : Bool) (x : MsArgs) : Bool :=
  (ac || x.ac == 0) && (k || x.k == 0) && (sa || x.sa == 0) && (sb || x.sb == 0) && (imm || x.imm == 0) &&
  (scp || x.scp = .none) && decide (x.ac < 16) && decide (x.k < 64) && sreg x.sa && sreg x.sb && decide (x.imm < 2 ^ 16)
def msWaitc (x : MsArgs) : Bool := ms true true false false false false x
def msWaitb (x : MsArgs) : Bool := ms false false true false true false x
def msWaitm (x : MsArgs) : Bool := ms false false true true false false x && x.sb % 2 == 0
def msCommit (x : MsArgs) : Bool := ms false false false false false false x
def msBarT (x : MsArgs) : Bool := ms false false false false true true x && decide (x.imm < 8)
def msBarR (x : MsArgs) : Bool := ms false false false false true true x && decide (x.imm < 8)
def msBarG (x : MsArgs) : Bool :=
  ms false false false false false true x && (x.scp = .none || x.scp = .dev || x.scp = .sys)
def msBind (x : MsArgs) : Bool :=
  ms false false true true false false x && x.sa % 2 == 0 && decide (x.sa ≤ 124) && x.sb % 2 == 0
def msUnbind (x : MsArgs) : Bool :=
  ms false false true true false false x && x.sa % 2 == 0 && decide (x.sa ≤ 124) && x.sb % 2 == 0
def msQjoin (x : MsArgs) : Bool := ms false false false false true false x && x.imm != 0 && x.imm / 128 % 2 == 0
def msClaim (x : MsArgs) : Bool :=
  ms false false false false true false x && x.imm % 8 == 0 && decide (8 ≤ x.imm) && decide (x.imm ≤ 376)
def msAcq (x : MsArgs) : Bool :=
  ms false false true true false true x && x.scp ≠ .none && x.sa % 2 == 0 && x.sb % 2 == 0
def msRel (x : MsArgs) : Bool :=
  ms true false true true false true x && x.scp ≠ .none && x.sa % 2 == 0 && x.sb % 2 == 0

/-- Fields of the ce SEL (R312). -/
def ceNomap (sel : Nat) : Bool := sel / 128 == 1
def ceDsp (sel : Nat) : Nat := sel / 4 % 4
def ceSsp (sel : Nat) : Nat := sel % 4

/-- What all ce forms share; global operands name even pairs, and MAP is zero with NOMAP (R312, R313). -/
def ce (x : CeArgs) : Bool :=
  decide (x.q < 4) && sreg x.src && sreg x.dst && sreg x.ln && sreg x.map && decide (x.sel < 256) &&
  x.sel / 16 % 8 == 0 && decide (x.offs < 2 ^ 24) && decide (x.offd < 2 ^ 24) && (!ceNomap x.sel || x.map == 0)
def ceCp (x : CeArgs) : Bool :=
  ce x && decide (ceSsp x.sel < 2) && decide (ceDsp x.sel < 3) && (ceSsp x.sel != 0 || x.src % 2 == 0) &&
  (ceDsp x.sel == 1 || x.dst % 2 == 0) && (ceDsp x.sel != 2 || landOff x)
where
  /-- R316: OFFD of a landing destination holds a peer flag and a device number. -/
  landOff (x : CeArgs) : Bool := if x.offd / 2 ^ 23 == 1 then x.offd / 2 ^ 12 % 2 ^ 11 == 0 else x.offd == 0
def ceChain (x : CeArgs) : Bool :=
  ce x && decide (ceSsp x.sel < 2) && ceDsp x.sel == 1 && (ceSsp x.sel != 0 || x.src % 2 == 0) && x.dst % 2 == 0 &&
  decide (x.offd < 2 ^ 23)
def ceFill (x : CeArgs) : Bool :=
  ce x && ceSsp x.sel == 0 && decide (ceDsp x.sel < 2) && (ceDsp x.sel == 1 || x.dst % 2 == 0) && x.offs == 0

/-- R325, R326: the registers of A, B and IDX are bounded where their lengths are known, in the machine. -/
def mf (x : MfArgs) : Bool :=
  decide (x.tc < 256) && decide (x.a < 384) && decide (x.b < 384) && decide (x.fb ≤ 125) && x.ty = .f32 &&
  decide (x.sel < 16) && x.sel / 2 % 2 == 0 && sreg x.cw
def mfMma (x : MfArgs) : Bool := mf x && x.sel / 4 == 0 && x.idx == 0
def mfMmasp (x : MfArgs) : Bool := mf x && x.sel / 4 != 0 && decide (x.idx < 384)

def toTy (t : Ty) : Bool := t = .f64 || t = .f32 || t = .bf16
/-- R329: which fields a to form uses, its types and the bound of SEL. -/
def toForm (td ta tb tc mem : Bool) (typed : Bool) (selTop : Nat) (x : ToArgs) : Bool :=
  (if td then decide (x.td < 256) else x.td == 0) && (if ta then decide (x.ta < 256) else x.ta == 0) &&
  (if tb then decide (x.tb < 256) else x.tb == 0) && (if tc then decide (x.tc < 256) else x.tc == 0) &&
  (if mem then spair x.bp && decide (x.off < 2 ^ 24) else x.bp == 0 && x.off == 0) &&
  (if typed then toTy x.ty else noTy x.ty) && decide (x.sel < selTop) && sreg x.cw
def toLd (x : ToArgs) : Bool := toForm true false false false true false 1 x
def toSt (x : ToArgs) : Bool := toForm false true false false true false 1 x
def toZero (x : ToArgs) : Bool := toForm true false false false false true 2 x && (x.sel == 0 || x.ty = .f32)
def toFree (x : ToArgs) : Bool := toForm true false false false false false 1 x
def toUnary (x : ToArgs) : Bool := toForm true true false false false true 1 x
def toBinary (x : ToArgs) : Bool := toForm true true true false false true 4 x
def toGemm (x : ToArgs) : Bool := toForm true true true true false true 4 x
def toTr (x : ToArgs) : Bool := toForm true true false false false false 1 x
/-- to.scal names the pair of its factor in BP. -/
def toScal (x : ToArgs) : Bool :=
  decide (x.td < 256) && decide (x.ta < 256) && x.tb == 0 && x.tc == 0 && spair x.bp && x.off == 0 && toTy x.ty &&
  x.sel == 0 && sreg x.cw

/-- R343. -/
def tqInfo (x : TqArgs) : Bool :=
  sreg x.sd && decide (x.ta < 256) && x.sa == 0 && x.sel == 0 && x.imm == 0 && cfOk x.cf
def tqGet (x : TqArgs) : Bool :=
  sreg x.sd && x.ta == 0 && x.sa == 0 && decide (x.sel < 4) && x.imm == 0 && cfOk x.cf
def tqSet (x : TqArgs) : Bool :=
  x.sd == 0 && x.ta == 0 && x.sa == 0 && decide (x.sel < 5) && decide (x.imm < 2 ^ 32) && x.cf == 0

/-- R344: which fields a gx form uses. -/
def gx (d a mem ac : Bool) (x : GxArgs) : Bool :=
  (if d then decide (x.d < 384) else x.d == 0) && (if a then src1 x.a else x.a == 0) &&
  (if mem then spair x.bp && decide (x.off < 2 ^ 24) else x.bp == 0 && x.off == 0) &&
  (if ac then decide (x.ac < 16) else x.ac == 0) && decide (x.rgn < 4) && (if d then cfOk x.cf else x.cf == 0)

/-- R355. -/
def taRec (x : TaArgs) : Bool :=
  x.sel == 0 && x.sa == 0 && decide (1 ≤ x.n) && decide (x.n ≤ 32) && decide (x.a + x.n ≤ 384) && x.cf == 0
def taPop (x : TaArgs) : Bool :=
  x.sel == 0 && x.sa == 0 && decide (1 ≤ x.n) && decide (x.n ≤ 32) && decide (x.a + x.n ≤ 384) && cfOk x.cf
def taMark (x : TaArgs) : Bool := x.sel == 0 && sreg x.sa && x.n == 0 && x.a == 0 && x.cf == 0
def taCtl (k : Nat) (x : TaArgs) : Bool := x.sel == k && x.sa == 0 && x.n == 0 && x.a == 0 && x.cf == 0
def taHash (x : TaArgs) : Bool := x.sel == 0 && spair x.sa && x.n == 0 && x.a == 0 && x.cf == 0
def taGateOff (x : TaArgs) : Bool := x.sel == 0 && x.sa == 0 && decide (x.n < 16) && x.a == 0 && x.cf == 0
def taGateArm (k : Nat) (x : TaArgs) : Bool :=
  x.sel == k && spair x.sa && decide (x.sa ≤ 122) && decide (x.n < 16) && x.a == 0 && x.cf == 0

/-- R364. -/
def nmUpd (x : NmArgs) : Bool := x.sel == 0 && x.stk == 0 && x.buf == 0 && spair x.bp && decide (x.off < 2 ^ 24)
def nmLandInst (x : NmArgs) : Bool :=
  x.sel == 0 && decide (x.stk < 8) && decide (x.buf < 64) && spair x.bp && decide (x.off < 2 ^ 24)
def nmLandRem (x : NmArgs) : Bool := x.sel == 1 && decide (x.stk < 8) && decide (x.buf < 64) && x.bp == 0 && x.off == 0
def nmCtlDone (x : NmArgs) : Bool :=
  x.sel == 0 && decide (x.stk < 8) && x.buf == 0 && spair x.bp && decide (x.off < 2 ^ 24)

/-- R365, R368. -/
def lsLaunch (x : LsArgs) : Bool :=
  spair x.sa && sreg x.sb && spair x.sx && decide (x.q < 64) && decide (x.imm < 2 ^ 32)
def lsSpawn (x : LsArgs) : Bool :=
  spair x.sa && x.sb == 0 && x.sx == 0 && x.q == 0 && !x.coop && decide (x.imm < 384)

/-- The assigned CSR numbers (R371). -/
def csrKnown (n : Nat) : Bool :=
  decide (n ≤ 0x004) || (decide (0x100 ≤ n) && decide (n ≤ 0x102)) || (decide (0x200 ≤ n) && decide (n ≤ 0x205)) ||
  (decide (0x300 ≤ n) && decide (n ≤ 0x308)) || (decide (0x400 ≤ n) && decide (n ≤ 0x40F)) ||
  (decide (0x500 ≤ n) && decide (n ≤ 0x507)) || (decide (0x600 ≤ n) && decide (n ≤ 0x604))

/-- The read-only CSRs (R371): a write form that names one is an illegal encoding (R369). -/
def csrReadOnly (n : Nat) : Bool :=
  decide (n ≤ 0x004) || n == 0x501 || n == 0x504 || n == 0x507 || n == 0x602 || n == 0x603

/-- R369. -/
def syCsrr (x : SyArgs) : Bool := sreg x.sd && x.sa == 0 && csrKnown x.csr && x.imm == 0
def syCsrSet (x : SyArgs) : Bool := x.sd == 0 && sreg x.sa && csrKnown x.csr && !csrReadOnly x.csr && x.imm == 0
def syTrap (x : SyArgs) : Bool := x.sd == 0 && x.sa == 0 && x.csr == 0 && decide (x.imm < 2 ^ 16)
def syTret (x : SyArgs) : Bool := x.sd == 0 && x.sa == 0 && x.csr == 0 && x.imm == 0
def syClk (x : SyArgs) : Bool := spair x.sd && x.sa == 0 && x.csr == 0 && x.imm == 0
def syRng (x : SyArgs) : Bool := x.sd == 0 && spair x.sa && x.csr == 0 && x.imm == 0

end WellFormed

/-- The vector registers a vo operand names: one, or a pair (R267); a scalar source names none. -/
def operandRegs (pair : Bool) (a : Nat) : List Nat :=
  if 384 ≤ a then [] else if pair then [a, a + 1] else [a]

/-- The shift and bfe amounts are one register whatever the type (R232). -/
def VoOp.amountB : VoOp → Bool
  | .shl => true | .shr => true | .sra => true | .bfe => true
  | _ => false

/-- Whether a vo operation reads B (R232). -/
def VoOp.readsB : VoOp → Bool
  | .abs => false | .popc => false | .clz => false | .brev => false | .mov => false | .cvt => false | .rnd => false
  | _ => true

/-- The vector registers a vo operation reads (R232). -/
def voReads (op : VoOp) (x : VoArgs) : List Nat :=
  operandRegs (if op = .cvt then x.ty2.is64 else x.ty.is64) x.a ++
  (if op.readsB then operandRegs (x.ty.is64 && !op.amountB) x.b else [])

/-- The vector registers a vo operation writes. -/
def voWrites (x : VoArgs) : List Nat := operandRegs x.ty.is64 x.d

/-- The float class of R232. -/
def VoOp.floatClass (op : VoOp) (x : VoArgs) : Bool :=
  match op with
  | .fadd => true | .fsub => true | .fmul => true | .fmin => true | .fmax => true | .cvt => true | .rnd => true
  | .min => x.ty.isFloat | .max => x.ty.isFloat | .abs => x.ty.isFloat
  | _ => false

/-- The integer class of R232: every other operation except mov and sel. -/
def VoOp.intClass (op : VoOp) (x : VoArgs) : Bool :=
  !op.floatClass x && !(op = .mov || op = .sel)

/-- R232: the pairing rules of a vp. -/
def vpPair (op1 : VoOp) (x1 : VoArgs) (op2 : VoOp) (x2 : VoArgs) : Bool :=
  let w1 := voWrites x1
  let w2 := voWrites x2
  let r1 := voReads op1 x1
  let r2 := voReads op2 x2
  w1.all (fun a => w2.all fun b => a % 4 != b % 4) &&
  decide ((distinct (r1 ++ r2)).length ≤ 3) &&
  decide ((distinct (r1.filter fun a => r2.contains a)).length ≤ 1) &&
  r2.all (fun a => !w1.contains a) && x1.d != x2.d &&
  !(op1.floatClass x1 && op2.floatClass x2) && !(op1.intClass x1 && op2.intClass x2)
where
  /-- The members of a list, each once. -/
  distinct (l : List Nat) : List Nat := l.foldr (fun a t => if t.contains a then t else a :: t) []

/-- Whether an instruction is an encoding: step 5 of R226 and, for vp, the pairing rules of step 6. -/
def Instr.wf : Instr → Bool
  | .ch x => WellFormed.ch x
  | .soAdd x => WellFormed.so [.i32, .n32] true true false 1 x
  | .soSub x => WellFormed.so [.i32, .n32] true true false 1 x
  | .soMul x => WellFormed.so [.i32, .n32] true true false 1 x
  | .soMulh x => WellFormed.so [.i32, .n32] true true false 1 x
  | .soAnd x => WellFormed.so [.b32] true true false 1 x
  | .soOr x => WellFormed.so [.b32] true true false 1 x
  | .soXor x => WellFormed.so [.b32] true true false 1 x
  | .soShl x => WellFormed.so [.b32] true true false 1 x
  | .soShr x => WellFormed.so [.b32] true true false 1 x
  | .soSra x => WellFormed.so [.b32] true true false 1 x
  | .soMin x => WellFormed.so [.i32, .n32] true true false 1 x
  | .soMax x => WellFormed.so [.i32, .n32] true true false 1 x
  | .soCmp x => WellFormed.so [.i32, .n32] true true false 6 x
  | .soSel x => WellFormed.so [.i8] true true true 1 x
  | .soBfe x => WellFormed.so [.i32, .n32] true true false 1 x
  | .soBfi x => WellFormed.so [.i8] true true true 1 x
  | .soPopc x => WellFormed.so [.i8] true false false 1 x
  | .soClz x => WellFormed.so [.i8] true false false 1 x
  | .soAdd64 x => WellFormed.so [.i8] true true false 1 x && x.sd % 2 == 0 && x.sa % 2 == 0 && x.sb % 2 == 0
  | .soLea x => WellFormed.so [.i32, .n32] true true false 8 x && x.sd % 2 == 0 && x.sa % 2 == 0
  | .soMov x => WellFormed.so [.b32, .b64] true false false 1 x && (x.ty = .b32 || (x.sd % 2 == 0 && x.sa % 2 == 0))
  | .soRdid x => WellFormed.so [.i8] false false false 8 x
  | .skMov x => WellFormed.sk [.b32] false 1 x
  | .skAdd x => WellFormed.sk [.i32, .n32] true 1 x
  | .skAnd x => WellFormed.sk [.b32] true 1 x
  | .skOr x => WellFormed.sk [.b32] true 1 x
  | .skXor x => WellFormed.sk [.b32] true 1 x
  | .skCmp x => WellFormed.sk [.i32, .n32] true 6 x
  | .voAdd x => WellFormed.vo .add x
  | .voSub x => WellFormed.vo .sub x
  | .voMull x => WellFormed.vo .mull x
  | .voMulh x => WellFormed.vo .mulh x
  | .voAnd x => WellFormed.vo .and x
  | .voOr x => WellFormed.vo .or x
  | .voXor x => WellFormed.vo .xor x
  | .voShl x => WellFormed.vo .shl x
  | .voShr x => WellFormed.vo .shr x
  | .voSra x => WellFormed.vo .sra x
  | .voMin x => WellFormed.vo .min x
  | .voMax x => WellFormed.vo .max x
  | .voAbs x => WellFormed.vo .abs x
  | .voBfe x => WellFormed.vo .bfe x
  | .voPopc x => WellFormed.vo .popc x
  | .voClz x => WellFormed.vo .clz x
  | .voBrev x => WellFormed.vo .brev x
  | .voFadd x => WellFormed.vo .fadd x
  | .voFsub x => WellFormed.vo .fsub x
  | .voFmul x => WellFormed.vo .fmul x
  | .voFmin x => WellFormed.vo .fmin x
  | .voFmax x => WellFormed.vo .fmax x
  | .voCvt x => WellFormed.vo .cvt x
  | .voRnd x => WellFormed.vo .rnd x
  | .voSel x => WellFormed.vo .sel x
  | .voMov x => WellFormed.vo .mov x
  | .vwFma x => WellFormed.vwFma x
  | .vwMad x => WellFormed.vwMad x
  | .vwBfi x => WellFormed.vwBfi x
  | .vwCvtsr x => WellFormed.vwCvtsr x
  | .vwPack x => WellFormed.vwPack x
  | .vkAdd x => WellFormed.vk [.i32, .n32, .f32] true [.f32] [.i32, .n32, .f32] x
  | .vkMul x => WellFormed.vk [.i32, .n32, .f32] true [.f32] [.f32] x
  | .vkAnd x => WellFormed.vk [.b32] true [] [] x
  | .vkOr x => WellFormed.vk [.b32] true [] [] x
  | .vkMov x => WellFormed.vk [.b32, .f32] false [] [] x
  | .vkFma x => WellFormed.vk [.f32] true [.f32] [.f32] x
  | .vp op1 x1 op2 x2 => WellFormed.vo op1 x1 && WellFormed.vo op2 x2 && vpPair op1 x1 op2 x2
  | .vmCmp x => WellFormed.vmCmp x
  | .vmClass x => WellFormed.vmClass x
  | .sfRcp x => WellFormed.sf x
  | .sfRsq x => WellFormed.sf x
  | .sfSqrt x => WellFormed.sf x
  | .sfExp2 x => WellFormed.sf x
  | .sfLog2 x => WellFormed.sf x
  | .sfSin x => WellFormed.sf x
  | .sfCos x => WellFormed.sf x
  | .sfTanh x => WellFormed.sf x
  | .sfSigm x => WellFormed.sf x
  | .sfGelu x => WellFormed.sf x
  | .sfSilu x => WellFormed.sf x
  | .sfErf x => WellFormed.sf x
  | .xlShfl x => WellFormed.xlShfl x
  | .xlShflx x => WellFormed.xlShflx x
  | .xlBfly x => WellFormed.xlBfly x
  | .xlVote x => WellFormed.xlVote x
  | .xlRdln x => WellFormed.xlRdln x
  | .xlWrln x => WellFormed.xlWrln x
  | .xlScan x => WellFormed.xlScan x
  | .xlRed x => WellFormed.xlRed x
  | .bcBr x => WellFormed.bcBr x
  | .bcBrd x => WellFormed.bcBrd x
  | .bcJmp x => WellFormed.bcJmp x
  | .bcCall x => WellFormed.bcCall x
  | .bcRet x => WellFormed.bcRet x
  | .bcExit x => WellFormed.bcNone x
  | .bcNop x => WellFormed.bcNone x
  | .bcBrk x => WellFormed.bcBrk x
  | .xfQuant x => WellFormed.xfQuant x
  | .xfDq x => WellFormed.xfDq x
  | .xfSign x => WellFormed.xfSign x
  | .xfPack x => WellFormed.xfPack x
  | .maLd x => WellFormed.maLd x
  | .maSt x => WellFormed.maSt x
  | .maLdg x => WellFormed.maLdg x
  | .maStg x => WellFormed.maStg x
  | .maLds x => WellFormed.maLds x
  | .maSts x => WellFormed.maSts x
  | .maLdsc x => WellFormed.maLdsc x
  | .maPf x => WellFormed.maPf x
  | .maFpush x => WellFormed.maFifo false x
  | .maFpop x => WellFormed.maFifo true x
  | .mxAtom96 x => WellFormed.mxAtom false x
  | .mxAtom128 x => WellFormed.mxAtom true x
  | .mxCas96 x => WellFormed.mxCas false x
  | .mxCas128 x => WellFormed.mxCas true x
  | .mxFatom96 x => WellFormed.mxFatom false x
  | .mxFatom128 x => WellFormed.mxFatom true x
  | .mxRed96 x => WellFormed.mxRed false x
  | .mxRed128 x => WellFormed.mxRed true x
  | .msWaitc x => WellFormed.msWaitc x
  | .msWaitb x => WellFormed.msWaitb x
  | .msWaitm x => WellFormed.msWaitm x
  | .msCommit x => WellFormed.msCommit x
  | .msBarT x => WellFormed.msBarT x
  | .msBarR x => WellFormed.msBarR x
  | .msBarG x => WellFormed.msBarG x
  | .msBind x => WellFormed.msBind x
  | .msUnbind x => WellFormed.msUnbind x
  | .msQjoin x => WellFormed.msQjoin x
  | .msRclaim x => WellFormed.msClaim x
  | .msRgive x => WellFormed.msClaim x
  | .msAcq x => WellFormed.msAcq x
  | .msRel x => WellFormed.msRel x
  | .ceCp x => WellFormed.ceCp x
  | .ceChain x => WellFormed.ceChain x
  | .ceFill x => WellFormed.ceFill x
  | .mfMma x => WellFormed.mfMma x
  | .mfMmasp x => WellFormed.mfMmasp x
  | .toLd x => WellFormed.toLd x
  | .toSt x => WellFormed.toSt x
  | .toZero x => WellFormed.toZero x
  | .toFree x => WellFormed.toFree x
  | .toDense x => WellFormed.toUnary x
  | .toCmpr x => WellFormed.toUnary x
  | .toAdd x => WellFormed.toBinary x
  | .toMul x => WellFormed.toBinary x
  | .toGemm x => WellFormed.toGemm x
  | .toLu x => WellFormed.toUnary x
  | .toTrsm x => WellFormed.toBinary x
  | .toScal x => WellFormed.toScal x
  | .toTr x => WellFormed.toTr x
  | .toRound x => WellFormed.toUnary x
  | .tqInfo x => WellFormed.tqInfo x
  | .tqGet x => WellFormed.tqGet x
  | .tqSet x => WellFormed.tqSet x
  | .gxAdd x => WellFormed.gx false true true true x
  | .gxRead x => WellFormed.gx true false true true x
  | .gxStep x => WellFormed.gx false false false false x
  | .gxSpread x => WellFormed.gx true true true true x
  | .gxCtl x => WellFormed.gx false false false true x
  | .taRec x => WellFormed.taRec x
  | .taMark x => WellFormed.taMark x
  | .taPop x => WellFormed.taPop x
  | .taCtlFlush x => WellFormed.taCtl 0 x
  | .taCtlRewind x => WellFormed.taCtl 1 x
  | .taHash x => WellFormed.taHash x
  | .taGateOff x => WellFormed.taGateOff x
  | .taGateRec x => WellFormed.taGateArm 1 x
  | .taGatePlay x => WellFormed.taGateArm 2 x
  | .nmUpd x => WellFormed.nmUpd x
  | .nmLandInst x => WellFormed.nmLandInst x
  | .nmLandRem x => WellFormed.nmLandRem x
  | .nmCtlDone x => WellFormed.nmCtlDone x
  | .lsLaunch x => WellFormed.lsLaunch x
  | .lsSpawn x => WellFormed.lsSpawn x
  | .syCsrr x => WellFormed.syCsrr x
  | .syCsrw x => WellFormed.syCsrSet x
  | .syCsrs x => WellFormed.syCsrSet x
  | .syCsrc x => WellFormed.syCsrSet x
  | .syTrap x => WellFormed.syTrap x
  | .syTret x => WellFormed.syTret x
  | .syClk x => WellFormed.syClk x
  | .syRng x => WellFormed.syRng x
  | .storePerform _ _ _ => true
  | .loadPerform _ _ _ _ => true
  | .coreWriteDown _ _ => true
  | .clusterWriteDown _ _ => true
  | .dropLine _ _ _ => true
  | .releasePerform _ _ _ => true
  | .acquirePerform _ _ _ => true
  | .atomicPerform _ _ _ _ => true
  | .scratchAccessPerform _ _ _ => true
  | .fifoPushPerform _ _ => true
  | .fifoPopPerform _ _ => true
  | .pinCounterAgeing _ => true
  | .mscWriteback _ _ => true
  | .patrolScrub _ _ _ => true
  | .faultReplay _ => true
  | .engineEntryResume _ => true
  | .queueJoinPerform _ => true
  | .copyChunkLand _ _ _ _ => true
  | .tileEntryStart _ _ => true
  | .tileCommit _ _ _ => true
  | .transformEntryComplete _ => true
  | .nmuUpdate _ _ => true
  | .landingInstall _ => true
  | .landingRemove _ => true
  | .nmuDoneWrite _ => true
  | .reductionPacket _ => true
  | .gossipDeparture _ _ => true
  | .gossipArrival _ _ _ _ => true
  | .gossipBounce _ _ _ => true
  | .gossipAck _ _ _ => true
  | .gossipSweep _ _ => true
  | .gossipInitComplete _ _ => true
  | .gossipModeEffect _ _ => true
  | .linkFailure _ => true
  | .linkRetrain _ _ _ => true
  | .peerRequest _ => true
  | .peerAcknowledgement _ _ => true
  | .hostCxlMemRead _ _ _ => true
  | .hostCxlMemWrite _ _ => true
  | .hostCxlSnoop _ _ => true
  | .hostWindowWrite _ _ => true
  | .hostWindowReadback _ => true
  | .teamPlace => true
  | .teamEnd _ => true
  | .scratchReclaim _ => true
  | .granuleReturn _ => true
  | .rclaimServed _ => true
  | .pathTimeout _ => true
  | .blockedTimeTick _ => true
  | .spawnTimerExpiry _ _ => true
  | .spawnBinLaunch _ _ => true
  | .preemptTrigger _ => true
  | .tapeEntryPerform _ => true
  | .bankDrainComplete _ _ => true
  | .bankClearComplete _ _ => true
  | .deviceReset => true
  | .thermalThrottle _ => true
  | .thermalCutoff => true
  | .coolantFlowLow _ => true
  | .csrWrite _ _ _ => true
  | .tapebaseWrite _ _ _ => true
  | .tapectlWrite _ _ => true
  | .gxcfgWrite _ _ _ => true
  | .gxlenWrite _ _ _ => true
  | .gxstatWrite _ _ _ => true
  | .tilequotaWrite _ _ => true
  | .rankceilWrite _ _ => true
  | .rankmodeWrite _ _ => true
  | .ctxCreate => true
  | .ctxDestroy => true
  | .mapPage => true
  | .unmap => true
  | .decline => true
  | .keyDestroy => true
  | .loadImage => true
  | .launch => true
  | .preempt => true
  | .resumeCtx => true
  | .testTrigger => true
  | .dcAdd => true
  | .dcRelease _ => true
  | .flush _ => true
  | .bankSet => true
  | .attest => true
  | .powercap => true
  | .mbdoorWrite _ _ => true
  | .eqtailWrite _ => true
  | .pincfgWrite _ _ => true
  | .hostDmaRingWrite _ => true
  | .exportTableGrant _ => true

end Sys2Proof
end

