-- ==== Sys2Proof/Decode.lean ====
section
/-! DEFINITION. The decoder and the encoder of Lyner instructions, from the tables of spec/09_encoding.md R216 to R226.
An instruction is a number of 64, 96 or 128 bits, bit 0 the least significant bit of its first word (R3, R216). -/

namespace Sys2Proof

/-- Why a word is no instruction. Every reason is an illegal encoding (0x01) by R226. -/
inductive DecodeErr where
  /-- LEN = 11 (R216). -/
  | lengthCode
  /-- FMT is unassigned (R219). -/
  | format (fmt : Nat)
  /-- LEN is not admitted by the format (R220). -/
  | lengthOfFormat (fmt : Nat)
  /-- OP or the selector that names the form, TY, TY2 or SCP is unassigned (R222, R223, R225). -/
  | unassigned (fmt op : Nat)
  /-- A reserved bit is set (R221). -/
  | reserved
  /-- A field holds a value its instruction does not permit (R226 step 5, R232). -/
  | illFormed
  /-- The bytes end before the instruction does. -/
  | tooShort
  deriving DecidableEq, Repr

/-- Bits `[lo + n - 1 : lo]` of a number. -/
def field (w lo n : Nat) : Nat := w / 2 ^ lo % 2 ^ n

def bit (b : Bool) : Nat := if b then 1 else 0

def Ty.ofCode : Nat → Option Ty
  | 0 => some .i8 | 1 => some .i16 | 2 => some .i32 | 3 => some .i64 | 4 => some .n8 | 5 => some .n16 | 6 => some .n32
  | 7 => some .n64 | 8 => some .b32 | 9 => some .b64 | 10 => some .f64 | 11 => some .f32 | 12 => some .bf16
  | 13 => some .f16 | 14 => some .f8e4 | 15 => some .f8e5 | 16 => some .f4 | 17 => some .e8 | 18 => some .tern
  | _ => none

def Scope.code : Scope → Nat
  | .none => 0 | .grp => 1 | .team => 2 | .clus => 3 | .dev => 4 | .sys => 5

def Scope.ofCode : Nat → Option Scope
  | 0 => some .none | 1 => some .grp | 2 => some .team | 3 => some .clus | 4 => some .dev | 5 => some .sys
  | _ => Option.none

def Rm.code : Rm → Nat
  | .rne => 0 | .rtz => 1 | .rdn => 2 | .rup => 3

def Rm.ofCode : Nat → Rm
  | 0 => .rne | 1 => .rtz | 2 => .rdn | _ => .rup

def VoOp.code : VoOp → Nat
  | .add => 0 | .sub => 1 | .mull => 2 | .mulh => 3 | .and => 4 | .or => 5 | .xor => 6 | .shl => 7 | .shr => 8
  | .sra => 9 | .min => 10 | .max => 11 | .abs => 12 | .bfe => 13 | .popc => 14 | .clz => 15 | .brev => 16
  | .fadd => 17 | .fsub => 18 | .fmul => 19 | .fmin => 20 | .fmax => 21 | .cvt => 22 | .rnd => 23 | .sel => 24
  | .mov => 25

def VoOp.ofCode : Nat → Option VoOp
  | 0 => some .add | 1 => some .sub | 2 => some .mull | 3 => some .mulh | 4 => some .and | 5 => some .or
  | 6 => some .xor | 7 => some .shl | 8 => some .shr | 9 => some .sra | 10 => some .min | 11 => some .max
  | 12 => some .abs | 13 => some .bfe | 14 => some .popc | 15 => some .clz | 16 => some .brev | 17 => some .fadd
  | 18 => some .fsub | 19 => some .fmul | 20 => some .fmin | 21 => some .fmax | 22 => some .cvt | 23 => some .rnd
  | 24 => some .sel | 25 => some .mov
  | _ => none

/-- The instruction of one vo operation. -/
def voInstr (x : VoArgs) : VoOp → Instr
  | .add => .voAdd x | .sub => .voSub x | .mull => .voMull x | .mulh => .voMulh x | .and => .voAnd x | .or => .voOr x
  | .xor => .voXor x | .shl => .voShl x | .shr => .voShr x | .sra => .voSra x | .min => .voMin x | .max => .voMax x
  | .abs => .voAbs x | .bfe => .voBfe x | .popc => .voPopc x | .clz => .voClz x | .brev => .voBrev x
  | .fadd => .voFadd x | .fsub => .voFsub x | .fmul => .voFmul x | .fmin => .voFmin x | .fmax => .voFmax x
  | .cvt => .voCvt x | .rnd => .voRnd x | .sel => .voSel x | .mov => .voMov x

/-- R218: the common header, CF apart. -/
def header (len fmt op : Nat) : Nat := len + fmt * 2 ^ 2 + op * 2 ^ 8

/-- R224, ch: the fields above bit 15. -/
def encCh (x : ChArgs) : Nat :=
  x.clen * 2 ^ 16 + x.wait * 2 ^ 20 + x.fa * 2 ^ 32 + bit x.fav * 2 ^ 36 + x.fb * 2 ^ 37 + bit x.fbv * 2 ^ 41

/-- R224, ch: the fields of a word; none for an unassigned type or scope code. -/
def getCh (w : Nat) : Option ChArgs := some { clen := field w 16 4, wait := field w 20 12, fa := field w 32 4, fav := field w 36 1 == 1, fb := field w 37 4, fbv := field w 41 1 == 1 }

/-- R224, so: the fields above bit 15. -/
def encSo (x : SoArgs) : Nat :=
  x.sd * 2 ^ 16 + x.sa * 2 ^ 23 + x.sb * 2 ^ 30 + x.sx * 2 ^ 37 + x.ty.code * 2 ^ 44 + x.sel * 2 ^ 49

/-- R224, so: the fields of a word; none for an unassigned type or scope code. -/
def getSo (w : Nat) : Option SoArgs :=
  match Ty.ofCode (field w 44 5) with
  | some ty => some { sd := field w 16 7, sa := field w 23 7, sb := field w 30 7, sx := field w 37 7, ty := ty, sel := field w 49 8 }
  | _ => none

/-- R224, sk: the fields above bit 15. -/
def encSk (x : SkArgs) : Nat :=
  x.sd * 2 ^ 16 + x.sa * 2 ^ 23 + x.ty.code * 2 ^ 30 + x.sel * 2 ^ 35 + x.imm * 2 ^ 64

/-- R224, sk: the fields of a word; none for an unassigned type or scope code. -/
def getSk (w : Nat) : Option SkArgs :=
  match Ty.ofCode (field w 30 5) with
  | some ty => some { sd := field w 16 7, sa := field w 23 7, ty := ty, sel := field w 35 8, imm := field w 64 32 }
  | _ => none

/-- R224, vo: the fields above bit 15. -/
def encVo (x : VoArgs) : Nat :=
  x.d * 2 ^ 16 + x.a * 2 ^ 25 + x.b * 2 ^ 34 + x.ty.code * 2 ^ 43 + x.rm.code * 2 ^ 48 + bit x.sat * 2 ^ 50 + x.ty2.code * 2 ^ 51 + x.sel * 2 ^ 56

/-- R224, vo: the fields of a word; none for an unassigned type or scope code. -/
def getVo (w : Nat) : Option VoArgs :=
  match Ty.ofCode (field w 43 5), Ty.ofCode (field w 51 5) with
  | some ty, some ty2 => some { d := field w 16 9, a := field w 25 9, b := field w 34 9, ty := ty, rm := Rm.ofCode (field w 48 2), sat := field w 50 1 == 1, ty2 := ty2, sel := field w 56 4 }
  | _, _ => none

/-- R224, vw: the fields above bit 15. -/
def encVw (x : VwArgs) : Nat :=
  x.d * 2 ^ 16 + x.a * 2 ^ 25 + x.b * 2 ^ 34 + x.c * 2 ^ 43 + x.ty.code * 2 ^ 52 + x.ty2.code * 2 ^ 57 + x.rm.code * 2 ^ 62 + bit x.sat * 2 ^ 64 + x.neg * 2 ^ 65 + x.sel * 2 ^ 68

/-- R224, vw: the fields of a word; none for an unassigned type or scope code. -/
def getVw (w : Nat) : Option VwArgs :=
  match Ty.ofCode (field w 52 5), Ty.ofCode (field w 57 5) with
  | some ty, some ty2 => some { d := field w 16 9, a := field w 25 9, b := field w 34 9, c := field w 43 9, ty := ty, ty2 := ty2, rm := Rm.ofCode (field w 62 2), sat := field w 64 1 == 1, neg := field w 65 3, sel := field w 68 4 }
  | _, _ => none

/-- R224, vk: the fields above bit 15. -/
def encVk (x : VkArgs) : Nat :=
  x.d * 2 ^ 16 + x.a * 2 ^ 25 + x.ty.code * 2 ^ 34 + x.rm.code * 2 ^ 39 + bit x.sat * 2 ^ 41 + x.sel * 2 ^ 42 + x.imm * 2 ^ 64

/-- R224, vk: the fields of a word; none for an unassigned type or scope code. -/
def getVk (w : Nat) : Option VkArgs :=
  match Ty.ofCode (field w 34 5) with
  | some ty => some { d := field w 16 9, a := field w 25 9, ty := ty, rm := Rm.ofCode (field w 39 2), sat := field w 41 1 == 1, sel := field w 42 4, imm := field w 64 32 }
  | _ => none

/-- R224, vm: the fields above bit 15. -/
def encVm (x : VmArgs) : Nat :=
  x.sd * 2 ^ 16 + x.a * 2 ^ 23 + x.b * 2 ^ 32 + x.ty.code * 2 ^ 41 + x.sel * 2 ^ 46

/-- R224, vm: the fields of a word; none for an unassigned type or scope code. -/
def getVm (w : Nat) : Option VmArgs :=
  match Ty.ofCode (field w 41 5) with
  | some ty => some { sd := field w 16 7, a := field w 23 9, b := field w 32 9, ty := ty, sel := field w 46 5 }
  | _ => none

/-- R224, sf: the fields above bit 15 and CF. -/
def encSf (x : SfArgs) : Nat :=
  x.cf * 2 ^ 13 + x.d * 2 ^ 16 + x.a * 2 ^ 25 + x.ty.code * 2 ^ 34

/-- R224, sf: the fields of a word; none for an unassigned type or scope code. -/
def getSf (w : Nat) : Option SfArgs :=
  match Ty.ofCode (field w 34 5) with
  | some ty => some { cf := field w 13 2, d := field w 16 9, a := field w 25 9, ty := ty }
  | _ => none

/-- R224, xl: the fields above bit 15 and CF. -/
def encXl (x : XlArgs) : Nat :=
  x.cf * 2 ^ 13 + x.d * 2 ^ 16 + x.a * 2 ^ 25 + x.b * 2 ^ 34 + x.sm * 2 ^ 43 + x.ty.code * 2 ^ 50 + x.sel * 2 ^ 55

/-- R224, xl: the fields of a word; none for an unassigned type or scope code. -/
def getXl (w : Nat) : Option XlArgs :=
  match Ty.ofCode (field w 50 5) with
  | some ty => some { cf := field w 13 2, d := field w 16 9, a := field w 25 9, b := field w 34 9, sm := field w 43 7, ty := ty, sel := field w 55 4 }
  | _ => none

/-- R224, bc: the fields above bit 15. -/
def encBc (x : BcArgs) : Nat :=
  x.cv * 2 ^ 16 + x.toff * 2 ^ 25 + x.roff * 2 ^ 45

/-- R224, bc: the fields of a word; none for an unassigned type or scope code. -/
def getBc (w : Nat) : Option BcArgs := some { cv := field w 16 9, toff := field w 25 20, roff := field w 45 19 }

/-- R224, xf: the fields above bit 15 and CF. -/
def encXf (x : XfArgs) : Nat :=
  x.cf * 2 ^ 13 + x.d * 2 ^ 16 + x.a * 2 ^ 25 + x.b * 2 ^ 34 + x.ty.code * 2 ^ 43 + x.ty2.code * 2 ^ 48 + x.sel * 2 ^ 53 + x.imm * 2 ^ 64

/-- R224, xf: the fields of a word; none for an unassigned type or scope code. -/
def getXf (w : Nat) : Option XfArgs :=
  match Ty.ofCode (field w 43 5), Ty.ofCode (field w 48 5) with
  | some ty, some ty2 => some { cf := field w 13 2, d := field w 16 9, a := field w 25 9, b := field w 34 9, ty := ty, ty2 := ty2, sel := field w 53 4, imm := field w 64 32 }
  | _, _ => none

/-- R224, ma: the fields above bit 15 and CF. -/
def encMa (x : MaArgs) : Nat :=
  x.cf * 2 ^ 13 + x.d * 2 ^ 16 + x.bp * 2 ^ 25 + x.ac * 2 ^ 32 + x.scp.code * 2 ^ 36 + bit x.acq * 2 ^ 39 + bit x.rel * 2 ^ 40 + x.ty.code * 2 ^ 41 + x.rc * 2 ^ 46 + x.x * 2 ^ 48 + x.off * 2 ^ 64 + x.sel * 2 ^ 88

/-- R224, ma: the fields of a word; none for an unassigned type or scope code. -/
def getMa (w : Nat) : Option MaArgs :=
  match Scope.ofCode (field w 36 3), Ty.ofCode (field w 41 5) with
  | some scp, some ty => some { cf := field w 13 2, d := field w 16 9, bp := field w 25 7, ac := field w 32 4, scp := scp, acq := field w 39 1 == 1, rel := field w 40 1 == 1, ty := ty, rc := field w 46 2, x := field w 48 9, off := field w 64 24, sel := field w 88 8 }
  | _, _ => none

/-- R224, mx96: the fields above bit 15 and CF. -/
def encMx96 (x : MxArgs) : Nat :=
  x.cf * 2 ^ 13 + x.d * 2 ^ 16 + x.a * 2 ^ 25 + x.x * 2 ^ 34 + x.ac * 2 ^ 43 + x.scp.code * 2 ^ 47 + bit x.acq * 2 ^ 50 + bit x.rel * 2 ^ 51 + x.ty.code * 2 ^ 52 + x.sel * 2 ^ 57 + x.c * 2 ^ 64

/-- R224, mx96: the fields of a word; none for an unassigned type or scope code. -/
def getMx96 (w : Nat) : Option MxArgs :=
  match Scope.ofCode (field w 47 3), Ty.ofCode (field w 52 5) with
  | some scp, some ty => some { cf := field w 13 2, d := field w 16 9, a := field w 25 9, x := field w 34 9, ac := field w 43 4, scp := scp, acq := field w 50 1 == 1, rel := field w 51 1 == 1, ty := ty, sel := field w 57 5, c := field w 64 9 }
  | _, _ => none

/-- R224, mx128: the fields above bit 15 and CF. -/
def encMx128 (x : MxArgs) : Nat :=
  x.cf * 2 ^ 13 + x.d * 2 ^ 16 + x.a * 2 ^ 25 + x.x * 2 ^ 34 + x.ac * 2 ^ 43 + x.scp.code * 2 ^ 47 + bit x.acq * 2 ^ 50 + bit x.rel * 2 ^ 51 + x.ty.code * 2 ^ 52 + x.sel * 2 ^ 57 + x.c * 2 ^ 64 + x.bp * 2 ^ 73 + x.off * 2 ^ 88

/-- R224, mx128: the fields of a word; none for an unassigned type or scope code. -/
def getMx128 (w : Nat) : Option MxArgs :=
  match Scope.ofCode (field w 47 3), Ty.ofCode (field w 52 5) with
  | some scp, some ty => some { cf := field w 13 2, d := field w 16 9, a := field w 25 9, x := field w 34 9, ac := field w 43 4, scp := scp, acq := field w 50 1 == 1, rel := field w 51 1 == 1, ty := ty, sel := field w 57 5, c := field w 64 9, bp := field w 73 7, off := field w 88 24 }
  | _, _ => none

/-- R224, ms: the fields above bit 15. -/
def encMs (x : MsArgs) : Nat :=
  x.ac * 2 ^ 16 + x.k * 2 ^ 20 + x.sa * 2 ^ 26 + x.sb * 2 ^ 33 + x.imm * 2 ^ 40 + x.scp.code * 2 ^ 56

/-- R224, ms: the fields of a word; none for an unassigned type or scope code. -/
def getMs (w : Nat) : Option MsArgs :=
  match Scope.ofCode (field w 56 3) with
  | some scp => some { ac := field w 16 4, k := field w 20 6, sa := field w 26 7, sb := field w 33 7, imm := field w 40 16, scp := scp }
  | _ => none

/-- R224, ce: the fields above bit 15. -/
def encCe (x : CeArgs) : Nat :=
  x.q * 2 ^ 16 + x.src * 2 ^ 21 + x.dst * 2 ^ 28 + x.ln * 2 ^ 35 + x.map * 2 ^ 42 + x.sel * 2 ^ 49 + x.offs * 2 ^ 64 + x.offd * 2 ^ 88

/-- R224, ce: the fields of a word; none for an unassigned type or scope code. -/
def getCe (w : Nat) : Option CeArgs := some { q := field w 16 2, src := field w 21 7, dst := field w 28 7, ln := field w 35 7, map := field w 42 7, sel := field w 49 8, offs := field w 64 24, offd := field w 88 24 }

/-- R224, mf: the fields above bit 15. -/
def encMf (x : MfArgs) : Nat :=
  x.tc * 2 ^ 16 + x.a * 2 ^ 24 + x.b * 2 ^ 33 + x.fb * 2 ^ 42 + x.ty.code * 2 ^ 49 + x.sel * 2 ^ 54 + x.idx * 2 ^ 58 + x.cw * 2 ^ 67

/-- R224, mf: the fields of a word; none for an unassigned type or scope code. -/
def getMf (w : Nat) : Option MfArgs :=
  match Ty.ofCode (field w 49 5) with
  | some ty => some { tc := field w 16 8, a := field w 24 9, b := field w 33 9, fb := field w 42 7, ty := ty, sel := field w 54 4, idx := field w 58 9, cw := field w 67 7 }
  | _ => none

/-- R224, to: the fields above bit 15. -/
def encTo (x : ToArgs) : Nat :=
  x.td * 2 ^ 16 + x.ta * 2 ^ 24 + x.tb * 2 ^ 32 + x.tc * 2 ^ 40 + x.ty.code * 2 ^ 48 + x.sel * 2 ^ 53 + x.cw * 2 ^ 57 + x.bp * 2 ^ 64 + x.off * 2 ^ 71

/-- R224, to: the fields of a word; none for an unassigned type or scope code. -/
def getTo (w : Nat) : Option ToArgs :=
  match Ty.ofCode (field w 48 5) with
  | some ty => some { td := field w 16 8, ta := field w 24 8, tb := field w 32 8, tc := field w 40 8, ty := ty, sel := field w 53 4, cw := field w 57 7, bp := field w 64 7, off := field w 71 24 }
  | _ => none

/-- R224, tq: the fields above bit 15 and CF. -/
def encTq (x : TqArgs) : Nat :=
  x.cf * 2 ^ 13 + x.sd * 2 ^ 16 + x.ta * 2 ^ 23 + x.sa * 2 ^ 31 + x.sel * 2 ^ 38 + x.imm * 2 ^ 64

/-- R224, tq: the fields of a word; none for an unassigned type or scope code. -/
def getTq (w : Nat) : Option TqArgs := some { cf := field w 13 2, sd := field w 16 7, ta := field w 23 8, sa := field w 31 7, sel := field w 38 8, imm := field w 64 32 }

/-- R224, gx: the fields above bit 15 and CF. -/
def encGx (x : GxArgs) : Nat :=
  x.cf * 2 ^ 13 + x.d * 2 ^ 16 + x.a * 2 ^ 25 + x.bp * 2 ^ 34 + x.ac * 2 ^ 41 + x.rgn * 2 ^ 45 + x.off * 2 ^ 64

/-- R224, gx: the fields of a word; none for an unassigned type or scope code. -/
def getGx (w : Nat) : Option GxArgs := some { cf := field w 13 2, d := field w 16 9, a := field w 25 9, bp := field w 34 7, ac := field w 41 4, rgn := field w 45 2, off := field w 64 24 }

/-- R224, ta: the fields above bit 15 and CF. -/
def encTa (x : TaArgs) : Nat :=
  x.cf * 2 ^ 13 + x.a * 2 ^ 16 + x.n * 2 ^ 25 + x.sa * 2 ^ 31 + x.sel * 2 ^ 38

/-- R224, ta: the fields of a word; none for an unassigned type or scope code. -/
def getTa (w : Nat) : Option TaArgs := some { cf := field w 13 2, a := field w 16 9, n := field w 25 6, sa := field w 31 7, sel := field w 38 4 }

/-- R224, nm: the fields above bit 15. -/
def encNm (x : NmArgs) : Nat :=
  x.bp * 2 ^ 16 + x.stk * 2 ^ 23 + x.buf * 2 ^ 26 + x.sel * 2 ^ 32 + x.off * 2 ^ 64

/-- R224, nm: the fields of a word; none for an unassigned type or scope code. -/
def getNm (w : Nat) : Option NmArgs := some { bp := field w 16 7, stk := field w 23 3, buf := field w 26 6, sel := field w 32 4, off := field w 64 24 }

/-- R224, ls: the fields above bit 15. -/
def encLs (x : LsArgs) : Nat :=
  x.sa * 2 ^ 16 + x.sb * 2 ^ 23 + x.sx * 2 ^ 30 + x.q * 2 ^ 37 + bit x.coop * 2 ^ 43 + x.imm * 2 ^ 64

/-- R224, ls: the fields of a word; none for an unassigned type or scope code. -/
def getLs (w : Nat) : Option LsArgs := some { sa := field w 16 7, sb := field w 23 7, sx := field w 30 7, q := field w 37 6, coop := field w 43 1 == 1, imm := field w 64 32 }

/-- R224, sy: the fields above bit 15. -/
def encSy (x : SyArgs) : Nat :=
  x.sd * 2 ^ 16 + x.sa * 2 ^ 23 + x.csr * 2 ^ 30 + x.imm * 2 ^ 42

/-- R224, sy: the fields of a word; none for an unassigned type or scope code. -/
def getSy (w : Nat) : Option SyArgs := some { sd := field w 16 7, sa := field w 23 7, csr := field w 30 12, imm := field w 42 16 }

/-- R225, ch: the instruction an OP names. -/
def opCh (op : Nat) (x : ChArgs) : Option Instr :=
  match op with
  | 0 => some (.ch x)
  | _ => none

/-- R225, so: the instruction an OP names. -/
def opSo (op : Nat) (x : SoArgs) : Option Instr :=
  match op with
  | 0 => some (.soAdd x)
  | 1 => some (.soSub x)
  | 2 => some (.soMul x)
  | 3 => some (.soMulh x)
  | 4 => some (.soAnd x)
  | 5 => some (.soOr x)
  | 6 => some (.soXor x)
  | 7 => some (.soShl x)
  | 8 => some (.soShr x)
  | 9 => some (.soSra x)
  | 10 => some (.soMin x)
  | 11 => some (.soMax x)
  | 12 => some (.soCmp x)
  | 13 => some (.soSel x)
  | 14 => some (.soBfe x)
  | 15 => some (.soBfi x)
  | 16 => some (.soPopc x)
  | 17 => some (.soClz x)
  | 18 => some (.soAdd64 x)
  | 19 => some (.soLea x)
  | 20 => some (.soMov x)
  | 21 => some (.soRdid x)
  | _ => none

/-- R225, sk: the instruction an OP names. -/
def opSk (op : Nat) (x : SkArgs) : Option Instr :=
  match op with
  | 0 => some (.skMov x)
  | 1 => some (.skAdd x)
  | 2 => some (.skAnd x)
  | 3 => some (.skOr x)
  | 4 => some (.skXor x)
  | 5 => some (.skCmp x)
  | _ => none

/-- R225, vw: the instruction an OP names. -/
def opVw (op : Nat) (x : VwArgs) : Option Instr :=
  match op with
  | 0 => some (.vwFma x)
  | 1 => some (.vwMad x)
  | 2 => some (.vwBfi x)
  | 3 => some (.vwCvtsr x)
  | 4 => some (.vwPack x)
  | _ => none

/-- R225, vk: the instruction an OP names. -/
def opVk (op : Nat) (x : VkArgs) : Option Instr :=
  match op with
  | 0 => some (.vkAdd x)
  | 1 => some (.vkMul x)
  | 2 => some (.vkAnd x)
  | 3 => some (.vkOr x)
  | 4 => some (.vkMov x)
  | 5 => some (.vkFma x)
  | _ => none

/-- R225, vm: the instruction an OP names. -/
def opVm (op : Nat) (x : VmArgs) : Option Instr :=
  match op with
  | 0 => some (.vmCmp x)
  | 1 => some (.vmClass x)
  | _ => none

/-- R225, sf: the instruction an OP names. -/
def opSf (op : Nat) (x : SfArgs) : Option Instr :=
  match op with
  | 0 => some (.sfRcp x)
  | 1 => some (.sfRsq x)
  | 2 => some (.sfSqrt x)
  | 3 => some (.sfExp2 x)
  | 4 => some (.sfLog2 x)
  | 5 => some (.sfSin x)
  | 6 => some (.sfCos x)
  | 7 => some (.sfTanh x)
  | 8 => some (.sfSigm x)
  | 9 => some (.sfGelu x)
  | 10 => some (.sfSilu x)
  | 11 => some (.sfErf x)
  | _ => none

/-- R225, xl: the instruction an OP names. -/
def opXl (op : Nat) (x : XlArgs) : Option Instr :=
  match op with
  | 0 => some (.xlShfl x)
  | 1 => some (.xlShflx x)
  | 2 => some (.xlBfly x)
  | 3 => some (.xlVote x)
  | 4 => some (.xlRdln x)
  | 5 => some (.xlWrln x)
  | 6 => some (.xlScan x)
  | 7 => some (.xlRed x)
  | _ => none

/-- R225, bc: the instruction an OP names. -/
def opBc (op : Nat) (x : BcArgs) : Option Instr :=
  match op with
  | 0 => some (.bcBr x)
  | 1 => some (.bcBrd x)
  | 2 => some (.bcJmp x)
  | 3 => some (.bcCall x)
  | 4 => some (.bcRet x)
  | 5 => some (.bcExit x)
  | 6 => some (.bcNop x)
  | 7 => some (.bcBrk x)
  | _ => none

/-- R225, xf: the instruction an OP names. -/
def opXf (op : Nat) (x : XfArgs) : Option Instr :=
  match op with
  | 0 => some (.xfQuant x)
  | 1 => some (.xfDq x)
  | 2 => some (.xfSign x)
  | 3 => some (.xfPack x)
  | _ => none

/-- R225, ma: the instruction an OP names. -/
def opMa (op : Nat) (x : MaArgs) : Option Instr :=
  match op with
  | 0 => some (.maLd x)
  | 1 => some (.maSt x)
  | 2 => some (.maLdg x)
  | 3 => some (.maStg x)
  | 4 => some (.maLds x)
  | 5 => some (.maSts x)
  | 6 => some (.maLdsc x)
  | 7 => some (.maPf x)
  | 8 => some (.maFpush x)
  | 9 => some (.maFpop x)
  | _ => none

/-- R225, mx96: the instruction an OP names. -/
def opMx96 (op : Nat) (x : MxArgs) : Option Instr :=
  match op with
  | 0 => some (.mxAtom96 x)
  | 1 => some (.mxCas96 x)
  | 2 => some (.mxFatom96 x)
  | 3 => some (.mxRed96 x)
  | _ => none

/-- R225, mx128: the instruction an OP names. -/
def opMx128 (op : Nat) (x : MxArgs) : Option Instr :=
  match op with
  | 0 => some (.mxAtom128 x)
  | 1 => some (.mxCas128 x)
  | 2 => some (.mxFatom128 x)
  | 3 => some (.mxRed128 x)
  | _ => none

/-- R225, ms: the instruction an OP names. -/
def opMs (op : Nat) (x : MsArgs) : Option Instr :=
  match op with
  | 0 => some (.msWaitc x)
  | 1 => some (.msWaitb x)
  | 2 => some (.msWaitm x)
  | 3 => some (.msCommit x)
  | 4 => some (.msBarT x)
  | 5 => some (.msBarR x)
  | 6 => some (.msBarG x)
  | 7 => some (.msBind x)
  | 8 => some (.msUnbind x)
  | 9 => some (.msQjoin x)
  | 10 => some (.msRclaim x)
  | 11 => some (.msRgive x)
  | 12 => some (.msAcq x)
  | 13 => some (.msRel x)
  | _ => none

/-- R225, ce: the instruction an OP names. -/
def opCe (op : Nat) (x : CeArgs) : Option Instr :=
  match op with
  | 0 => some (.ceCp x)
  | 1 => some (.ceChain x)
  | 2 => some (.ceFill x)
  | _ => none

/-- R225, mf: the instruction an OP names. -/
def opMf (op : Nat) (x : MfArgs) : Option Instr :=
  match op with
  | 0 => some (.mfMma x)
  | 1 => some (.mfMmasp x)
  | _ => none

/-- R225, to: the instruction an OP names. -/
def opTo (op : Nat) (x : ToArgs) : Option Instr :=
  match op with
  | 0 => some (.toLd x)
  | 1 => some (.toSt x)
  | 2 => some (.toZero x)
  | 3 => some (.toFree x)
  | 4 => some (.toDense x)
  | 5 => some (.toCmpr x)
  | 6 => some (.toAdd x)
  | 7 => some (.toMul x)
  | 8 => some (.toGemm x)
  | 9 => some (.toLu x)
  | 10 => some (.toTrsm x)
  | 11 => some (.toScal x)
  | 12 => some (.toTr x)
  | 13 => some (.toRound x)
  | _ => none

/-- R225, tq: the instruction an OP names. -/
def opTq (op : Nat) (x : TqArgs) : Option Instr :=
  match op with
  | 0 => some (.tqInfo x)
  | 1 => some (.tqGet x)
  | 2 => some (.tqSet x)
  | _ => none

/-- R225, gx: the instruction an OP names. -/
def opGx (op : Nat) (x : GxArgs) : Option Instr :=
  match op with
  | 0 => some (.gxAdd x)
  | 1 => some (.gxRead x)
  | 2 => some (.gxStep x)
  | 3 => some (.gxSpread x)
  | 4 => some (.gxCtl x)
  | _ => none

/-- R225, ta: the instruction an OP names. -/
def opTa (op : Nat) (x : TaArgs) : Option Instr :=
  match op with
  | 0 => some (.taRec x)
  | 1 => some (.taMark x)
  | 2 => some (.taPop x)
  | 3 =>
    match x.sel with
    | 0 => some (.taCtlFlush x)
    | 1 => some (.taCtlRewind x)
    | _ => none
  | 4 => some (.taHash x)
  | 5 =>
    match x.sel with
    | 0 => some (.taGateOff x)
    | 1 => some (.taGateRec x)
    | 2 => some (.taGatePlay x)
    | _ => none
  | _ => none

/-- R225, nm: the instruction an OP names. -/
def opNm (op : Nat) (x : NmArgs) : Option Instr :=
  match op with
  | 0 => some (.nmUpd x)
  | 1 =>
    match x.sel with
    | 0 => some (.nmLandInst x)
    | 1 => some (.nmLandRem x)
    | _ => none
  | 2 => some (.nmCtlDone x)
  | _ => none

/-- R225, ls: the instruction an OP names. -/
def opLs (op : Nat) (x : LsArgs) : Option Instr :=
  match op with
  | 0 => some (.lsLaunch x)
  | 1 => some (.lsSpawn x)
  | _ => none

/-- R225, sy: the instruction an OP names. -/
def opSy (op : Nat) (x : SyArgs) : Option Instr :=
  match op with
  | 0 => some (.syCsrr x)
  | 1 => some (.syCsrw x)
  | 2 => some (.syCsrs x)
  | 3 => some (.syCsrc x)
  | 4 => some (.syTrap x)
  | 5 => some (.syTret x)
  | 6 => some (.syClk x)
  | 7 => some (.syRng x)
  | _ => none

/-- R219, R220, R225: the instruction that a word's format and operation name, before the reserved bits and the field
values are checked. `len` is LEN (R216). -/
def rawDecode (w len fmt op : Nat) : Except DecodeErr Instr :=
  let need (l : Nat) (r : Option Instr) : Except DecodeErr Instr :=
    if len ≠ l then .error (.lengthOfFormat fmt)
    else match r with
      | some i => .ok i
      | none => .error (.unassigned fmt op)
  match fmt with
  | 1 => need 0 ((getCh w).bind (opCh op))
  | 2 => need 0 ((getSo w).bind (opSo op))
  | 3 => need 1 ((getSk w).bind (opSk op))
  | 4 => need 0 ((getVo w).bind fun x => (VoOp.ofCode op).map (voInstr x))
  | 5 => need 1 ((getVw w).bind (opVw op))
  | 6 => need 1 ((getVk w).bind (opVk op))
  | 7 => need 2 ((getVo w).bind fun x1 => (VoOp.ofCode op).bind fun op1 => (getVo (w / 2 ^ 64)).bind fun x2 =>
      (VoOp.ofCode (field w 72 5)).map fun op2 => Instr.vp op1 x1 op2 x2)
  | 8 => need 0 ((getVm w).bind (opVm op))
  | 9 => need 0 ((getSf w).bind (opSf op))
  | 10 => need 0 ((getXl w).bind (opXl op))
  | 11 => need 0 ((getBc w).bind (opBc op))
  | 12 => need 1 ((getXf w).bind (opXf op))
  | 13 => need 1 ((getMa w).bind (opMa op))
  | 14 => if len = 2 then need 2 ((getMx128 w).bind (opMx128 op)) else need 1 ((getMx96 w).bind (opMx96 op))
  | 15 => need 0 ((getMs w).bind (opMs op))
  | 16 => need 2 ((getCe w).bind (opCe op))
  | 17 => need 2 ((getMf w).bind (opMf op))
  | 18 => need 1 ((getTo w).bind (opTo op))
  | 19 => need 1 ((getTq w).bind (opTq op))
  | 20 => need 1 ((getGx w).bind (opGx op))
  | 21 => need 0 ((getTa w).bind (opTa op))
  | 22 => need 2 ((getNm w).bind (opNm op))
  | 23 => need 1 ((getLs w).bind (opLs op))
  | 24 => need 0 ((getSy w).bind (opSy op))
  | _ => .error (.format fmt)

/-- Bits of an instruction whose LEN is `len` (R216). -/
def lenBits (len : Nat) : Nat := 64 + 32 * len

/-- The number that encodes a well-formed instruction (R218, R224, R225); 0 for a transition, which has no encoding. -/
def encode : Instr → Nat
  | .ch x => header 0 1 0 + encCh x
  | .soAdd x => header 0 2 0 + encSo x
  | .soSub x => header 0 2 1 + encSo x
  | .soMul x => header 0 2 2 + encSo x
  | .soMulh x => header 0 2 3 + encSo x
  | .soAnd x => header 0 2 4 + encSo x
  | .soOr x => header 0 2 5 + encSo x
  | .soXor x => header 0 2 6 + encSo x
  | .soShl x => header 0 2 7 + encSo x
  | .soShr x => header 0 2 8 + encSo x
  | .soSra x => header 0 2 9 + encSo x
  | .soMin x => header 0 2 10 + encSo x
  | .soMax x => header 0 2 11 + encSo x
  | .soCmp x => header 0 2 12 + encSo x
  | .soSel x => header 0 2 13 + encSo x
  | .soBfe x => header 0 2 14 + encSo x
  | .soBfi x => header 0 2 15 + encSo x
  | .soPopc x => header 0 2 16 + encSo x
  | .soClz x => header 0 2 17 + encSo x
  | .soAdd64 x => header 0 2 18 + encSo x
  | .soLea x => header 0 2 19 + encSo x
  | .soMov x => header 0 2 20 + encSo x
  | .soRdid x => header 0 2 21 + encSo x
  | .skMov x => header 1 3 0 + encSk x
  | .skAdd x => header 1 3 1 + encSk x
  | .skAnd x => header 1 3 2 + encSk x
  | .skOr x => header 1 3 3 + encSk x
  | .skXor x => header 1 3 4 + encSk x
  | .skCmp x => header 1 3 5 + encSk x
  | .voAdd x => header 0 4 0 + encVo x
  | .voSub x => header 0 4 1 + encVo x
  | .voMull x => header 0 4 2 + encVo x
  | .voMulh x => header 0 4 3 + encVo x
  | .voAnd x => header 0 4 4 + encVo x
  | .voOr x => header 0 4 5 + encVo x
  | .voXor x => header 0 4 6 + encVo x
  | .voShl x => header 0 4 7 + encVo x
  | .voShr x => header 0 4 8 + encVo x
  | .voSra x => header 0 4 9 + encVo x
  | .voMin x => header 0 4 10 + encVo x
  | .voMax x => header 0 4 11 + encVo x
  | .voAbs x => header 0 4 12 + encVo x
  | .voBfe x => header 0 4 13 + encVo x
  | .voPopc x => header 0 4 14 + encVo x
  | .voClz x => header 0 4 15 + encVo x
  | .voBrev x => header 0 4 16 + encVo x
  | .voFadd x => header 0 4 17 + encVo x
  | .voFsub x => header 0 4 18 + encVo x
  | .voFmul x => header 0 4 19 + encVo x
  | .voFmin x => header 0 4 20 + encVo x
  | .voFmax x => header 0 4 21 + encVo x
  | .voCvt x => header 0 4 22 + encVo x
  | .voRnd x => header 0 4 23 + encVo x
  | .voSel x => header 0 4 24 + encVo x
  | .voMov x => header 0 4 25 + encVo x
  | .vwFma x => header 1 5 0 + encVw x
  | .vwMad x => header 1 5 1 + encVw x
  | .vwBfi x => header 1 5 2 + encVw x
  | .vwCvtsr x => header 1 5 3 + encVw x
  | .vwPack x => header 1 5 4 + encVw x
  | .vkAdd x => header 1 6 0 + encVk x
  | .vkMul x => header 1 6 1 + encVk x
  | .vkAnd x => header 1 6 2 + encVk x
  | .vkOr x => header 1 6 3 + encVk x
  | .vkMov x => header 1 6 4 + encVk x
  | .vkFma x => header 1 6 5 + encVk x
  | .vmCmp x => header 0 8 0 + encVm x
  | .vmClass x => header 0 8 1 + encVm x
  | .sfRcp x => header 0 9 0 + encSf x
  | .sfRsq x => header 0 9 1 + encSf x
  | .sfSqrt x => header 0 9 2 + encSf x
  | .sfExp2 x => header 0 9 3 + encSf x
  | .sfLog2 x => header 0 9 4 + encSf x
  | .sfSin x => header 0 9 5 + encSf x
  | .sfCos x => header 0 9 6 + encSf x
  | .sfTanh x => header 0 9 7 + encSf x
  | .sfSigm x => header 0 9 8 + encSf x
  | .sfGelu x => header 0 9 9 + encSf x
  | .sfSilu x => header 0 9 10 + encSf x
  | .sfErf x => header 0 9 11 + encSf x
  | .xlShfl x => header 0 10 0 + encXl x
  | .xlShflx x => header 0 10 1 + encXl x
  | .xlBfly x => header 0 10 2 + encXl x
  | .xlVote x => header 0 10 3 + encXl x
  | .xlRdln x => header 0 10 4 + encXl x
  | .xlWrln x => header 0 10 5 + encXl x
  | .xlScan x => header 0 10 6 + encXl x
  | .xlRed x => header 0 10 7 + encXl x
  | .bcBr x => header 0 11 0 + encBc x
  | .bcBrd x => header 0 11 1 + encBc x
  | .bcJmp x => header 0 11 2 + encBc x
  | .bcCall x => header 0 11 3 + encBc x
  | .bcRet x => header 0 11 4 + encBc x
  | .bcExit x => header 0 11 5 + encBc x
  | .bcNop x => header 0 11 6 + encBc x
  | .bcBrk x => header 0 11 7 + encBc x
  | .xfQuant x => header 1 12 0 + encXf x
  | .xfDq x => header 1 12 1 + encXf x
  | .xfSign x => header 1 12 2 + encXf x
  | .xfPack x => header 1 12 3 + encXf x
  | .maLd x => header 1 13 0 + encMa x
  | .maSt x => header 1 13 1 + encMa x
  | .maLdg x => header 1 13 2 + encMa x
  | .maStg x => header 1 13 3 + encMa x
  | .maLds x => header 1 13 4 + encMa x
  | .maSts x => header 1 13 5 + encMa x
  | .maLdsc x => header 1 13 6 + encMa x
  | .maPf x => header 1 13 7 + encMa x
  | .maFpush x => header 1 13 8 + encMa x
  | .maFpop x => header 1 13 9 + encMa x
  | .mxAtom96 x => header 1 14 0 + encMx96 x
  | .mxCas96 x => header 1 14 1 + encMx96 x
  | .mxFatom96 x => header 1 14 2 + encMx96 x
  | .mxRed96 x => header 1 14 3 + encMx96 x
  | .mxAtom128 x => header 2 14 0 + encMx128 x
  | .mxCas128 x => header 2 14 1 + encMx128 x
  | .mxFatom128 x => header 2 14 2 + encMx128 x
  | .mxRed128 x => header 2 14 3 + encMx128 x
  | .msWaitc x => header 0 15 0 + encMs x
  | .msWaitb x => header 0 15 1 + encMs x
  | .msWaitm x => header 0 15 2 + encMs x
  | .msCommit x => header 0 15 3 + encMs x
  | .msBarT x => header 0 15 4 + encMs x
  | .msBarR x => header 0 15 5 + encMs x
  | .msBarG x => header 0 15 6 + encMs x
  | .msBind x => header 0 15 7 + encMs x
  | .msUnbind x => header 0 15 8 + encMs x
  | .msQjoin x => header 0 15 9 + encMs x
  | .msRclaim x => header 0 15 10 + encMs x
  | .msRgive x => header 0 15 11 + encMs x
  | .msAcq x => header 0 15 12 + encMs x
  | .msRel x => header 0 15 13 + encMs x
  | .ceCp x => header 2 16 0 + encCe x
  | .ceChain x => header 2 16 1 + encCe x
  | .ceFill x => header 2 16 2 + encCe x
  | .mfMma x => header 2 17 0 + encMf x
  | .mfMmasp x => header 2 17 1 + encMf x
  | .toLd x => header 1 18 0 + encTo x
  | .toSt x => header 1 18 1 + encTo x
  | .toZero x => header 1 18 2 + encTo x
  | .toFree x => header 1 18 3 + encTo x
  | .toDense x => header 1 18 4 + encTo x
  | .toCmpr x => header 1 18 5 + encTo x
  | .toAdd x => header 1 18 6 + encTo x
  | .toMul x => header 1 18 7 + encTo x
  | .toGemm x => header 1 18 8 + encTo x
  | .toLu x => header 1 18 9 + encTo x
  | .toTrsm x => header 1 18 10 + encTo x
  | .toScal x => header 1 18 11 + encTo x
  | .toTr x => header 1 18 12 + encTo x
  | .toRound x => header 1 18 13 + encTo x
  | .tqInfo x => header 1 19 0 + encTq x
  | .tqGet x => header 1 19 1 + encTq x
  | .tqSet x => header 1 19 2 + encTq x
  | .gxAdd x => header 1 20 0 + encGx x
  | .gxRead x => header 1 20 1 + encGx x
  | .gxStep x => header 1 20 2 + encGx x
  | .gxSpread x => header 1 20 3 + encGx x
  | .gxCtl x => header 1 20 4 + encGx x
  | .taRec x => header 0 21 0 + encTa x
  | .taMark x => header 0 21 1 + encTa x
  | .taPop x => header 0 21 2 + encTa x
  | .taCtlFlush x => header 0 21 3 + encTa x
  | .taCtlRewind x => header 0 21 3 + encTa x
  | .taHash x => header 0 21 4 + encTa x
  | .taGateOff x => header 0 21 5 + encTa x
  | .taGateRec x => header 0 21 5 + encTa x
  | .taGatePlay x => header 0 21 5 + encTa x
  | .nmUpd x => header 2 22 0 + encNm x
  | .nmLandInst x => header 2 22 1 + encNm x
  | .nmLandRem x => header 2 22 1 + encNm x
  | .nmCtlDone x => header 2 22 2 + encNm x
  | .lsLaunch x => header 1 23 0 + encLs x
  | .lsSpawn x => header 1 23 1 + encLs x
  | .syCsrr x => header 0 24 0 + encSy x
  | .syCsrw x => header 0 24 1 + encSy x
  | .syCsrs x => header 0 24 2 + encSy x
  | .syCsrc x => header 0 24 3 + encSy x
  | .syTrap x => header 0 24 4 + encSy x
  | .syTret x => header 0 24 5 + encSy x
  | .syClk x => header 0 24 6 + encSy x
  | .syRng x => header 0 24 7 + encSy x
  | .vp op1 x1 op2 x2 => header 2 7 op1.code + encVo x1 + (header 0 4 op2.code + encVo x2) * 2 ^ 64
  | _ => 0

/-- How many bits an instruction takes (R216, R220); 0 for a transition. -/
def Instr.nbits : Instr → Nat
  | .ch _ => 64
  | .soAdd _ => 64
  | .soSub _ => 64
  | .soMul _ => 64
  | .soMulh _ => 64
  | .soAnd _ => 64
  | .soOr _ => 64
  | .soXor _ => 64
  | .soShl _ => 64
  | .soShr _ => 64
  | .soSra _ => 64
  | .soMin _ => 64
  | .soMax _ => 64
  | .soCmp _ => 64
  | .soSel _ => 64
  | .soBfe _ => 64
  | .soBfi _ => 64
  | .soPopc _ => 64
  | .soClz _ => 64
  | .soAdd64 _ => 64
  | .soLea _ => 64
  | .soMov _ => 64
  | .soRdid _ => 64
  | .skMov _ => 96
  | .skAdd _ => 96
  | .skAnd _ => 96
  | .skOr _ => 96
  | .skXor _ => 96
  | .skCmp _ => 96
  | .voAdd _ => 64
  | .voSub _ => 64
  | .voMull _ => 64
  | .voMulh _ => 64
  | .voAnd _ => 64
  | .voOr _ => 64
  | .voXor _ => 64
  | .voShl _ => 64
  | .voShr _ => 64
  | .voSra _ => 64
  | .voMin _ => 64
  | .voMax _ => 64
  | .voAbs _ => 64
  | .voBfe _ => 64
  | .voPopc _ => 64
  | .voClz _ => 64
  | .voBrev _ => 64
  | .voFadd _ => 64
  | .voFsub _ => 64
  | .voFmul _ => 64
  | .voFmin _ => 64
  | .voFmax _ => 64
  | .voCvt _ => 64
  | .voRnd _ => 64
  | .voSel _ => 64
  | .voMov _ => 64
  | .vwFma _ => 96
  | .vwMad _ => 96
  | .vwBfi _ => 96
  | .vwCvtsr _ => 96
  | .vwPack _ => 96
  | .vkAdd _ => 96
  | .vkMul _ => 96
  | .vkAnd _ => 96
  | .vkOr _ => 96
  | .vkMov _ => 96
  | .vkFma _ => 96
  | .vmCmp _ => 64
  | .vmClass _ => 64
  | .sfRcp _ => 64
  | .sfRsq _ => 64
  | .sfSqrt _ => 64
  | .sfExp2 _ => 64
  | .sfLog2 _ => 64
  | .sfSin _ => 64
  | .sfCos _ => 64
  | .sfTanh _ => 64
  | .sfSigm _ => 64
  | .sfGelu _ => 64
  | .sfSilu _ => 64
  | .sfErf _ => 64
  | .xlShfl _ => 64
  | .xlShflx _ => 64
  | .xlBfly _ => 64
  | .xlVote _ => 64
  | .xlRdln _ => 64
  | .xlWrln _ => 64
  | .xlScan _ => 64
  | .xlRed _ => 64
  | .bcBr _ => 64
  | .bcBrd _ => 64
  | .bcJmp _ => 64
  | .bcCall _ => 64
  | .bcRet _ => 64
  | .bcExit _ => 64
  | .bcNop _ => 64
  | .bcBrk _ => 64
  | .xfQuant _ => 96
  | .xfDq _ => 96
  | .xfSign _ => 96
  | .xfPack _ => 96
  | .maLd _ => 96
  | .maSt _ => 96
  | .maLdg _ => 96
  | .maStg _ => 96
  | .maLds _ => 96
  | .maSts _ => 96
  | .maLdsc _ => 96
  | .maPf _ => 96
  | .maFpush _ => 96
  | .maFpop _ => 96
  | .mxAtom96 _ => 96
  | .mxCas96 _ => 96
  | .mxFatom96 _ => 96
  | .mxRed96 _ => 96
  | .mxAtom128 _ => 128
  | .mxCas128 _ => 128
  | .mxFatom128 _ => 128
  | .mxRed128 _ => 128
  | .msWaitc _ => 64
  | .msWaitb _ => 64
  | .msWaitm _ => 64
  | .msCommit _ => 64
  | .msBarT _ => 64
  | .msBarR _ => 64
  | .msBarG _ => 64
  | .msBind _ => 64
  | .msUnbind _ => 64
  | .msQjoin _ => 64
  | .msRclaim _ => 64
  | .msRgive _ => 64
  | .msAcq _ => 64
  | .msRel _ => 64
  | .ceCp _ => 128
  | .ceChain _ => 128
  | .ceFill _ => 128
  | .mfMma _ => 128
  | .mfMmasp _ => 128
  | .toLd _ => 96
  | .toSt _ => 96
  | .toZero _ => 96
  | .toFree _ => 96
  | .toDense _ => 96
  | .toCmpr _ => 96
  | .toAdd _ => 96
  | .toMul _ => 96
  | .toGemm _ => 96
  | .toLu _ => 96
  | .toTrsm _ => 96
  | .toScal _ => 96
  | .toTr _ => 96
  | .toRound _ => 96
  | .tqInfo _ => 96
  | .tqGet _ => 96
  | .tqSet _ => 96
  | .gxAdd _ => 96
  | .gxRead _ => 96
  | .gxStep _ => 96
  | .gxSpread _ => 96
  | .gxCtl _ => 96
  | .taRec _ => 64
  | .taMark _ => 64
  | .taPop _ => 64
  | .taCtlFlush _ => 64
  | .taCtlRewind _ => 64
  | .taHash _ => 64
  | .taGateOff _ => 64
  | .taGateRec _ => 64
  | .taGatePlay _ => 64
  | .nmUpd _ => 128
  | .nmLandInst _ => 128
  | .nmLandRem _ => 128
  | .nmCtlDone _ => 128
  | .lsLaunch _ => 96
  | .lsSpawn _ => 96
  | .syCsrr _ => 64
  | .syCsrw _ => 64
  | .syCsrs _ => 64
  | .syCsrc _ => 64
  | .syTrap _ => 64
  | .syTret _ => 64
  | .syClk _ => 64
  | .syRng _ => 64
  | .vp _ _ _ _ => 128
  | _ => 0

/-- R226 steps 1, 3, 4 and 5 on a word: the bits above the instruction's own length are not looked at. A reserved bit
is one that the instruction's own encoding does not set. -/
def decode (w : Nat) : Except DecodeErr Instr :=
  let len := field w 0 2
  if len = 3 then .error .lengthCode
  else
    let v := w % 2 ^ lenBits len
    match rawDecode v len (field v 2 6) (field v 8 5) with
    | .error e => .error e
    | .ok i => if encode i ≠ v then .error .reserved else if i.wf then .ok i else .error .illFormed

/-- The number whose little-endian bytes are given (R3). -/
def ofBytes : List Byte → Nat
  | [] => 0
  | b :: t => b.toNat + 256 * ofBytes t

/-- The `n` low bytes of a number, least significant first (R3). -/
def toBytes : Nat → Nat → List Byte
  | 0, _ => []
  | n + 1, w => BitVec.ofNat 8 w :: toBytes n (w / 256)

/-- An instruction and the bytes after it. -/
def decodeBytes (l : List Byte) : Except DecodeErr (Instr × List Byte) :=
  match l with
  | [] => .error .tooShort
  | b :: _ =>
    let len := b.toNat % 4
    if len = 3 then .error .lengthCode
    else if l.length < 8 + 4 * len then .error .tooShort
    else match decode (ofBytes (l.take (8 + 4 * len))) with
      | .error e => .error e
      | .ok i => .ok (i, l.drop (8 + 4 * len))

/-- The instruction whose first `nbits` bits are `w` and whose later bits, up to the longest instruction, are zero. -/
def decodeTableWord (nbits w : Nat) : Option Instr :=
  match decodeBytes (toBytes 16 (w % 2 ^ nbits)) with
  | .ok (i, _) => some i
  | .error _ => none

end Sys2Proof
end

