-- ==== Sys2Proof/Machine/Float.lean ====
section
/-! DEFINITION. Number formats and exact arithmetic (spec/08_number_formats.md). A value in a format is its bits as a
natural number; a finite non-zero value is an exact rational; every result is rounded once. A helper answers its result
and the flags it sets. -/

namespace Sys2Proof.Machine

/-- Flags, at their places in FPFLAGS (R204). -/
def fINX : Nat := 1
def fUNF : Nat := 2
def fOVF : Nat := 4
def fINV : Nat := 8

/-- A float format (R195): exponent and fraction widths, bias, the greatest finite magnitude's code, whether it has
infinities. -/
structure Fmt where
  m : Nat
  bias : Nat
  maxFin : Nat
  hasInf : Bool
  sign : Nat          -- place of the sign bit
  deriving DecidableEq, Repr

/-- The layout of a float type (R195). -/
def fmt : Ty → Fmt
  | .f64 => ⟨52, 1023, 0x7FEFFFFFFFFFFFFF, true, 63⟩
  | .bf16 => ⟨7, 127, 0x7F7F, true, 15⟩
  | .f16 => ⟨10, 15, 0x7BFF, true, 15⟩
  | .f8e5 => ⟨2, 15, 0x7B, true, 7⟩
  | .f8e4 => ⟨3, 7, 0x7E, false, 7⟩
  | .f4 => ⟨1, 1, 0x7, false, 3⟩
  | _ => ⟨23, 127, 0x7F7FFFFF, true, 31⟩

/-- The default NaN (R195); f4 has none and gives +0. -/
def defNaN : Ty → Nat
  | .f64 => 0x7FF8000000000000 | .bf16 => 0x7FC0 | .f16 => 0x7E00 | .f8e5 => 0x7E | .f8e4 => 0x7F | .f4 => 0
  | _ => 0x7FC00000

/-- What the bits of a value stand for: a NaN, an infinity, a zero, or `(-1)^neg * n / d` with `n` and `d` positive. -/
inductive FV where
  | nan | inf (neg : Bool) | zero (neg : Bool) | fin (neg : Bool) (n d : Nat)
  deriving DecidableEq, Repr

/-- `n / d` times `2^k`. -/
def scale (n d : Nat) (k : Int) : Nat × Nat :=
  match k with
  | .ofNat j => (n * 2 ^ j, d)
  | .negSucc j => (n, d * 2 ^ (j + 1))

/-- Sign and magnitude code of `x`. -/
def sgn (t : Ty) (x : Nat) : Bool := x / 2 ^ (fmt t).sign % 2 == 1
def mag (t : Ty) (x : Nat) : Nat := x % 2 ^ (fmt t).sign
def withSign (t : Ty) (neg : Bool) (code : Nat) : Nat := if neg then code + 2 ^ (fmt t).sign else code

/-- The value of `x` (R195). -/
def decodeF (t : Ty) (x : Nat) : FV :=
  let f := fmt t
  let s := sgn t x
  let c := mag t x
  if c == 0 then .zero s
  else if f.maxFin < c then (if f.hasInf && c == f.maxFin + 1 then .inf s else .nan)
  else
    let e := c / 2 ^ f.m
    let (a, k) := if e == 0 then (c, (1 : Int) - f.bias - f.m) else (c % 2 ^ f.m + 2 ^ f.m, (e : Int) - f.bias - f.m)
    let (n, d) := scale a 1 k
    .fin s n d

def isNaN (t : Ty) (x : Nat) : Bool := decodeF t x = .nan
def isInf (t : Ty) (x : Nat) : Bool := (fmt t).hasInf && mag t x == (fmt t).maxFin + 1
def isFiniteF (t : Ty) (x : Nat) : Bool := decide (mag t x ≤ (fmt t).maxFin)
def isZeroF (t : Ty) (x : Nat) : Bool := mag t x == 0

/-- The quiet bit's place value (R196); every f8e4 NaN is quiet. -/
def quietBit (t : Ty) : Nat := 2 ^ ((fmt t).m - 1)
def isSNaN (t : Ty) (x : Nat) : Bool :=
  isNaN t x && (t ≠ .f8e4) && x / quietBit t % 2 == 0
/-- R196. -/
def quieten (t : Ty) (x : Nat) : Nat := if t = .f8e4 || x / quietBit t % 2 == 1 then x else x + quietBit t

/-- The infinity of a sign, for a format that has one. -/
def infOf (t : Ty) (neg : Bool) : Nat := withSign t neg ((fmt t).maxFin + 1)
def zeroOf (t : Ty) (neg : Bool) : Nat := withSign t neg 0

/-- `floor(log2(n / d))` for positive `n` and `d`. -/
def floorLog2 (n d : Nat) : Int :=
  let k : Int := (Nat.log2 n : Int) - Nat.log2 d
  let (a, b) := scale 1 1 k
  if n * b < a * d then k - 1 else k

/-- How a magnitude between two neighbours is rounded: by a mode, or by a stochastic draw (R209). -/
inductive Rnd where
  | mode (rm : Rm)
  | sr (draw : Nat)
  deriving DecidableEq, Repr

/-- R203's round of the exact value `(-1)^neg * n / d`, and R209's rounding by a draw. -/
def roundWith (t : Ty) (neg : Bool) (n d : Nat) (how : Rnd) (sat : Bool) : Nat × Nat :=
  let f := fmt t
  let emin : Int := 1 - f.bias
  let e : Int := max (floorLog2 n d) emin
  let (a, b) := scale n d (f.m - e)
  let lo := a / b
  let rem := a % b
  let up : Bool := match how with
    | .mode .rne => decide (b < 2 * rem) || (2 * rem == b && lo % 2 == 1)
    | .mode .rtz => false
    | .mode .rup => !neg
    | .mode .rdn => neg
    | .sr r => decide (r < rem * 2 ^ 32 / b)
  let m := if rem == 0 then lo else if up then lo + 1 else lo
  let away : Bool := match how with
    | .mode .rne => true
    | .mode .rtz => false
    | .mode .rup => !neg
    | .mode .rdn => neg
    | .sr _ => rem != 0 && up
  let code := (e - emin).toNat * 2 ^ f.m + m
  let tiny : Bool := decide (floorLog2 n d < emin)
  let fl := if rem == 0 then 0 else fINX + (if tiny then fUNF else 0)
  if f.maxFin < code then
    (withSign t neg (if f.hasInf && !sat && away then f.maxFin + 1 else f.maxFin),
      fOVF + fINX + (if rem != 0 && tiny then fUNF else 0))
  else (withSign t neg code, fl)

/-- R203's round. -/
def roundF (t : Ty) (neg : Bool) (n d : Nat) (rm : Rm) (sat : Bool) : Nat × Nat := roundWith t neg n d (.mode rm) sat

/-- An exact signed rational rounded; `zneg` is the sign of an exact zero. -/
def roundQ (t : Ty) (x : Int) (d : Nat) (zneg : Bool) (rm : Rm) (sat : Bool) : Nat × Nat :=
  if x = 0 then (zeroOf t zneg, 0) else roundF t (decide (x < 0)) x.natAbs d rm sat

/-- The NaN result of the operands `xs` when one is a NaN (R203). -/
def nanOf (t : Ty) (xs : List Nat) : Option (Nat × Nat) :=
  match xs.find? (isNaN t) with
  | none => none
  | some x => some (quieten t x, if xs.any (isSNaN t) then fINV else 0)

def invalid (t : Ty) : Nat × Nat := (defNaN t, fINV)

/-- The signed numerator of a value over its denominator; 0 over 1 for a zero. -/
def FV.q : FV → Int × Nat
  | .fin neg n d => (if neg then -(n : Int) else n, d)
  | _ => (0, 1)

/-- `a + b` (R203). -/
def addF (t : Ty) (a b : Nat) (rm : Rm) (sat : Bool) : Nat × Nat :=
  match nanOf t [a, b] with
  | some r => r
  | none =>
    match decodeF t a, decodeF t b with
    | .inf s, .inf u => if s == u then (infOf t s, 0) else invalid t
    | .inf s, _ => (infOf t s, 0)
    | _, .inf u => (infOf t u, 0)
    | .zero s, .zero u => (zeroOf t (if s == u then s else rm = .rdn), 0)
    | x, y =>
      let (p, d) := x.q
      let (q, e) := y.q
      roundQ t (p * e + q * d) (d * e) (rm = .rdn) rm sat

/-- `x` with its sign bit inverted. -/
def negF (t : Ty) (x : Nat) : Nat := withSign t (!sgn t x) (mag t x)
def absF (t : Ty) (x : Nat) : Nat := mag t x

/-- `a - b`; a NaN operand keeps its own sign (R203). -/
def subF (t : Ty) (a b : Nat) (rm : Rm) (sat : Bool) : Nat × Nat :=
  match nanOf t [a, b] with
  | some r => r
  | none => addF t a (negF t b) rm sat

/-- `a * b`. -/
def mulF (t : Ty) (a b : Nat) (rm : Rm) (sat : Bool) : Nat × Nat :=
  match nanOf t [a, b] with
  | some r => r
  | none =>
    let s := sgn t a != sgn t b
    match decodeF t a, decodeF t b with
    | .inf _, .zero _ => invalid t
    | .zero _, .inf _ => invalid t
    | .inf _, _ => (infOf t s, 0)
    | _, .inf _ => (infOf t s, 0)
    | .fin _ n d, .fin _ p q => roundF t s (n * p) (d * q) rm sat
    | _, _ => (zeroOf t s, 0)

/-- `a / b`. -/
def divF (t : Ty) (a b : Nat) (rm : Rm) (sat : Bool) : Nat × Nat :=
  match nanOf t [a, b] with
  | some r => r
  | none =>
    let s := sgn t a != sgn t b
    match decodeF t a, decodeF t b with
    | .inf _, .inf _ => invalid t
    | .zero _, .zero _ => invalid t
    | .inf _, _ => (infOf t s, 0)
    | _, .inf _ => (zeroOf t s, 0)
    | .fin _ _ _, .zero _ => (infOf t s, fOVF)
    | .fin _ n d, .fin _ p q => roundF t s (n * q) (d * p) rm sat
    | _, _ => (zeroOf t s, 0)

/-- `a * b + c`, rounded once; an invalid product is invalid whatever the addend (R203). -/
def fmaF (t : Ty) (a b c : Nat) (rm : Rm) (sat : Bool) : Nat × Nat :=
  let badProduct : Bool := match decodeF t a, decodeF t b with
    | .inf _, .zero _ => true
    | .zero _, .inf _ => true
    | _, _ => false
  if badProduct then invalid t
  else match nanOf t [a, b, c] with
  | some r => r
  | none =>
    let s := sgn t a != sgn t b
    let pinf := isInf t a || isInf t b
    match decodeF t c with
    | .inf u => if pinf && s != u then invalid t else (infOf t u, 0)
    | z =>
      if pinf then (infOf t s, 0)
      else
        let (p, d) := (decodeF t a).q
        let (q, e) := (decodeF t b).q
        let (r, g) := z.q
        let pz := p * q = 0
        let zn := if pz then (if isZeroF t c then (if s == sgn t c then s else rm = .rdn) else rm = .rdn) else rm = .rdn
        roundQ t (p * q * g + r * d * e) (d * e * g) zn rm sat

/-- The integer square root of `n`, from bit `k` down. -/
def isqrt : Nat → Nat → Nat → Nat
  | 0, _, r => r
  | k + 1, n, r => if (r + 2 ^ k) * (r + 2 ^ k) ≤ n then isqrt k n (r + 2 ^ k) else isqrt k n r

/-- The square root of `n / d`, `d` a power of two: a rational on the same side of every rounding boundary of up to 60
bits. -/
def sqrtQ (n d : Nat) : Nat × Nat :=
  let k := Nat.log2 d
  let j := 130 + (if k % 2 == 1 then 1 else 0)
  let x := n * 2 ^ j
  let r := isqrt (Nat.log2 x / 2 + 1) x 0
  let h := (k + j) / 2
  if r * r == x then (r, 2 ^ h) else (2 * r + 1, 2 ^ (h + 1))

/-- `√a`. -/
def sqrtF (t : Ty) (a : Nat) (rm : Rm) : Nat × Nat :=
  match nanOf t [a] with
  | some r => r
  | none =>
    match decodeF t a with
    | .zero s => (zeroOf t s, 0)
    | .inf false => (infOf t false, 0)
    | .fin false n d => let (p, q) := sqrtQ n d; roundF t false p q rm false
    | _ => invalid t

/-- The exact rational order of two values that are not NaN. -/
def leF (t : Ty) (a b : Nat) : Bool :=
  match decodeF t a, decodeF t b with
  | .nan, _ => false
  | _, .nan => false
  | .inf true, _ => true
  | _, .inf false => true
  | .inf false, _ => false
  | _, .inf true => false
  | x, y => let (p, d) := x.q; let (q, e) := y.q; decide (p * e ≤ q * d)
def ltF (t : Ty) (a b : Nat) : Bool := leF t a b && !leF t b a
def eqF (t : Ty) (a b : Nat) : Bool := leF t a b && leF t b a

/-- min_exact and max_exact (R214), with -0 below +0. -/
def minmaxF (isMax : Bool) (t : Ty) (a b : Nat) : Nat :=
  if isNaN t a then quieten t a
  else if isNaN t b then quieten t b
  else
    let less := ltF t a b || (eqF t a b && sgn t a)
    if less == isMax then b else a

/-- The quiet NaN of type `dst` that a NaN of type `frm` converts to (R205). -/
def cvtNaN (dst frm : Ty) (x : Nat) : Nat :=
  let s := sgn frm x
  if dst = .f8e4 then withSign dst s 0x7F
  else if dst = .f4 then 0
  else
    let a := (fmt frm).m
    let b := (fmt dst).m
    let f := x % 2 ^ a
    let g := if b ≤ a then f / 2 ^ (a - b) else f * 2 ^ (b - a)
    let q := g % 2 ^ (b - 1) + 2 ^ (b - 1)
    withSign dst s ((fmt dst).maxFin + 1 + q)

/-- R205's cvt, and the conversion part of R209. -/
def cvtWith (dst frm : Ty) (x : Nat) (how : Rnd) (sat : Bool) : Nat × Nat :=
  match decodeF frm x with
  | .nan => (cvtNaN dst frm x, if isSNaN frm x || dst = .f4 then fINV else 0)
  | .inf s => if (fmt dst).hasInf then (infOf dst s, 0) else (withSign dst s (fmt dst).maxFin, fOVF)
  | .zero s => (zeroOf dst s, 0)
  | .fin s n d => roundWith dst s n d how sat

def cvtF (dst frm : Ty) (x : Nat) (rm : Rm) (sat : Bool) : Nat × Nat := cvtWith dst frm x (.mode rm) sat
/-- cvt_rne (R214). -/
def cvtRne (dst frm : Ty) (x : Nat) : Nat × Nat := cvtF dst frm x .rne false
/-- cvt_exact (R214): no flag. -/
def cvtExact (dst frm : Ty) (x : Nat) : Nat := if dst = frm then (if isNaN dst x then quieten dst x else x) else (cvtRne dst frm x).1

/-- Integer types: width and signedness (R200). -/
def intBits : Ty → Nat
  | .i8 => 8 | .n8 => 8 | .i16 => 16 | .n16 => 16 | .i64 => 64 | .n64 => 64 | .b64 => 64
  | _ => 32
def intSigned : Ty → Bool
  | .i8 => true | .i16 => true | .i32 => true | .i64 => true
  | _ => false
/-- The value of an integer's bits. -/
def intVal (t : Ty) (x : Nat) : Int :=
  let w := intBits t
  let y := x % 2 ^ w
  if intSigned t && decide (2 ^ (w - 1) ≤ y) then (y : Int) - 2 ^ w else y
def intMax (t : Ty) : Int := if intSigned t then 2 ^ (intBits t - 1) - 1 else 2 ^ intBits t - 1
def intMin (t : Ty) : Int := if intSigned t then -(2 ^ (intBits t - 1)) else 0
/-- The low `w` bits of an integer. -/
def wrapBits (w : Nat) (x : Int) : Nat := (x % (2 ^ w : Int)).toNat
def wrapInt (t : Ty) (x : Int) : Nat := wrapBits (intBits t) x
/-- An integer clamped to the range of a type. -/
def clampInt (t : Ty) (x : Int) : Int := if x < intMin t then intMin t else if intMax t < x then intMax t else x

/-- A rational rounded to an integer, and whether it moved. -/
def roundToInt (neg : Bool) (n d : Nat) (rm : Rm) : Int × Bool :=
  let lo := n / d
  let rem := n % d
  let up : Bool := match rm with
    | .rne => decide (d < 2 * rem) || (2 * rem == d && lo % 2 == 1)
    | .rtz => false
    | .rup => !neg
    | .rdn => neg
  let a : Int := if rem != 0 && up then lo + 1 else lo
  (if neg then -a else a, rem != 0)

/-- R206: a float to an integer. -/
def cvtInt (ty frm : Ty) (x : Nat) (rm : Rm) : Nat × Nat :=
  match decodeF frm x with
  | .nan => (0, fINV)
  | .inf s => (wrapInt ty (if s then intMin ty else intMax ty), fINV)
  | .zero _ => (0, 0)
  | .fin s n d =>
    let (k, moved) := roundToInt s n d rm
    if k < intMin ty then (wrapInt ty (intMin ty), fINV)
    else if intMax ty < k then (wrapInt ty (intMax ty), fINV)
    else (wrapInt ty k, if moved then fINX else 0)

/-- R206: an integer to a float. -/
def cvtOfInt (dst : Ty) (k : Int) (rm : Rm) (sat : Bool) : Nat × Nat := roundQ dst k 1 false rm sat

/-- A float rounded to an integral value of its own format (R270, vo.rnd): the sign of a zero result is the
operand's, and INX is never set. -/
def rndF (t : Ty) (x : Nat) (rm : Rm) : Nat × Nat :=
  match decodeF t x with
  | .nan => (quieten t x, if isSNaN t x then fINV else 0)
  | .fin s n d => ((roundQ t (roundToInt s n d rm).1 1 s .rne false).1, 0)
  | _ => (x, 0)

/-- R207. -/
def e8Floor (t : Ty) (x : Nat) : Nat :=
  match decodeF t x with
  | .nan => 0xFF
  | .zero _ => 0
  | .inf _ => 0xFE
  | .fin _ n d => (max 0 (min 254 (floorLog2 n d + 127))).toNat

/-- The exact value of an e8 code other than 0xFF, as `n / d` (R197). -/
def e8Val (k : Nat) : Nat × Nat := scale 1 1 ((k : Int) - 127)

/-- The value of a tern code (R198). -/
def ternVal (c : Nat) : Int := if c % 4 == 1 then 1 else if c % 4 == 3 then -1 else 0

/-- sat_add_i64 and sat_cvt_rne_i64 (R214): the result's bits and whether it clamped. -/
def satI64 (x : Int) : DWord × Bool :=
  let c := clampInt .i64 x
  (BitVec.ofInt 64 c, c ≠ x)

/-- sr_next (R208): the next state and the draw. -/
def srNext (x : DWord) : DWord × Nat :=
  let x := if x = 0 then 0x9E3779B97F4A7C15#64 else x
  let x := x ^^^ (x <<< 13)
  let x := x ^^^ (x >>> 7)
  let x := x ^^^ (x <<< 17)
  (x, (x >>> 32).toNat)

/-- R151's estimate of a pair with `w ≥ 1`, for scale exponent `e`. -/
def est (e : Nat) (s : DWord) (w : DWord) : Nat :=
  let x := s.toInt
  (roundQ .f32 (x * 2 ^ (48 - e)) (max 1 w.toNat) false .rne false).1

/-- A class of R277 as a bit number. -/
def classOf (t : Ty) (x : Nat) : Nat :=
  let s := sgn t x
  let c := mag t x
  match decodeF t x with
  | .nan => 0
  | .inf n => if n then 1 else 8
  | .zero n => if n then 4 else 5
  | .fin _ _ _ => if c < 2 ^ (fmt t).m then (if s then 3 else 6) else (if s then 2 else 7)

end Sys2Proof.Machine
end

