-- ==== Sys2Proof/Config.lean ====
section
/-! DEFINITION. What is fixed for the device (the figures of spec/00_scope.md R1) and the free values: constants with no
body, for which nothing can be proved but what holds for every value. -/

namespace Sys2Proof.Config

/-- Cores of the device (R1, NCORE of R371). -/
def nCore : Nat := 128
/-- Lanes of a group (R1). -/
def nLane : Nat := 96
/-- Clusters (R1). -/
def nCluster : Nat := 16
/-- Cores of a cluster (R1). -/
def coresPerCluster : Nat := 8
/-- Granules of a core's register pool (R47). -/
def poolGranules : Nat := 512
/-- Granules of a pair's tile store (R1). -/
def tileGranules : Nat := 1536
/-- Group slots of a core (R1, R188). -/
def groupSlots : Nat := 16
/-- Directory entries of a pair (R53). -/
def dirEntries : Nat := 256
/-- Hedgerow banks of a cluster (R1). -/
def nBank : Nat := 64
/-- Stacks of the device (R1). -/
def nStack : Nat := 8
/-- Fabric links (R1). -/
def nLink : Nat := 16
/-- Entries of a copy queue (R312). -/
def copyQueueLen : Nat := 64
/-- Entries of a pair's tile window (R192). -/
def windowLen : Nat := 32
/-- Bytes of installed device memory (R124). -/
def memBytes : Nat := 0xC000000000
/-- The range that firmware reserves begins here (R124). -/
def fwBase : Nat := 0xBF00000000
/-- DEVID (R371). -/
def devId : Word := 0x0F128000#32
/-- DEVREV (R371). -/
def devRev : Word := 1#32
/-- CLKMHZ (R371). -/
def clkMhz : Word := 0x3E8#32

/-- FREE. What the machine does next when nothing is pending: R83 chooses without preference (log 1). -/
opaque nextAction : Nat → Action
/-- FREE. Whether an f32 sf result is the upper of the two bracketing values (R213; log 6). -/
opaque sfRoundsUp : Nat → Nat → Bool
/-- FREE. DEVNUM as the fabric manager assigns it at start (R371, R397; log 7). -/
opaque devNum : BitVec 12
/-- FREE. The n-th key pair that firmware generates (R41; log 7). -/
opaque newKey : Nat → BitVec 512
/-- FREE. What AES-256-XTS makes of a line that was encrypted under one key and is decrypted under another: a function of
the two keys, the line and its 64 bytes in the clear, by byte (R40, R43; log 7). -/
opaque wrongKeyByte : BitVec 512 → BitVec 512 → Nat → List Byte → Nat → Byte
/-- FREE. The byte delivered with poison where a blocked key slot lets no line be filled, by slot and address (R44;
log 56). -/
opaque blockedByte : Nat → Nat → Byte
/-- FREE. SHA-512 of a byte string; the spec names it and does not define it (R254, R396; log 8). -/
opaque sha512 : List Byte → List Byte
/-- FREE. Whether a PureEd25519 signature over a digest passes under a public key (R254; log 8). -/
opaque ed25519Verify : List Byte → List Byte → List Byte → Bool
/-- FREE. The attestation key's signature over a digest (R396; log 8). -/
opaque attestSign : List Byte → List Byte
/-- FREE. SHA-512 digests of the ROM and of the patch (R396; log 8). -/
opaque romDigest : List Byte
opaque patchDigest : List Byte
/-- FREE. The attestation and identity certificates (R396; log 8). -/
opaque certificates : List Byte
/-- FREE. The way of the cluster cache that a fill takes when no way of the set is free (R72, R73; log 9). -/
opaque victimWay : Nat → Nat
/-- FREE. The line that leaves a full set of the memory-side cache, by draw (R128; log 29). -/
opaque mscVictim : Nat → Nat

/-- FREE. What a DRAM read meets where no operand says, by draw and line (R130; log 25). -/
opaque dramRead : Nat → Nat → DramRead

/-- FREE. A byte that an engine reads from a peer's memory, by draw, peer and address, and whether the peer refuses the
read (R39, R99; log 23). -/
opaque peerByte : Nat → Nat → Nat → Byte
opaque peerRefuses : Nat → Bool

/-- FREE. The bytes of a fault ring entry as host DMA writes it, by draw (R394; log 31). -/
opaque ringByte : Nat → Nat → Byte

end Sys2Proof.Config
end

