-- ==== Sys2Proof/Machine/State.lean ====
section
/-! DEFINITION. The state of the device: every part that the spec names, as plain data, and the state right after
reset. Parts that are numbered (contexts, teams, groups, cores and so on) are finite maps, so that an idle device is a
short term. -/

namespace Sys2Proof.Machine

/-- Why the machine stops. -/
inductive Fault where
  /-- Raised by every step once the governor has removed power at 110 °C (R395); safe: the device does nothing more. -/
  | poweredOff
  deriving DecidableEq, Repr

/-- Why an instruction has no meaning here. -/
inductive Refusal where
  /-- Raised by an arm of `exec` whose instruction the model does not model yet; safe. -/
  | notModelled (mnemonic : String)
  deriving DecidableEq, Repr

/-- One vector register of a group: the word of lane `l` at index `l`; a lane beyond the list reads 0. -/
abbrev Vec := List Word

/-- A vector register that reads zero in every lane. -/
def Vec.zero : Vec := List.replicate 96 0#32

/-! ### Storage -/

/-- A byte held by a core level or a cluster point (R82). The tag of a dirty byte is the binding-table entry of `ctx`
whose region holds `va` (R88, R97): it follows from `va` and the table. -/
structure LByte where
  val : Byte
  va : Nat
  ctx : Nat
  dirty : Bool
  deriving DecidableEq, Repr, Inhabited

/-- A core level or a cluster point: the bytes it holds by location, and the poison marks of its 32-byte sectors (R82,
R411). A location is a device physical address, or 2^64 plus a host physical address; in a core level it carries the
context number that tags its line (R59). Of a core level also the sectors that are valid, the way that each line has in
its set, and the pseudo-LRU tree of each set (R59, R61, R64); the ways of a cluster point are in `Cluster.lines`. -/
structure Level where
  bytes : SMap LByte := []
  valid : List Nat := []
  poison : List Nat := []
  ways : SMap Nat := []
  tree : SMap (BitVec 15) := []
  deriving DecidableEq, Repr, Inhabited

/-- What a cluster cache keeps of a line beside its bytes: the bank that holds it and the frequency counter (R72). -/
structure LineMeta where
  bank : Nat
  count : Nat
  deriving DecidableEq, Repr, Inhabited

/-- A line of a memory-side cache: its key slot, dirty bit and byte-valid mask (R128). -/
structure MscLine where
  slot : Nat
  dirty : Bool
  valid : BitVec 64
  deriving DecidableEq, Repr, Inhabited

/-- A line in DRAM: the key it was encrypted under, its 64 bytes in the clear, and its two poison patterns (R40,
R132). -/
structure DramLine where
  key : BitVec 512
  data : List Byte
  psn0 : Bool
  psn1 : Bool
  deriving DecidableEq, Repr, Inhabited

/-- A key slot: its key, whether fills under it are blocked, and the host writes discarded since (R41, R44, R46). -/
structure KeySlot where
  key : BitVec 512 := 0
  blocked : Bool := false
  discarded : Nat := 0
  deriving DecidableEq, Repr, Inhabited

/-- A Hedgerow bank (R66, R67): BANKCTL as written, the effective mode and status bits, and its FIFO entries, oldest
first (R78). -/
structure Bank where
  ctl : DWord := 1
  mode : Nat := 1
  busy : Bool := false
  refused : Bool := false
  zero : Bool := false
  fifo : List (LaneMask × Vec) := []
  deriving DecidableEq, Repr, Inhabited

/-- A cluster: its bank control block, cluster point and cache bookkeeping (R65 to R73): the lines with their ways and
counters, and, by set, the line filled most recently and the one that is the next victim (R72). -/
structure Cluster where
  banks : SMap Bank := []
  pincfg : DWord := 0x400C
  level : Level := {}
  lines : SMap LineMeta := []
  newest : SMap Nat := []
  nextOut : SMap Nat := []
  accesses : Nat := 0
  deriving DecidableEq, Repr, Inhabited

/-- A scratch allocation (R75, R77): its granules as (bank, index), its bytes and poisoned sectors, and INB. -/
structure Alloc where
  cluster : Nat := 0
  granules : List (Nat × Nat) := []
  size : Nat := 0
  bytes : SMap Byte := []
  poison : List Nat := []
  inb : Nat := 0
  draining : Bool := false
  deriving DecidableEq, Repr, Inhabited

/-! ### Engines -/

/-- One operand of a copy: a global address or a scratch offset (R312). -/
inductive Place where
  | global (a : Nat)
  | scratch (o : Nat)
  | landing (handle : DWord) (peer : Option Nat)
  | receivers (teams : List Nat) (o : Nat)
  | pattern (w : Word)
  deriving DecidableEq, Repr, Inhabited

/-- An entry of a copy queue with what it captured at issue (R312 to R318): the bytes so far of the chunks whose source a
peer is asked for, the chunks whose data has left for a landing unit or a peer, those that have landed, the events met so
far as (copy offset, code), and the fault it stalls on with the chunk and the copy offset that met it. A chain holds its
receivers' names. -/
structure CopyEntry where
  id : Nat
  ctx : Nat
  team : Nat
  group : Nat
  batch : Option Nat
  src : Place
  dst : Place
  len : Nat
  first : Nat
  map : Option Nat
  asked : SMap (List (Option (Byte × Bool))) := []
  sent : BitVec 64 := 0
  landed : BitVec 64 := 0
  events : List (Nat × Nat) := []
  stalled : Option (Nat × Nat × Nat) := none
  deriving DecidableEq, Repr, Inhabited

/-- A slot of a copy queue, or of any queue a join can name: an entry or a join (R101). -/
inductive Queued (α : Type) where
  | entry (e : α)
  | join (id : Nat)
  deriving DecidableEq, Repr, Inhabited

/-- The contents of a tile slot: elements of its format, row-major; `u` and `v` hold the factors of a low-rank slot
column by column (R52, R324). -/
structure Tile where
  state : Nat := 0
  fmt : Nat := 0
  rank : Nat := 0
  u : List Nat := []
  v : List Nat := []
  deriving DecidableEq, Repr, Inhabited

/-- A slot directory entry (R53); `team` is the model's own. -/
structure DirEntry where
  ctx : Nat := 0
  team : Nat := 0
  tslot : Nat := 0
  ghead : Nat := 0
  ngran : Nat := 0
  pend : Bool := false
  tile : Tile := {}
  deriving DecidableEq, Repr, Inhabited

/-- What a tile-window entry does, with its operands as captured at issue (R320): for a multiply, the accepted pair of
formats with K and the block length, the kept-run length of a compressed A (0 for none), and each lane slot's words of A,
B and the index (none for a slot with no active thread) and scale bytes of A and B with their block lengths (0 for
unscaled). -/
inductive TileJob where
  | ld (addr : Nat)
  | st (addr : Nat)
  | zero (acc : Bool)
  | free
  | dense | cmpr | add | mul | gemm | lu | trsm | tr | round
  | scal (alpha : Nat)
  | mma (clr : Bool) (aty bty : Ty) (k : Nat) (m : Nat) (a b idx : List (List Nat)) (la lb : Nat)
      (sa sb : List (List Nat))
  | badMma
  | join (id : Nat)
  deriving DecidableEq, Repr, Inhabited

/-- An entry of a tile window (R192, R193): slots as directory entries' numbers, the completion word's offset, the rank
controls it took (R322), whether it has started, the bytes so far of a to.ld's image, some of which a peer is asked for,
what the to.ld read (a tile or none, and flags), the next chunk of a to.st, whether a declined translation ended it,
whether its commit is held for the trap of R342, and the fault it stalls on. -/
structure WEntry where
  id : Nat
  ctx : Nat
  team : Nat
  group : Nat
  pc : DWord
  job : TileJob
  ty : Ty := .i8
  sel : Nat := 0
  td : Nat := 0
  ta : Nat := 0
  tb : Nat := 0
  tc : Nat := 0
  cw : Nat := 0
  ceil : Nat := 32
  mode : Nat := 256
  tol : DWord := 0
  started : Bool := false
  asked : List (Option (Byte × Bool)) := []
  loaded : Option (Option Tile × Nat) := none
  chunk : Nat := 0
  failed : Bool := false
  held : Bool := false
  stalled : Option Nat := none
  deriving DecidableEq, Repr, Inhabited

/-- A pair's tile store: directory, granule map and window (R53, R192), and the place in the turn of the team whose entry
entered the window last (R192); the model's own: the clock in which the follower last entered one (log 71). -/
structure Pair where
  dir : SMap DirEntry := []
  gmap : SMap Nat := []
  window : List WEntry := []
  turn : Nat := 0
  follow : Option Nat := none
  deriving DecidableEq, Repr, Inhabited

/-- An entry of a transform queue: the registers it will write, lane by lane (R287). -/
structure XformEntry where
  writes : List (Nat × Nat × Nat × Word)   -- group, register, lane, value
  flags : List (Nat × Nat)                 -- group, completion flag
  outside : Bool := true
  deriving DecidableEq, Repr, Inhabited

/-- What an entry of an NMU queue does, with its address (R364). -/
inductive NmuJob where
  | upd (addr : Nat)
  | install (buf addr : Nat)
  | remove (buf : Nat)
  | done (addr : Nat)
  deriving DecidableEq, Repr, Inhabited

/-- An entry of an NMU queue (R364): its descriptor once read at dequeue, the next block and the status so far (R135 to
R141), and the fault it stalls on (R27). -/
structure NmuEntry where
  ctx : Nat
  team : Nat
  group : Nat
  job : NmuJob
  desc : Option (List Byte) := none
  block : Nat := 0
  status : DWord := 0
  stalled : Option Nat := none
  deriving DecidableEq, Repr, Inhabited

/-- A reduction packet on its way to a landing unit or held there, with the copy queue, entry and chunk that sent it
(none for a peer's) (R143, R316). -/
structure PacketFlight where
  sender : Option (Nat × Nat × Nat × Nat)
  packet : RPacket
  deriving DecidableEq, Repr, Inhabited

/-- A landing buffer with its installed descriptor (R142 to R145), the home group whose nm.land installed it, the packets
held for a later epoch, the elements marked poisoned, and the fault it stalls on (R27). -/
structure LandBuf where
  ctx : Nat
  team : Nat
  group : Nat
  ncon : Nat
  ord : Bool
  tfmt : Nat
  count : Nat
  saddr : Nat
  waddr : Nat
  taddr : Nat
  epoch : Nat := 0
  ended : List Nat := []
  held : List PacketFlight := []
  marked : List Nat := []
  badpkt : Bool := false
  stalled : Option Nat := none
  deriving DecidableEq, Repr, Inhabited

/-- A stack's base die: the NMU queue, the landing buffers and the corrected-error counter (R124 to R145). -/
structure Stack where
  nmu : List (Queued NmuEntry) := []
  bufs : SMap LandBuf := []
  badpkt : SMap Bool := []
  corrected : Nat := 0
  deriving DecidableEq, Repr, Inhabited

/-! ### Execution -/

/-- One lane's part of an outstanding operation; `landed` lists the results, by number, that have been written to
registers. -/
structure LaneAcc where
  lane : Nat
  addr : Nat
  cls : Nat := 0
  loc : Nat := 0
  peer : Option Nat := none
  size : Nat := 0
  a : DWord := 0
  c : DWord := 0
  data : List Byte := []
  got : SMap Byte := []
  psn : List Nat := []
  acked : Bool := true
  done : Bool := false
  landed : List Nat := []
  deriving DecidableEq, Repr, Inhabited

/-- What waits for a peer's answer: an operation of a home group, an ms.acq of an issue group, a chunk of a copy entry
(its read or its write), the read of a tile entry, the later release of a home group whose store `id` was performed as it
was accepted, or nothing (R84, R120, R122). -/
inductive PeerFor where
  | op (group id : Nat)
  | acq (group : Nat) (ref : IgRef)
  | copy (core q entry chunk : Nat)
  | tile (pair entry : Nat)
  | sent (group id : Nat)
  | nobody
  deriving DecidableEq, Repr, Inhabited

/-- What a request asks of a peer: a read, a write, the lanes of an atomic on one word in ascending order, each with its
home group, its code and its type, or that a landing unit there take a reduction packet (R114, R119, R120, R143). -/
inductive PeerAsk where
  | read
  | write
  | atomic (code : Nat) (ty : Ty) (lanes : List (Nat × LaneAcc))
  | packet (p : RPacket)
  deriving DecidableEq, Repr, Inhabited

/-- A request in the Pleach queue of its route's link (R39, R120): the issuing context, the peer, what is asked and of
which bytes, and whom the answer is for. -/
structure PeerWait where
  ctx : Nat
  peer : Nat
  dest : PeerFor
  ask : PeerAsk
  acc : LaneAcc
  deriving DecidableEq, Repr, Inhabited

/-- An entry of a link's Pleach queue: an accepted step of a region with its round and the team whose gx.step it is (R185,
R347), or a request to a peer (R120). -/
inductive LinkEntry where
  | step (ctx rgn round team : Nat)
  | req (w : PeerWait)
  deriving DecidableEq, Repr, Inhabited

/-- A fabric link: whether it is trained, and its Pleach queue, oldest first (R99, R100, R153). -/
structure Link where
  trained : Bool := false
  queue : List LinkEntry := []
  deriving DecidableEq, Repr, Inhabited

/-- The kinds of operation; a query is a tq read, whose value is taken at a moment after issue (R343). -/
inductive OpKind where
  | load | store | atomic | acqLoad | relStore | relAdd | push | pop | gxctl (rgn : Nat) | query
  deriving DecidableEq, Repr, Inhabited

/-- An outstanding operation of a home group (R82, R291). `accepted` marks one that is performed and has left its arrival
counter (R84); `ready` one whose accesses are over and whose results are still to be written (R231). -/
structure Op where
  id : Nat
  kind : OpKind
  ig : Nat
  ac : Nat := 0
  counted : Bool := true
  cf : Option Nat := none
  outside : Bool := true
  accepted : Bool := false
  ready : Bool := false
  scratch : Bool := false
  scope : Scope := .none
  acq : Bool := false
  rel : Bool := false
  ty : Ty := .i8
  sel : Nat := 0
  d : Nat := 0
  cnt : Nat := 1
  cv : Bool := false
  writes : List Nat := []
  rc : Nat := 0
  bank : Nat := 0
  lanes : List LaneAcc := []
  deriving DecidableEq, Repr, Inhabited

/-- A tape engine entry (R363). -/
inductive TapeJob where
  | write (addr : Nat) (data : List Byte)
  deriving DecidableEq, Repr, Inhabited

/-- A waiting claim of granules, with the clock at which it issued (R163); `lead` marks the first that its ms.rclaim
entered, with which the instruction counts (R180). -/
structure Claim where
  group : Nat
  ig : Nat
  n : Nat
  clock : Nat
  lead : Bool := true
  deriving DecidableEq, Repr, Inhabited

/-- A home group (R158): its registers, counters, outstanding set, batches with the one a waiting ms.commit waits for
(R304), tape and trap registers. `ptrap` is a poison trap that
no issue group of the current path could take when it was judged (R411), `ttrap` a tile-allocation trap to be taken at
the next issue (R342). -/
structure Group where
  team : Nat := 0
  home : Nat := 0
  role : Nat := 0
  core : Nat := 0
  resident : Bool := true
  gran : Nat := 1
  v : SMap Vec := []
  s : SMap Word := []
  rng : SMap DWord := []
  fpflags : Word := 0
  ac : SMap Nat := []
  cf : SMap Nat := []
  ops : List Op := []
  held : List Op := []
  cb : Nat := 0
  commitFor : Option Nat := none
  pending : Nat := 0
  batches : List (Nat × Nat) := []          -- batch number, entries not complete
  tapeBase : DWord := 0
  tapeLimit : DWord := 0
  tapePos : DWord := 0
  tapeHash : DWord := 0
  tapeCtl : Word := 0
  tapeQ : List TapeJob := []
  tapeStall : Option Nat := none
  trapCause : Word := 0
  trapPc : DWord := 0
  trapClause : Word := 0
  trapAddr : DWord := 0
  ptrap : Option DWord := none
  ttrap : Option DWord := none
  exited : Bool := false
  returned : Bool := false
  deriving DecidableEq, Repr, Inhabited

/-- An open clause: its header, the flags it may set, its length and the instructions already done (R228, R234). -/
structure Clause where
  hdr : DWord
  len : Nat
  fa : Option Nat
  fb : Option Nat
  idx : Nat
  deriving DecidableEq, Repr, Inhabited

/-- Why an issue group waits (R387): `blocked` at a form whose waiting counts as blocked time (R292), `window` at the
entry of a pair's tile window (R192), `full` at anything else that has not let its instruction issue. -/
inductive Wait where
  | none
  | brd (x : BcArgs)
  | rpc
  | xl
  | bar (kind num : Nat) (scope : Scope)
  | blocked
  | window
  | full
  deriving DecidableEq, Repr, Inhabited

/-- An issue group of a current path (R170): the home group at each slot, its own pc and wait state, the clause it is
in, the offset to skip to at a resume (R236), a trap judged before its next issue (R411, R342), the replayable fault it
waits on (R26), the claim it waits on (R163), the acquires that are not complete (R94), and, at an ms.acq, the home
groups whose acquire is complete and the answers of a peer (R306). -/
structure Ig where
  uid : Nat
  slots : List (Option Nat)
  pc : DWord
  clause : Option Clause := none
  resume : Option Nat := none
  wait : Wait := .none
  ptrap : Option (Nat × DWord) := none
  fault : Option Nat := none
  declined : Option DWord := none
  claim : Bool := false
  acquiring : List Nat := []
  acqDone : List Nat := []
  remote : List (Nat × DWord × Bool) := []
  deriving DecidableEq, Repr, Inhabited

/-- A recorded meet awaiting its BRD entries: per home group, its threads' conditions (R358). -/
abbrev Recorded := List (Nat × LaneMask)

/-- The kind of a stack entry (R165). -/
inductive Kind where
  | path
  | reconv
  | parked (kind num : Nat) (scope : Scope)
  deriving DecidableEq, Repr, Inhabited

/-- An entry of a role's reconvergence stack (R165). -/
structure Entry where
  kind : Kind
  pc : DWord
  rpc : Option DWord
  mask : ThreadMask
  meet : List (DWord × ThreadMask) := []
  recd : Recorded := []
  deriving DecidableEq, Repr, Inhabited

/-- A role (R160): its stack, highest entry first, execution-mask bits, the issue groups of the current path, path
count, blocked clocks below 1,024, role barrier arrivals and exited threads. -/
structure Role where
  entries : List Entry := []
  em : ThreadMask := 0
  igs : List Ig := []
  count : Nat := 0
  since : Option Nat := none
  bars : SMap ThreadMask := []
  exited : ThreadMask := 0
  threads : ThreadMask := 0
  deriving DecidableEq, Repr, Inhabited

/-- A role entry of a kernel record (R250). -/
structure KRole where
  groups : Nat
  regs : Nat
  share : Nat
  deriving DecidableEq, Repr, Inhabited

/-- A kernel record with the bind, gossip and tape records of its kernel (R250, R251), and whether its limits hold. -/
structure KRec where
  entry : DWord
  coop : Bool := false
  tiles : Nat := 0
  args : Nat := 0
  roles : List KRole := []
  binds : List (DWord × Nat × DWord) := []
  gossips : List (DWord × Nat × Nat × Word × Nat) := []   -- base, count, region, CFG, MODE
  tape : Option (DWord × Word × Word) := none             -- base, bytes, CTL
  ok : Bool := true
  deriving DecidableEq, Repr, Inhabited

/-- Where a team is resident (R159). -/
inductive Placement where
  | core (c : Nat)
  | pair (p : Nat)
  deriving DecidableEq, Repr, Inhabited

/-- A team (R158); `fifo` says that it has used a FIFO bank (R389). -/
structure Team where
  ctx : Nat := 0
  grid : Nat := 0
  num : Nat := 0
  place : Placement := .core 0
  krec : KRec := { entry := 0 }
  alloc : Nat := 0
  groups : Nat := 1
  resident : Bool := true
  trapvec : DWord := 0
  bars : SMap ThreadMask := []
  gridArr : ThreadMask := 0
  terminated : Bool := false
  ended : Bool := false
  firstIssue : Bool := false
  fifo : Bool := false
  deriving DecidableEq, Repr, Inhabited

/-- A grid (R158, R185): its launch queue, kernel, team count, argument, whether its head has been judged and
its records are applied with the MODE values still to be set (R187, R252), the places reserved for its next teams (R187),
and how far it has got. -/
structure Grid where
  ctx : Nat := 0
  q : Nat := 0
  krec : KRec := { entry := 0 }
  count : Nat := 0
  arg : DWord := 0
  seq : Nat := 0
  status : Option (Nat × Nat) := none       -- launching team, scratch offset
  root : Bool := false
  placed : Nat := 0
  ended : Nat := 0
  judged : Bool := false
  applied : Bool := false
  modes : List (Nat × Nat) := []           -- region, MODE
  reserve : List Placement := []
  lost : Bool := false
  deriving DecidableEq, Repr, Inhabited

/-- A thread in a spawn bin: its argument, the clock at which it entered and its team (R178). -/
structure Spawn where
  arg : Word
  clock : Nat
  team : Nat
  deriving DecidableEq, Repr, Inhabited

/-- A spawn bin (R178): its key, its threads in entry order, and whether it is to launch before it is full. -/
structure Bin where
  ctx : Nat
  entry : DWord
  threads : List Spawn
  due : Bool := false
  deriving DecidableEq, Repr, Inhabited

/-- A core: free granules, core level, copy queues, transform queue, waiting claims, oldest first, and spawn bins. -/
structure Core where
  free : Nat := 512
  level : Level := {}
  copy : SMap (List (Queued CopyEntry)) := []
  xform : List (Queued XformEntry) := []
  claims : List Claim := []
  bins : SMap Bin := []
  deriving DecidableEq, Repr, Inhabited

/-! ### Contexts -/

/-- A binding-table entry (R32): base line, lines and object doubleword; the table lists the valid entries. -/
structure Bind where
  base : Nat
  lines : Nat
  obj : Nat
  deriving DecidableEq, Repr, Inhabited

/-- An order gate (R360 to R362): its word's virtual address and place, tape, capacity, mode, the current chunk, the steps
it owes, the chunks it will play, and whether it has stopped recording or enforcing. -/
structure Gate where
  word : Nat
  loc : Nat
  tape : Nat
  cap : Nat
  play : Bool
  chunk : Nat := 0
  owed : Nat := 0
  gid : Nat := 0
  chunks : Nat := 0
  count : Nat := 0
  lastGid : Nat := 0
  lastRun : Nat := 0
  ovf : Bool := false
  stopped : Bool := false
  deriving DecidableEq, Repr, Inhabited

/-- A gossip departure not yet acknowledged (R153). -/
structure GxFlight where
  seq : Nat
  elem : Nat
  hs : DWord
  hw : DWord
  psn : Bool
  right : Bool
  round : Nat
  doubt : Bool := false
  deriving DecidableEq, Repr, Inhabited

/-- A gossip region (R146 to R156): its registers, the effective MODE, the base its elements were initialised at (R147),
whether an initialisation is in progress, the next
element to depart, the sweeps started and the clock of the last, the steps accepted and completed since the context
began, the elements whose arrival of the current round is performed, arrivals held until their round, departures in
flight, the next departure's number, the number of the last arrival performed from each side, and the fault that stalls
departures. -/
structure Region where
  addr : Word := 0
  len : Word := 0
  cfg : Word := 0
  stat : Word := 0
  mode : Nat := 0
  base : Nat := 0
  initing : Bool := false
  next : Nat := 0
  sweeping : Bool := false
  sweeps : Nat := 0
  lastSweep : Option Nat := none
  accepted : Nat := 0
  completed : Nat := 0
  arrived : List Nat := []
  early : List (Nat × GxPacket) := []       -- link, packet
  flight : List GxFlight := []
  seq : Nat := 1
  seenR : Nat := 0
  seenL : Nat := 0
  stalled : Option Nat := none
  skip : Bool := false
  deriving DecidableEq, Repr, Inhabited

/-- A fault record's content (R26, R27, R379, R394). -/
inductive FaultRec where
  | access (va kind team group : Nat)
  | engine (code team group : Nat)
  | terminated (team cause : Nat) (pc : DWord)
  | refused (seq : Nat)
  deriving DecidableEq, Repr, Inhabited

/-- Whether the context runs (R381). -/
inductive Run where
  | running | saved
  deriving DecidableEq, Repr, Inhabited

/-- An entry of a copy queue as it is saved: its team, the leader's core (0) or the follower's (1), and the queue (R382,
R385). -/
structure SavedCopy where
  team : Nat
  rel : Nat
  q : Nat
  item : Queued CopyEntry
  deriving DecidableEq, Repr, Inhabited

/-- A context (R393); `due` says that RETIRED has reached PREEMPTAT (R375). While it is saved, its teams and groups stay
listed as not resident, and what left other units is held here, beside where in the firmware's memory its save area stands
(R384, R385). -/
structure Ctx where
  test : Bool := false
  keyless : Bool := false
  root : Nat := 0
  ringAddr : Nat := 0
  ringSize : Nat := 4096
  ringNext : Nat := 0
  ring : SMap (FaultRec × Bool) := []       -- entry, answered
  pathBudget : Word := 0x40000000
  spawnTimer : Word := 0x1000
  rankCeil : Word := 0x20
  rankMode : Word := 0x100
  rankTol : DWord := 0
  tileQuota : Word := 0x600
  tileTrap : Word := 0
  regions : SMap Region := []
  preemptAt : DWord := 0
  retired : DWord := 0
  trigCtl : Word := 0
  hold : Bool := false
  due : Bool := false
  binds : List Bind := []
  gates : SMap Gate := []
  queues : SMap (List Nat) := []
  images : List KRec := []
  imageDigests : List (List Byte) := []
  run : Run := .running
  savedClock : Nat := 0
  savedTiles : List (Nat × Nat × Tile) := []            -- team, slot, tile
  savedWindow : List WEntry := []                       -- slots in place of directory entries
  savedCopies : List SavedCopy := []
  savedFifos : List (Nat × Nat × List (LaneMask × Vec)) := []   -- cluster, bank, entries
  savedClaims : List Claim := []
  savedSteps : List LinkEntry := []                      -- in the order of the links' queues
  area : Nat × Nat := (0, 0)                             -- address, bytes
  deriving DecidableEq, Repr, Inhabited

/-- A record that host DMA will write into a fault ring (R394). -/
structure DmaEntry where
  ctx : Nat
  idx : Nat
  record : FaultRec
  deriving DecidableEq, Repr, Inhabited

/-- An entry of the export table (R39). -/
structure Export where
  peer : Nat
  base : Nat
  len : Nat
  rd : Bool
  wr : Bool
  deriving DecidableEq, Repr, Inhabited

/-- An extent assigned to a context (R42), or a frame that firmware mapped into it with, for a fresh one, the key under
which its lines were written as zero (R43). -/
structure Extent where
  ctx : Nat
  base : Nat
  len : Nat
  key : Option (BitVec 512) := none
  deriving DecidableEq, Repr, Inhabited

/-- Memory as a list of cells in canonical form: strictly rising addresses, no listed zero. An unlisted address reads
0 (log 5). -/
abbrev Memory := List Host.Cell

/-- What an unlisted address reads as: RAM that nothing has written (log 5, DESIGN CHOICE; R397 leaves it open). -/
def Memory.unlisted : Byte := 0

/-- The canonical form of memory. -/
def Memory.wf (m : Memory) : Bool := SMap.wf Memory.unlisted m

/-- The state of the device. -/
structure State where
  /-- The model's own: the actions already chosen, next first (log 1). -/
  agenda : List Action := []
  /-- The model's own: free values drawn so far (log 2). -/
  draws : Nat := 0
  /-- The model's own: the issue group that issues (log 3). -/
  cur : IgRef := { role := 0, ig := 0 }
  /-- The model's own: the next name for a team, issue group, operation or entry (log 3). -/
  nextUid : Nat := 1
  clock : DWord := 0
  powered : Bool := true
  clockMHz : Nat := 1000
  powerCap : Nat := 3000
  coolantLow : Bool := false
  devnum : BitVec 12 := 0
  mem : Memory := []
  homePoison : List Nat := []
  presence : SMap (BitVec 16) := []
  msc : SMap MscLine := []
  dram : SMap DramLine := []
  keys : SMap KeySlot := []
  keysMade : Nat := 0
  hostMem : Memory := []
  ptab : SMap DWord := []
  window : SMap (BitVec 128) := []
  exports : List Export := []
  routes : List (Nat × Nat × Nat) := []      -- context, peer, link
  extents : List Extent := []
  /-- Frames that firmware mapped into a context, newest first: whose key their lines are under (R40, R43). -/
  owned : List Extent := []
  packets : List PacketFlight := []
  mbstatSeq : Word := 0
  mbstatLast : Byte := 0
  mbstatBusy : Bool := false
  mbstatReady : Bool := false
  /-- The model's own: the tables already hold what the command in progress changes (R30; log 41). -/
  mbMoved : Bool := false
  mbcmd : SMap DWord := []
  /-- The model's own: MBCMDBUF as it stood when the command in progress was submitted (log 40). -/
  mbTaken : SMap DWord := []
  mbrsp : SMap DWord := []
  eqHead : Nat := 0
  eqTail : DWord := 0
  eqLost : DWord := 0
  eq : SMap (BitVec 128) := []
  msix : SMap Nat := []
  dmaQ : List (Queued DmaEntry) := []
  /-- What the host or a peer last read (R38, R104, R120): address, bytes, and whether they carry poison; no bytes for a
  completion error or a refusal. -/
  hostRead : Option (Nat × List Byte × Bool) := none
  launchSeq : Nat := 0
  /-- The queue served last, by 4 × context + priority, and the context served last, by priority (R186). -/
  rrQueue : SMap Nat := []
  rrCtx : SMap Nat := []
  ctxs : SMap Ctx := []
  grids : SMap Grid := []
  teams : SMap Team := []
  roles : SMap Role := []
  groups : SMap Group := []
  allocs : SMap Alloc := []
  cores : SMap Core := []
  clusters : SMap Cluster := []
  pairs : SMap Pair := []
  stks : SMap Stack := []
  links : SMap Link := []
  joins : SMap (List Nat) := []
  deriving DecidableEq, Repr

/-- The device right after reset, before step 1 of R397: nothing is resident, READY is 0, every register holds its
reset value, and DEVICE_RESET is the move that comes next. -/
def State.reset : State := { agenda := [{ dt := 0, act := .event .deviceReset }] }

end Sys2Proof.Machine
end

