-- ==== Sys2Proof/Machine/Ops.lean ====
section
/-! DEFINITION. The named operations over the state that every meaning uses: access to its numbered parts, the active
lanes of an issue group, moving past an instruction, records to the host, and taking a trap and returning from one
(spec/14_instr_gossip_tape_system.md R373, R374; spec/15_traps_and_preemption.md R376 to R379). -/

namespace Sys2Proof.Machine

/-- The three outcomes of a step of this machine. -/
abbrev Out := Host.Outcome State Fault Refusal

/-! ### Numbered parts -/

def State.ctx (s : State) (n : Nat) : Ctx := SMap.look {} s.ctxs n
def State.setCtx (s : State) (n : Nat) (x : Ctx) : State := { s with ctxs := SMap.ins s.ctxs n x }
def State.modCtx (s : State) (n : Nat) (f : Ctx → Ctx) : State := s.setCtx n (f (s.ctx n))
def State.grid (s : State) (n : Nat) : Grid := SMap.look {} s.grids n
def State.setGrid (s : State) (n : Nat) (x : Grid) : State := { s with grids := SMap.ins s.grids n x }
def State.modGrid (s : State) (n : Nat) (f : Grid → Grid) : State := s.setGrid n (f (s.grid n))
def State.team (s : State) (n : Nat) : Team := SMap.look {} s.teams n
def State.setTeam (s : State) (n : Nat) (x : Team) : State := { s with teams := SMap.ins s.teams n x }
def State.modTeam (s : State) (n : Nat) (f : Team → Team) : State := s.setTeam n (f (s.team n))
def State.role (s : State) (n : Nat) : Role := SMap.look {} s.roles n
def State.setRole (s : State) (n : Nat) (x : Role) : State := { s with roles := SMap.ins s.roles n x }
def State.modRole (s : State) (n : Nat) (f : Role → Role) : State := s.setRole n (f (s.role n))
def State.group (s : State) (n : Nat) : Group := SMap.look {} s.groups n
def State.setGroup (s : State) (n : Nat) (x : Group) : State := { s with groups := SMap.ins s.groups n x }
def State.modGroup (s : State) (n : Nat) (f : Group → Group) : State := s.setGroup n (f (s.group n))
def State.alloc (s : State) (n : Nat) : Alloc := SMap.look {} s.allocs n
def State.setAlloc (s : State) (n : Nat) (x : Alloc) : State := { s with allocs := SMap.ins s.allocs n x }
def State.modAlloc (s : State) (n : Nat) (f : Alloc → Alloc) : State := s.setAlloc n (f (s.alloc n))
def State.core (s : State) (n : Nat) : Core := SMap.look {} s.cores n
def State.setCore (s : State) (n : Nat) (x : Core) : State := { s with cores := SMap.ins s.cores n x }
def State.modCore (s : State) (n : Nat) (f : Core → Core) : State := s.setCore n (f (s.core n))
def State.cluster (s : State) (n : Nat) : Cluster := SMap.look {} s.clusters n
def State.setCluster (s : State) (n : Nat) (x : Cluster) : State := { s with clusters := SMap.ins s.clusters n x }
def State.modCluster (s : State) (n : Nat) (f : Cluster → Cluster) : State := s.setCluster n (f (s.cluster n))
def State.pair (s : State) (n : Nat) : Pair := SMap.look {} s.pairs n
def State.setPair (s : State) (n : Nat) (x : Pair) : State := { s with pairs := SMap.ins s.pairs n x }
def State.modPair (s : State) (n : Nat) (f : Pair → Pair) : State := s.setPair n (f (s.pair n))
def State.stack (s : State) (n : Nat) : Stack := SMap.look {} s.stks n
def State.setStack (s : State) (n : Nat) (x : Stack) : State := { s with stks := SMap.ins s.stks n x }
def State.modStack (s : State) (n : Nat) (f : Stack → Stack) : State := s.setStack n (f (s.stack n))
def State.link (s : State) (n : Nat) : Link := SMap.look {} s.links n
def State.setLink (s : State) (n : Nat) (x : Link) : State := { s with links := SMap.ins s.links n x }
def State.modLink (s : State) (n : Nat) (f : Link → Link) : State := s.setLink n (f (s.link n))
def Cluster.bank (c : Cluster) (n : Nat) : Bank := SMap.look {} c.banks n
def State.modBank (s : State) (c n : Nat) (f : Bank → Bank) : State :=
  s.modCluster c fun x => { x with banks := SMap.put {} x.banks n (f (x.bank n)) }
def Ctx.region (c : Ctx) (k : Nat) : Region := SMap.look {} c.regions k
def State.modRegion (s : State) (c k : Nat) (f : Region → Region) : State :=
  s.modCtx c fun x => { x with regions := SMap.ins x.regions k (f (x.region k)) }

/-- The model's own: a name not used before. -/
def State.fresh (s : State) : Nat × State := (s.nextUid, { s with nextUid := s.nextUid + 1 })
/-- The model's own: an action to be taken next. -/
def State.push (s : State) (a : Act) : State := { s with agenda := { dt := 0, act := a } :: s.agenda }

/-- Names: the team of a role, the roles of a team, a home group of a team (log 3). -/
def roleTeam (r : Nat) : Nat := r / 4
def teamRole (t r : Nat) : Nat := 4 * t + r
def teamGroup (t h : Nat) : Nat := 32 * t + h
def State.roleCtx (s : State) (r : Nat) : Nat := (s.team (roleTeam r)).ctx
def State.groupCtx (s : State) (g : Nat) : Nat := (s.team (s.group g).team).ctx
def clusterOf (core : Nat) : Nat := core / 8
def pairOf (core : Nat) : Nat := core / 2
def State.groupCluster (s : State) (g : Nat) : Nat := clusterOf (s.group g).core

/-- The value an SMap lists at a key. -/
def findKey {α : Type} (m : SMap α) (k : Nat) : Option α := (m.find? fun p => p.1 == k).map (·.2)

/-! ### Paths, issue groups and active lanes (R165 to R172) -/

/-- The top of stack: the highest entry that is not parked (R165). -/
def Role.top (r : Role) : Option Entry :=
  r.entries.find? fun e => match e.kind with
    | .parked _ _ _ => false
    | _ => true

/-- The current path, if the role has a runnable one (R165). -/
def Role.path (r : Role) : Option Entry :=
  match r.top with
  | some e => if e.kind = .path then some e else none
  | none => none

/-- The threads active on the current path (R166). -/
def Role.active (r : Role) : ThreadMask :=
  match r.path with
  | some e => e.mask &&& ~~~r.exited &&& r.em
  | none => 0

/-- An issue group that holds nothing. -/
def Ig.idle : Ig := { uid := 0, slots := [], pc := 0 }

def State.ig (s : State) (r : IgRef) : Ig := ((s.role r.role).igs.find? fun g => g.uid == r.ig).getD Ig.idle
def State.modIg (s : State) (r : IgRef) (f : Ig → Ig) : State :=
  s.modRole r.role fun x => { x with igs := x.igs.map fun g => if g.uid == r.ig then f g else g }

/-- The active lanes of an issue group: its slots with the home group that supplies each (R166, R170). -/
def State.lanes (s : State) (r : IgRef) : List (Nat × Nat) :=
  let m := (s.role r.role).active
  ((s.ig r).slots.zipIdx).filterMap fun (h, l) =>
    match h with
    | some h => if m.getLsbD (96 * h + l) then some (l, h) else none
    | none => none

/-- A list with `h` entered in rising order, each member once. -/
def enter (h : Nat) : List Nat → List Nat
  | [] => [h]
  | a :: t => if h < a then h :: a :: t else if h = a then a :: t else a :: enter h t

/-- The home groups of some lanes, ascending. -/
def homesOf (ls : List (Nat × Nat)) : List Nat := ls.foldl (fun acc p => enter p.2 acc) []
/-- The lanes of home group `h` among some lanes. -/
def maskOf (ls : List (Nat × Nat)) (h : Nat) : LaneMask :=
  ls.foldl (fun m p => if p.2 = h then m ||| BitVec.twoPow 96 p.1 else m) 0
/-- The home groups that supply an active lane, ascending (R261, R291). -/
def State.suppliers (s : State) (r : IgRef) : List Nat := homesOf (s.lanes r)
/-- Every home group in an issue group's slots, ascending (R373). -/
def Ig.homes (g : Ig) : List Nat :=
  g.slots.foldl (fun acc h => match h with | some h => enter h acc | none => acc) []
/-- The name of home group `h` of the issuing team. -/
def State.gid (s : State) (h : Nat) : Nat := teamGroup (roleTeam s.cur.role) h
/-- The home group with the lowest number that supplies an active lane (R320). -/
def State.lowest (s : State) : Nat := s.gid ((s.suppliers s.cur).headD 0)
def State.curTeam (s : State) : Nat := roleTeam s.cur.role
def State.curCtx (s : State) : Nat := s.roleCtx s.cur.role

/-- A word of 32 execution-mask bits as em0, em1 or em2 reads it (R172): 1 exactly for an active thread. -/
def emWord (active : ThreadMask) (h k : Nat) : Word := active.extractLsb' (96 * h + 32 * k) 32

/-- A scalar register of home group `g`; s124 to s126 read as em0 to em2 (R172). -/
def State.readS (s : State) (g n : Nat) : Word :=
  let x := s.group g
  if 124 ≤ n ∧ n ≤ 126 then emWord (s.role (teamRole x.team x.role)).active x.home (n - 124)
  else SMap.look 0 x.s n

/-- A write of em0, em1 or em2: the bits of threads on the current path that have not exited (R172). -/
def Role.setEm (r : Role) (h k : Nat) (w : Word) : Role :=
  let live := (match r.path with | some e => e.mask | none => 0) &&& ~~~r.exited
  let field : ThreadMask := (BitVec.ofNat 3072 0xFFFFFFFF) <<< (96 * h + 32 * k)
  let sel := field &&& live
  let v : ThreadMask := (w.setWidth 3072) <<< (96 * h + 32 * k)
  { r with em := (r.em &&& ~~~sel) ||| (v &&& sel) }

/-- A write of a scalar register. -/
def State.writeS (s : State) (g n : Nat) (w : Word) : State :=
  let x := s.group g
  if 124 ≤ n ∧ n ≤ 126 then s.modRole (teamRole x.team x.role) fun r => r.setEm x.home (n - 124) w
  else s.setGroup g { x with s := SMap.put 0 x.s n w }

/-- A scalar pair, low word in the even register (R200). -/
def State.readS64 (s : State) (g n : Nat) : DWord := (s.readS g (n + 1)) ++ (s.readS g n)
def State.writeS64 (s : State) (g n : Nat) (v : DWord) : State :=
  (s.writeS g n (v.truncate 32)).writeS g (n + 1) (v.extractLsb' 32 32)

/-- A mask triple (R221). -/
def State.triple (s : State) (g n : Nat) : LaneMask :=
  (s.readS g (n + 2)) ++ (s.readS g (n + 1)) ++ (s.readS g n)

/-- Lane `l` of a vector register of home group `g`. -/
def Group.lane (x : Group) (r l : Nat) : Word := (SMap.look Vec.zero x.v r).getD l 0
def State.readV (s : State) (g r l : Nat) : Word := (s.group g).lane r l
/-- Vector register `r` with lane `l` of `m` taking `f l`, and every other lane kept. -/
def Group.setVec (x : Group) (r : Nat) (m : LaneMask) (f : Nat → Word) : Group :=
  let old := SMap.look Vec.zero x.v r
  { x with v := SMap.put Vec.zero x.v r ((List.range 96).map fun l => if m.getLsbD l then f l else old.getD l 0) }
def State.writeV (s : State) (g r : Nat) (m : LaneMask) (f : Nat → Word) : State :=
  s.modGroup g fun x => x.setVec r m f
/-- One lane. -/
def State.writeLane (s : State) (g r l : Nat) (w : Word) : State := s.writeV g r (BitVec.twoPow 96 l) fun _ => w

/-- The generator state of lane `l` of home group `g`: the launch value until a step or sy.rng replaces it (R208). -/
def State.genState (s : State) (g l : Nat) : DWord :=
  let x := s.group g
  (findKey x.rng l).getD (0x9E3779B97F4A7C15#64 + BitVec.ofNat 64 (96 * x.home + l))

/-! ### Records to the host (R131, R391, R394) -/

/-- An error record into the error queue, MSI-X vector 0 (R391). -/
def State.bumpMsix (s : State) (v : Nat) : State := { s with msix := SMap.ins s.msix v (SMap.look 0 s.msix v + 1) }
def State.postError (s : State) (r : BitVec 128) : State :=
  if (s.eqHead + 1) % 256 = s.eqTail.toNat % 256 then { s with eqLost := s.eqLost + 1 }
  else { s with eq := SMap.ins s.eq s.eqHead r, eqHead := (s.eqHead + 1) % 256 }.bumpMsix 0

/-- Entries of a context's fault ring. -/
def Ctx.ringLen (c : Ctx) : Nat := c.ringSize / 32

/-- A record handed to host DMA for a context's fault ring; answers the ring index, its fault id, which no answer to an
earlier record at that index answers (R394). -/
def State.postFault (s : State) (n : Nat) (r : FaultRec) : Nat × State :=
  let c := s.ctx n
  let i := c.ringNext
  (i, { s.setCtx n { c with ringNext := (i + 1) % max 1 c.ringLen, ring := SMap.erase c.ring i } with
        dmaQ := s.dmaQ ++ [.entry { ctx := n, idx := i, record := r }] })

/-! ### Traps (R373 to R379) -/

/-- The resume point of an issue group: TRAPPC and TRAPCLAUSE (R234, R235); one that is still passing over the clause
instructions done before counts those too (R236). -/
def Ig.resumePoint (g : Ig) : DWord × Word :=
  match g.clause with
  | some c => (c.hdr, BitVec.ofNat 32 (32 + (c.idx + g.resume.getD 0)))
  | none =>
    match g.resume with
    | some off => (g.pc, BitVec.ofNat 32 (32 + off))
    | none => (g.pc, 0)

/-- The resume point after an instruction of `len` bytes, for the software trap and the breakpoint (R234). -/
def Ig.resumeAfter (g : Ig) (len : Nat) : DWord × Word :=
  match g.clause with
  | some c => (c.hdr, BitVec.ofNat 32 (32 + (c.idx + 1)))
  | none => (g.pc + BitVec.ofNat 64 len, 0)

/-- TRAPCAUSE.ACT (R372). -/
def Group.act (x : Group) : Bool := x.trapCause.getLsbD 31

/-- Step 1 of R373: CODE, TRAPPC, TRAPCLAUSE and TRAPADDR of a home group. -/
def Group.setTrap (x : Group) (code : Nat) (pt : DWord × Word) (addr : DWord) : Group :=
  { x with trapCause := (x.trapCause &&& 0x80000000#32) ||| BitVec.ofNat 32 code, trapPc := pt.1, trapClause := pt.2,
           trapAddr := addr }

/-- GID of an order-tape chunk (R361). -/
def gidOf (team home : Nat) : Nat := if team < 32767 then team * 32 + home else 0xFFFFF

/-- A gate in play mode holds the steps whose GID is not the current chunk's (R362). -/
def Gate.holds (g : Gate) (gid : Nat) : Bool :=
  g.play && !g.stopped && decide (g.chunk < g.chunks) && g.gid != gid
/-- Whether an atomic on `n` bytes at a place touches a gate's word. -/
def Gate.meets (g : Gate) (loc n : Nat) : Bool := decide (loc < g.loc + 8 ∧ g.loc < loc + n)
/-- Whether some gate touches an atomic's word, and whether one holds it. -/
def State.gated (s : State) (loc n : Nat) : Bool := s.ctxs.any fun c => c.2.gates.any fun g => g.2.meets loc n
def State.gateHolds (s : State) (loc n gid : Nat) : Bool :=
  s.ctxs.any fun c => c.2.gates.any fun g => g.2.meets loc n && g.2.holds gid

/-- Whether a gx.ctl of an operation's lane is performed: the steps accepted before it are complete, and the departures
before it are acknowledged or bounced (R348). -/
def Region.ctlDone (r : Region) (a : LaneAcc) : Bool :=
  decide (a.addr ≤ r.completed) && r.flight.all fun f => decide (a.loc ≤ f.seq)

def State.teamPair (s : State) (t : Nat) : Nat := match (s.team t).place with
  | .core c => pairOf c
  | .pair p => p
/-- The directory entry bound to slot `n` of a team. -/
def Pair.slot (p : Pair) (team n : Nat) : Option Nat :=
  (p.dir.find? fun e => e.2.team == team && e.2.tslot == n).map (·.1)
def Pair.entry (p : Pair) (k : Nat) : DirEntry := SMap.look {} p.dir k
/-- HELD of a context on a pair, and the pair's free granules (R56). -/
def Pair.heldBy (p : Pair) (ctx : Nat) : Nat := ((p.dir.filter fun e => e.2.ctx == ctx).map fun e => e.2.ngran).sum
def Pair.freeGranules (p : Pair) : Nat := Config.tileGranules - (p.dir.map fun e => e.2.ngran).sum
/-- The slot a window entry writes, as a directory entry. -/
def WEntry.writes (e : WEntry) : List Nat := match e.job with
  | .st _ => []
  | .join _ => []
  | _ => [e.td]
/-- The window entries that a tq.info waits for: those of its team that write its slot and entered before it (R343). -/
def State.queryAwaits (s : State) (g : Nat) (o : Op) : List WEntry :=
  let t := (s.group g).team
  let p := s.pair (s.teamPair t)
  let k := (p.slot t o.bank).getD 0
  if o.sel = 4 then p.window.filter fun e => e.team == t && decide (e.id < o.id) && e.writes.contains k else []
/-- Whether one of them is an entry held by the tile-allocation trap, or stands behind one (R382; log 67). -/
def State.queryHeld (s : State) (g : Nat) (o : Op) : Bool :=
  let t := (s.group g).team
  (s.queryAwaits g o).any fun e => (s.pair (s.teamPair t)).window.any fun h => h.team == t && h.held && decide (h.id ≤ e.id)

/-- A full, empty or unready bank holds a push or pop; a gate, a frozen region or a held tile entry may hold others (R381
step 2). -/
def State.opHeld (s : State) (g : Nat) (o : Op) : Bool :=
  let b := (s.cluster (s.groupCluster g)).bank o.bank
  let x := s.group g
  let atGate : Bool := !o.scratch && o.lanes.any fun l =>
    !l.done && s.gateHolds l.loc l.size (gidOf (s.team x.team).num x.home)
  match o.kind with
  | .push => b.zero || decide (512 ≤ b.fifo.length)
  | .pop => b.fifo.isEmpty
  | .gxctl k =>
    o.lanes.any fun a => !((s.ctx (s.groupCtx g)).region k).ctlDone a
  | .atomic => atGate
  | .query => s.queryHeld g o
  | .relAdd => atGate
  | _ => false

/-- The home groups of a team. -/
def State.teamGroups (s : State) (t : Nat) : List Nat := (List.range (s.team t).groups).map (teamGroup t)

/-- The request that an entry of a link's queue is. -/
def LinkEntry.request : LinkEntry → Option PeerWait
  | .req w => some w
  | .step _ _ _ _ => none
/-- Whether an entry is of a context. -/
def LinkEntry.isOf (c : Nat) : LinkEntry → Bool
  | .req w => w.ctx == c
  | .step d _ _ _ => d == c
/-- The requests to peers that have not been answered, each link's in order. -/
def State.requests (s : State) : List PeerWait := s.links.flatMap fun l => l.2.queue.filterMap LinkEntry.request
/-- The link of a context's route to a peer (R39). -/
def State.routeLink (s : State) (ctx peer : Nat) : Nat :=
  ((s.routes.find? fun r => r.1 == ctx && r.2.1 == peer).map (·.2.2)).getD 0
/-- A request enters the Pleach queue of its route's link (R120). -/
def State.send (s : State) (w : PeerWait) : State :=
  s.modLink (s.routeLink w.ctx w.peer) fun l => { l with queue := l.queue ++ [.req w] }
def State.sendAll (s : State) (ws : List PeerWait) : State := ws.foldl State.send s

/-- Whether a load or store that home group `g` issued before operation `id` still waits for its peer's acknowledgement
(R84, R122). -/
def State.unacked (s : State) (g id : Nat) : Bool :=
  s.requests.any fun w => match w.dest with
    | .op h n => h == g && decide (n < id)
    | .sent h n => h == g && decide (n < id)
    | _ => false
/-- Whether an access with an attribute acts at sys scope: as it names, or at a class 5 address (R91). -/
def Op.atSys (o : Op) : Bool := o.scope == .sys || (o.scope != .none && !o.scratch && o.lanes.any fun a => a.cls == 5)
/-- The hold of a release (R93): its home group has operations issued earlier that are not performed; at sys scope an
earlier load or store to a peer is performed only when the peer acknowledges it (R122). -/
def State.relHeld (s : State) (g : Nat) (o : Op) : Bool :=
  o.rel && (((s.group g).ops.any fun p => decide (p.id < o.id) && !p.accepted) || (o.atSys && s.unacked g o.id))

/-- A release or barrier hold that waits on a held operation is held too. -/
def State.heldOps (s : State) (g : Nat) : List Op :=
  let ops := (s.group g).ops
  let h := ops.filter (s.opHeld g)
  ops.filter fun o => s.opHeld g o || (o.rel && h.any fun p => decide (p.id < o.id))

/-- Takes operations out of a home group: each leaves its arrival counter and its completion flag (R229, R291). -/
def Group.dropOps (x : Group) (ids : List Nat) : Group :=
  let gone := x.ops.filter fun o => ids.contains o.id
  let ac := gone.foldl (fun m o => if o.counted then SMap.put 0 m o.ac (SMap.look 0 m o.ac - 1) else m) x.ac
  let cf := gone.foldl (fun m o => match o.cf with | some f => SMap.put 0 m f (SMap.look 0 m f - 1) | none => m) x.cf
  { x with ops := x.ops.filter fun o => !ids.contains o.id, ac := ac, cf := cf }

/-! ### Coppice (R170) -/

/-- The home groups of a role on one core, ascending. -/
def State.roleHomes (s : State) (r core : Nat) : List Nat :=
  (List.range (s.team (roleTeam r)).groups).filter fun h =>
    let g := s.group (teamGroup (roleTeam r) h)
    g.role == r % 4 && g.core == core
/-- The cores a team is resident on. -/
def Placement.cores : Placement → List Nat
  | .core c => [c]
  | .pair p => [2 * p, 2 * p + 1]

/-- The slot maps of a core's issue groups for the threads of a mask (R170). -/
def slotMaps (hs : List Nat) (m : ThreadMask) : List (List (Option Nat)) :=
  let lists := (List.range 96).map fun j => hs.filter fun h => m.getLsbD (96 * h + j)
  let n := lists.foldl (fun k l => max k l.length) 0
  (List.range n).map fun q => lists.map fun l => l[q]?

/-- Entries parked at a grid barrier that is lost become paths, to issue their ms.bar.g again and trap (R177). -/
def State.unparkLost (s : State) (r : Nat) : State :=
  if (s.grid (s.team (roleTeam r)).grid).lost then
    s.modRole r fun x => { x with entries := x.entries.map fun e => match e.kind with
      | .parked 2 _ _ => { e with kind := .path }
      | _ => e }
  else s

/-- The highest entry that is not parked becomes the current path: every thread has its execution-mask bit set (R172),
the path count starts (R180), and each core repacks its threads into issue groups at the entry's pc (R170). -/
def State.becomeCurrent (s : State) (r : Nat) : State :=
  let s := s.unparkLost r
  match (s.role r).path with
  | none => s.modRole r fun x => { x with igs := [], since := none }
  | some e =>
    let live := e.mask &&& ~~~(s.role r).exited
    let maps := (s.team (roleTeam r)).place.cores.flatMap fun c => slotMaps (s.roleHomes r c) live
    let n := s.nextUid
    let igs := (maps.zipIdx).map fun p => ({ uid := n + p.2, slots := p.1, pc := e.pc } : Ig)
    { s.modRole r fun x => { x with em := x.em ||| live, igs := igs, count := 0, since := none } with
      nextUid := n + maps.length }

/-- A grid barrier that a terminated team loses (R177): the arrivals are discarded; issue groups that wait at it, and
entries parked at it, issue their ms.bar.g again, which traps. A role's current path stays current until it leaves by a
meet, a pop or a park (R170). -/
def State.loseGridBarrier (s : State) (g : Nat) : State :=
  if (s.grid g).krec.coop then
    let s := s.modGrid g fun x => { x with lost := true }
    let s := (s.teams.filter fun p => p.2.grid == g).foldl (fun s p => s.modTeam p.1 fun t => { t with gridArr := 0 }) s
    (s.roles.filter fun p => (s.team (roleTeam p.1)).grid == g).foldl (fun s p =>
      if p.2.path.isNone then s.becomeCurrent p.1
      else s.modRole p.1 fun x => { x with igs := x.igs.map fun g => match g.wait with
        | .bar 2 _ _ => { g with wait := .none }
        | _ => g }) s
  else s

/-- R379: the team is terminated. Its issue groups stop, its held operations are cancelled, its grid barrier is lost,
and, unless CTX_DESTROY ordered it, a record is posted. -/
def State.terminate (s : State) (t : Nat) (cause : Nat) (pc : DWord) (record : Bool) : State :=
  if (s.team t).terminated then s
  else
    let s := (s.teamGroups t).foldl (fun s g => s.modGroup g fun x =>
      { x.dropOps ((s.heldOps g).map (·.id)) with exited := true, held := [] }) s
    let s := (List.range 4).foldl (fun s r => s.modRole (teamRole t r) fun x =>
      { x with entries := [], igs := [], exited := x.threads }) s
    let s := s.modTeam t fun x => { x with terminated := true }
    let s := s.loseGridBarrier (s.team t).grid
    let s := { s with cores := s.cores.map fun p =>
      (p.1, { p.2 with claims := p.2.claims.filter fun c => (s.group c.group).team != t }) }
    if record then (s.postFault (s.team t).ctx (.terminated (s.team t).num cause pc)).2 else s

/-- Blocked time up to a clock, counted: 1 for each whole 1,024 clocks (R292). -/
def Role.ticked (r : Role) (now : Nat) : Role :=
  match r.since with
  | some c => { r with count := r.count + (now - c) / 1024, since := some (c + (now - c) / 1024 * 1024) }
  | none => r
/-- Once no issue group of the role is blocked any more, its blocked time is counted and stops (R292). -/
def State.unblockRole (s : State) (r : Nat) : State :=
  s.modRole r fun x =>
    if x.igs.any fun g => g.wait = .blocked then x else { x.ticked s.clock.toNat with since := none }

/-- R373: a trap taken by issue group `r` with the resume point `pt`. -/
def State.takeTrap (s : State) (r : IgRef) (code : Nat) (pt : DWord × Word) (addr : DWord) : State :=
  let t := roleTeam r.role
  let hs := (s.ig r).homes.map (teamGroup t)
  let acting := hs.any fun g => (s.group g).act
  let s := hs.foldl (fun s g => s.modGroup g fun x => x.setTrap code pt addr) s
  let cause := (s.group ((hs.find? fun g => (s.group g).act).getD (hs.headD 0))).trapCause
  let vec := (s.team t).trapvec
  if vec = 0 ∨ vec.toNat % 4 ≠ 0 ∨ acting then s.terminate t cause.toNat pt.1 true
  else
    let s := hs.foldl (fun s g => s.modGroup g fun x => { x with trapCause := x.trapCause ||| 0x80000000#32 }) s
    let s := (s.modIg r fun g =>
      { g with pc := vec, clause := none, resume := none, wait := .none, ptrap := none, acqDone := [],
               remote := [] }).unblockRole r.role
    if code = 8 then s.modRole r.role fun x => { x with count := 0 } else s

/-! ### Moving past an instruction -/

/-- Past an instruction of `len` bytes: a clause ends after its last instruction (R228). -/
def Ig.advance (g : Ig) (len : Nat) : Ig :=
  let c := match g.clause with
    | some c => if c.idx + 1 < c.len then some { c with idx := c.idx + 1 } else none
    | none => none
  { g with pc := g.pc + BitVec.ofNat 64 len, clause := c, wait := .none, acqDone := [], remote := [] }

/-- Whether RETIRED, one more, reaches PREEMPTAT in a context that pre-empts there (R375). -/
def Ctx.reaches (c : Ctx) : Bool := c.test && c.trigCtl.getLsbD 0 && c.preemptAt != 0 && c.retired + 1 == c.preemptAt

/-- An instruction that issued with effect counts once towards the path budget (R180) and RETIRED (R375). -/
def State.count (s : State) : State :=
  let c := s.curCtx
  let x := s.ctx c
  let s := s.modRole s.cur.role fun r => { r with count := r.count + 1 }
  if x.reaches then (s.setCtx c { x with retired := x.retired + 1, due := true }).push (.event (.preemptTrigger c))
  else s.setCtx c { x with retired := x.retired + 1 }

/-- `n` issue groups of a role trap at instructions that counted when they arrived there: they had no effect, and do not
count (R180, R375; log 69). -/
def State.uncount (s : State) (r n : Nat) : State :=
  let m : DWord := BitVec.ofNat 64 n
  (s.modRole r fun x => { x with count := x.count - n }).modCtx (s.roleCtx r) fun c =>
    { c with retired := c.retired - m,
             due := c.due && !(c.preemptAt.ule c.retired && (c.retired - m).ult c.preemptAt) }

/-- The blocked time of the issuing role, once none of its issue groups is blocked. -/
def State.unblock (s : State) : State := s.unblockRole s.cur.role

/-- Past the issuing group's instruction. -/
def State.next (s : State) (len : Nat) : State := ((s.modIg s.cur fun g => g.advance len).unblock).count

/-- What an instruction comes to. -/
inductive Res where
  /-- Performed; the issue group moves past it. -/
  | done (s : State)
  /-- Performed; the issue group goes on at an address, outside any clause. -/
  | jump (s : State) (pc : DWord)
  /-- Performed; the issue group stands where the state says. -/
  | stand (s : State)
  /-- Not performed: the issue group waits, with the state that says so. -/
  | wait (s : State)
  /-- A trap at the instruction. -/
  | trap (s : State) (code : Nat) (addr : DWord)
  /-- A trap after the instruction. -/
  | trapAfter (s : State) (code : Nat) (addr : DWord)
  /-- A replayable fault (R26). -/
  | fault (va : Nat) (kind : Nat)

/-- The issue group waits, and time begins to count against the path (R292). -/
def State.block (s : State) : State :=
  (s.modIg s.cur fun g => { g with wait := .blocked }).modRole s.cur.role fun r =>
    { r with since := some (r.since.getD s.clock.toNat) }

/-- The issue group waits for room or for its turn. -/
def State.stall (s : State) : State :=
  s.modIg s.cur fun g => if g.wait = .none then { g with wait := .full } else g

/-- A home group records where it stands when it stops without a trap (R234), unless a handler runs there, whose sy.tret
is to find what the trap wrote (log 68). -/
def Group.stand (x : Group) (pt : DWord × Word) : Group :=
  if x.act then x else { x with trapPc := pt.1, trapClause := pt.2 }

/-- R26: the issue group is marked replayable and descheduled at its resume point (R234), and a fault record is posted. -/
def State.deschedule (s : State) (r : IgRef) (va kind : Nat) : State :=
  let t := roleTeam r.role
  let (i, s) := s.postFault (s.roleCtx r.role)
    (.access va kind (s.team t).num ((s.ig r).homes.headD 0))
  let s := ((s.ig r).homes.map (teamGroup t)).foldl (fun s g => s.modGroup g fun x => x.stand (s.ig r).resumePoint) s
  (s.modIg r fun g => { g with fault := some i, wait := .none }).unblockRole r.role

/-- The outcome of an instruction of `len` bytes that comes to `r`. -/
def State.finish (s : State) (len : Nat) : Res → Out
  | .done t => .next (t.next len)
  | .jump t pc => .next ((t.modIg t.cur fun g => { g with pc := pc, clause := none, wait := .none }).unblock.count)
  | .stand t => .next t.count
  | .wait t => .next t.stall
  | .trap t code addr => .next (t.takeTrap t.cur code (t.ig t.cur).resumePoint addr)
  | .trapAfter t code addr => .next (t.count.takeTrap t.cur code ((t.ig t.cur).resumeAfter len) addr)
  | .fault va kind => .next (s.deschedule s.cur va kind)

/-- An instruction that always completes: `f` acts, then the issue group moves past it. -/
def State.simple (s : State) (len : Nat) (f : State → State) : Out := s.finish len (.done (f s))

/-- A scalar effect performed once for each supplying home group, in ascending order (R171, R261). -/
def State.eachHome (s : State) (f : State → Nat → State) : State :=
  (s.suppliers s.cur).foldl (fun s h => f s (s.gid h)) s

/-- The condition of CF: the completion flag an instruction of the open clause holds (R229). -/
def State.flagOf (s : State) (cf : Nat) : Option Nat :=
  match (s.ig s.cur).clause with
  | some c => if cf = 1 then c.fa else if cf = 2 then c.fb else none
  | none => none

end Sys2Proof.Machine
end

