-- ==== Sys2Proof/Machine/Flags.lean ====
section
/-! DEFINITION. Flags: FPFLAGS and how results that carry flags are written (spec/08_number_formats.md R204, R215),
and comparisons with the flags they raise (spec/11_instr_scalar_vector.md R264, R276). -/

namespace Sys2Proof.Machine

/-- A result and the flags its helpers set. -/
abbrev Flagged := Nat × Nat

/-- ORs flags into a home group's FPFLAGS (R204). -/
def Group.orFlags (x : Group) (f : Nat) : Group := { x with fpflags := x.fpflags ||| BitVec.ofNat 32 (f % 16) }

/-- The union of the flags of the lanes of `m` (R204: an inactive lane raises nothing). -/
def flagsOf (m : LaneMask) (f : Nat → Flagged) : Nat :=
  (List.range 96).foldl (fun acc l => if m.getLsbD l then acc ||| (f l).2 else acc) 0

/-- The vector result `f` of the lanes of `m` in register `d`, or in the pair `d`:`d+1`, with its flags. -/
def Group.setLanes (x : Group) (d : Nat) (wide : Bool) (m : LaneMask) (f : Nat → Flagged) : Group :=
  let y := x.setVec d m fun l => BitVec.ofNat 32 (f l).1
  let y := if wide then y.setVec (d + 1) m fun l => BitVec.ofNat 32 ((f l).1 / 2 ^ 32) else y
  y.orFlags (flagsOf m f)

/-- The integer conditions of R264. -/
def condInt (sel : Nat) (a b : Int) : Bool :=
  match sel with
  | 0 => decide (a = b)
  | 1 => decide (a ≠ b)
  | 2 => decide (a < b)
  | 3 => decide (a ≤ b)
  | 4 => decide (b < a)
  | 5 => decide (b ≤ a)
  | _ => false

/-- The float conditions of R264 and R276, with the flags they raise. -/
def condFloat (t : Ty) (sel : Nat) (a b : Nat) : Bool × Nat :=
  let nan := isNaN t a || isNaN t b
  let sig := isSNaN t a || isSNaN t b
  let fl := if (decide (2 ≤ sel ∧ sel ≤ 5) && nan) || sig then fINV else 0
  let r := match sel with
    | 0 => eqF t a b
    | 1 => !eqF t a b
    | 2 => ltF t a b
    | 3 => leF t a b
    | 4 => ltF t b a
    | 5 => leF t b a
    | 6 => !nan
    | 7 => nan
    | _ => false
  (r, fl)

/-- A condition on two operands of any compared type. -/
def cond (t : Ty) (sel : Nat) (a b : Nat) : Bool × Nat :=
  if t.isFloat then condFloat t sel a b else (condInt sel (intVal t a) (intVal t b), 0)

end Sys2Proof.Machine
end

