-- ==== Sys2Proof/Machine/Operands.lean ====
section
/-! DEFINITION. Operand forms (spec/09_encoding.md R221, spec/11_instr_scalar_vector.md R263, R267, R270): vector and
scalar sources, pairs, packed elements, and the integer operations on one word. -/

namespace Sys2Proof.Machine

/-- A 9-bit source in lane `l` of home group `g`: a vector register, or at 384 + N the scalar register N of the lane's
home group (R221). -/
def State.src (s : State) (g l a : Nat) : Word := if a < 384 then s.readV g a l else s.readS g (a - 384)

/-- A source as a number: one register, or a pair with its low word first (R200, R267). -/
def State.opnd (s : State) (g l a : Nat) (wide : Bool) : Nat :=
  if wide then (s.src g l a).toNat + 2 ^ 32 * (s.src g l (a + 1)).toNat else (s.src g l a).toNat

/-- The active lanes of each supplying home group, with its name (R257). -/
def State.eachLanes (s : State) (f : State → Nat → LaneMask → State) : State :=
  let ls := s.lanes s.cur
  (homesOf ls).foldl (fun s h => f s (s.gid h) (maskOf ls h)) s

/-- A vector form: `f` gives each active lane's result from the state at issue (R257). -/
def State.vector (s : State) (d : Nat) (wide : Bool) (f : State → Nat → Nat → Flagged) : State :=
  s.eachLanes fun s g m => s.modGroup g fun x => x.setLanes d wide m (f s g)

/-- A vector form that writes a mask triple (R276): an active lane's bit is its result, a lane held but not active gets
0, and a lane not held keeps its bit. -/
def State.maskForm (s : State) (sd : Nat) (f : State → Nat → Nat → Bool × Nat) : State :=
  let slots := (s.ig s.cur).slots
  s.eachLanes fun s g m =>
    let h := (s.group g).home
    let heldMask : LaneMask := (slots.zipIdx).foldl
      (fun acc p => if p.1 = some h then acc ||| BitVec.twoPow 96 p.2 else acc) 0
    let bits : LaneMask := (List.range 96).foldl
      (fun acc l => if m.getLsbD l && (f s g l).1 then acc ||| BitVec.twoPow 96 l else acc) 0
    let v := (s.triple g sd &&& ~~~heldMask) ||| bits
    let fl := flagsOf m fun l => (0, (f s g l).2)
    let s := ((s.writeS g sd (v.extractLsb' 0 32)).writeS g (sd + 1) (v.extractLsb' 32 32)).writeS g (sd + 2)
      (v.extractLsb' 64 32)
    s.modGroup g fun x => x.orFlags fl

/-- Applies `f` to each element of the packed 16-bit types, and once to the others (R267). -/
def perElem (t : Ty) (f : Nat → Nat → Nat → Flagged) (a b c : Nat) : Flagged :=
  if t = .f16 || t = .bf16 then
    let h := 2 ^ 16
    let r := f (a % h) (b % h) (c % h)
    let q := f (a / h % h) (b / h % h) (c / h % h)
    (r.1 + h * q.1, r.2 ||| q.2)
  else f a b c

/-! ### Integer operations on a word -/

def shl32 (a b : Word) : Word := if (b.toNat % 64) < 32 then a <<< (b.toNat % 64) else 0
def shr32 (a b : Word) : Word := if (b.toNat % 64) < 32 then a >>> (b.toNat % 64) else 0
def sra32 (a b : Word) : Word := a.sshiftRight (min 32 (b.toNat % 64))
def bfPos (b : Word) : Nat := b.toNat % 32
def bfWid (b : Word) : Nat := min (b.toNat / 2 ^ 8 % 64) 32
/-- R263: the field at pos, wid. -/
def bfe32 (t : Ty) (a b : Word) : Word :=
  let pos := bfPos b
  let wid := bfWid b
  let ext : BitVec 64 := if t = .i32 then a.signExtend 64 else a.setWidth 64
  let f : BitVec 64 := ext >>> pos
  if wid = 0 then 0
  else
    let m : BitVec 64 := f.setWidth 64 &&& BitVec.ofNat 64 (2 ^ wid - 1)
    if t = .i32 && m.getLsbD (wid - 1) then (m ||| ~~~(BitVec.ofNat 64 (2 ^ wid - 1))).truncate 32 else m.truncate 32
/-- R263: `c` with positions pos to min(pos + wid, 32) - 1 replaced by the low bits of `a`. -/
def bfi32 (a b c : Word) : Word :=
  let m : Word := (BitVec.ofNat 32 (2 ^ bfWid b - 1)) <<< bfPos b
  (c &&& ~~~m) ||| ((a <<< bfPos b) &&& m)
def popc32 (a : Word) : Word := BitVec.ofNat 32 ((List.range 32).filter (a.getLsbD ·)).length
def clz32 (a : Word) : Word := if a = 0 then 32 else BitVec.ofNat 32 (31 - Nat.log2 a.toNat)
def brev32 (a : Word) : Word := a.reverse

/-- An operation on integers of a type, wrapped, or clamped with SAT (R268). -/
def intOp (t : Ty) (sat : Bool) (x : Int) : Nat := wrapInt t (if sat then clampInt t x else x)

/-! ### Conversions (R270) -/

/-- Bits of an element. -/
def elemBits : Ty → Nat
  | .bf16 => 16 | .f16 => 16 | .f8e4 => 8 | .f8e5 => 8 | .f4 => 4 | .e8 => 8 | .tern => 2
  | .f64 => 64
  | t => intBits t

/-- The conversion of R270 from the bits of an element of `frm` to the bits of an element of `to`. -/
def cvtElem (dst frm : Ty) (rm : Rm) (sat : Bool) (a : Nat) : Flagged :=
  let fl (t : Ty) : Bool := WellFormed.isFloatAny t
  if fl frm && fl dst then cvtF dst frm a rm sat
  else if fl frm && dst = .e8 then (e8Floor frm a, 0)
  else if fl frm then cvtInt dst frm a rm
  else if frm = .e8 then
    if a % 256 == 255 then (defNaN dst, if dst = .f4 then fINV else 0)
    else let (n, d) := e8Val (a % 256); roundF dst false n d rm sat
  else if frm = .tern then
    if dst = .i32 then (wrapInt .i32 (ternVal a), 0) else ((cvtOfInt dst (ternVal a) .rne false).1, 0)
  else if fl dst then cvtOfInt dst (intVal frm a) rm sat
  else (intOp dst sat (intVal frm a), 0)

/-- An integer element extended to its register (R200). -/
def extendInt (t : Ty) (x : Nat) : Nat :=
  if intBits t < 32 && WellFormed.isInt t then wrapBits 32 (intVal t x) else x

/-- vo.cvt on a source: element selection and placement (R270). -/
def cvtLane (dst frm : Ty) (rm : Rm) (sat : Bool) (sel a : Nat) : Flagged :=
  let narrow := WellFormed.narrowPerWord dst != 0
  let e := elemBits frm
  let x := if !narrow && WellFormed.narrowPerWord frm != 0 then a / 2 ^ (e * sel) % 2 ^ e else a % 2 ^ e
  let r := cvtElem dst frm rm sat x
  if narrow then (r.1 * 2 ^ (elemBits dst * sel), r.2) else (extendInt dst r.1, r.2)

/-- Element `i` of a packed word replaced (R199). -/
def putElem (t : Ty) (i v w : Nat) : Nat :=
  let e := elemBits t
  let old := w / 2 ^ (e * i) % 2 ^ e
  w - old * 2 ^ (e * i) + (v % 2 ^ e) * 2 ^ (e * i)

/-- Element `i` of a packed word. -/
def getElem (t : Ty) (i w : Nat) : Nat := w / 2 ^ (elemBits t * i) % 2 ^ elemBits t

end Sys2Proof.Machine
end

