-- ==== Sys2Proof/Machine/Memory.lean ====
section
/-! DEFINITION. Addresses and the levels of memory: translation and its checks (spec/01_address_spaces.md), the
memory-side cache and DRAM (spec/05_memory_beyond_the_core.md), home writes, core levels and cluster points with their
local transitions, drains and invalidations (spec/03_ordering_machine.md). -/

namespace Sys2Proof.Machine

/-! ### Translation (R13 to R25) -/

/-- What an access needs of its page (R24 step 5). -/
inductive Need where
  | rd | wr | both | ex
  deriving DecidableEq, Repr

/-- Where a translated byte lives: this device, the host, or a peer (R37, R39). -/
inductive Loc where
  | dev (pa : Nat)
  | host (hpa : Nat)
  | peer (dev pa : Nat)
  deriving DecidableEq, Repr

/-- A translation: the class, the place of the byte, and the page. -/
structure Trans where
  cls : Nat
  loc : Loc
  page : Nat
  pageSize : Nat
  deriving DecidableEq, Repr

inductive Chk where
  | ok (t : Trans)
  | bad (code : Nat)
  deriving DecidableEq, Repr

/-- Bits `lo` up, `n` of them, of a page-table entry. -/
def pte (e : DWord) (lo n : Nat) : Nat := e.toNat / 2 ^ lo % 2 ^ n

/-- The size of the page a leaf at a level maps (R15). -/
def leafSize : Nat → Nat
  | 0 => 0x10000
  | 1 => 0x200000
  | _ => 0x40000000

/-- The place of the index bits of a level (R15). -/
def levelShift : Nat → Nat
  | 0 => 16 | 1 => 21 | 2 => 30 | _ => 39
def levelBits : Nat → Nat
  | 0 => 5
  | _ => 9

/-- Whether a leaf at a level is malformed (R18). -/
def leafMalformed (lvl : Nat) (e : DWord) : Bool :=
  let cls := pte e 6 3
  let frame := pte e 16 36 * 0x10000
  pte e 9 7 != 0 || pte e 5 1 != 0 || ((cls != 5 && cls != 6) && pte e 52 12 != 0) || lvl == 3 ||
    frame % leafSize lvl != 0 || (pte e 3 1 == 1 && pte e 2 1 == 0) ||
    (decide (cls ≤ 4) && decide (Config.memBytes < frame + leafSize lvl))

/-- The walk from a table at a level (R15 to R18): the leaf and its level, or the cause of the failure. An invalid
entry decides before a malformed one (R24 steps 3 and 4). -/
def walk (ptab : SMap DWord) (va : Nat) : Nat → Nat → Bool → DWord × Nat ⊕ Nat
  | lvl, tab, bad =>
    match lvl with
    | 0 => atEntry 0 (entry 0 tab) bad
    | n + 1 =>
      let e := entry (n + 1) tab
      if pte e 0 1 == 1 && pte e 1 1 == 0 then
        walk ptab va n (pte e 8 44 * 256) (bad || pte e 52 12 != 0 || pte e 2 6 != 0)
      else atEntry (n + 1) e bad
where
  entry (lvl tab : Nat) : DWord := SMap.look 0 ptab (tab + 8 * (va / 2 ^ levelShift lvl % 2 ^ levelBits lvl))
  /-- An entry that is not a pointer to a further table. -/
  atEntry (lvl : Nat) (e : DWord) (bad : Bool) : DWord × Nat ⊕ Nat :=
    if pte e 0 1 == 0 then .inr 4
    else if bad || pte e 1 1 == 0 || leafMalformed lvl e then .inr 5
    else .inl (e, lvl)

/-- The window check of R37 and R39. -/
def State.window? (s : State) (ctx cls win off : Nat) (need : Need) : Option Loc :=
  if cls = 5 then
    let w := (SMap.look 0 s.window win).toNat
    let ok := w % 2 == 1 && w / 2 ^ 108 % 2 ^ 8 == ctx &&
      (need = .wr || w / 2 ^ 106 % 2 == 1) && (need = .rd || need = .ex || w / 2 ^ 107 % 2 == 1) &&
      decide (off < w / 2 ^ 80 % 2 ^ 26 * 0x10000)
    if ok then some (.host (w / 2 ^ 16 % 2 ^ 48 * 0x10000 + off)) else none
  else if cls = 6 then
    if s.routes.any fun r => r.1 == ctx && r.2.1 == win then some (.peer win off) else none
  else some (.dev off)

/-- R21: a plain store to a class 4 page that holds a byte of the tape of a group whose tape runs. -/
def State.tapeProtected (s : State) (ctx page size : Nat) : Bool :=
  s.groups.any fun p =>
    (s.team p.2.team).ctx == ctx && p.2.tapeCtl.toNat % 4 != 0 &&
      decide (max page p.2.tapeBase.toNat < min (page + size) p.2.tapeLimit.toNat)

/-- Steps 2 to 7 of R24 for an access of context `ctx` to `va`; `permits` says which classes step 6 lets pass, and
`store` that R21 applies. -/
def State.check (s : State) (ctx : Nat) (need : Need) (permits : Nat → Bool) (store : Bool) (va : Nat) : Chk :=
  if 2 ^ 48 ≤ va then .bad 5
  else
    match walk s.ptab va 3 (s.ctx ctx).root false with
    | .inr c => .bad c
    | .inl (e, lvl) =>
      let rd := pte e 2 1 == 1
      let wr := pte e 3 1 == 1
      let ex := pte e 4 1 == 1
      let ok := match need with
        | .rd => rd
        | .wr => wr
        | .both => rd && wr
        | .ex => ex
      if !ok then .bad 5
      else
        let cls := pte e 6 3
        let size := leafSize lvl
        let page := va / size * size
        if !permits cls || (store && cls == 4 && s.tapeProtected ctx page size) then .bad 6
        else
          match s.window? ctx cls (pte e 52 12) (pte e 16 36 * 0x10000 + va % size) need with
          | some l => .ok { cls := cls, loc := l, page := page, pageSize := size }
          | none => .bad 5

/-- The classes each kind of access may touch (R20). -/
def maClass (c : Nat) : Bool := c != 3 && c != 7
def mxClass (c : Nat) : Bool := c != 3 && c != 4 && c != 7
def engineClass (c : Nat) : Bool := c != 3 && c != 7
def onlyClass (k c : Nat) : Bool := c == k

/-- A location's key in a level: a device physical address, or 2^64 plus a host physical address. -/
def Loc.key : Loc → Nat
  | .dev pa => pa
  | .host h => 2 ^ 64 + h
  | .peer _ pa => 2 ^ 65 + pa

/-! ### Stacks and DRAM (R125 to R132) -/

/-- R125: the stack and the stack-local address. -/
def stackOf (pa : Nat) : Nat := (pa / 2 ^ 16 % 8) ^^^ (pa / 2 ^ 19 % 8) ^^^ (pa / 2 ^ 22 % 8)
def localOf (pa : Nat) : Nat := pa / 2 ^ 19 % 2 ^ 29 * 2 ^ 16 + pa % 2 ^ 16
/-- R126: pseudo-channel, bank and row. -/
def pchOf (l : Nat) : Nat := (l / 2 ^ 6 % 2 ^ 9) ^^^ (l / 2 ^ 15 % 2 ^ 9)
def chanLocal (l : Nat) : Nat := l / 2 ^ 15 % 2 ^ 22 * 2 ^ 6 + l % 2 ^ 6
def bankOf (l : Nat) : Nat := chanLocal l / 2 ^ 10 % 32
def rowOf (l : Nat) : Nat := chanLocal l / 2 ^ 15 % 2 ^ 13

/-- An error record (R131). -/
def errRecord (kind slot peer pa : Nat) : BitVec 128 :=
  let a := pa / 64 * 64
  let l := localOf a
  let place := if kind = 5 then 0
    else stackOf a * 2 ^ 93 + pchOf l * 2 ^ 84 + bankOf l * 2 ^ 79 + rowOf l * 2 ^ 66
  BitVec.ofNat 128 (peer % 2 ^ 12 * 2 ^ 108 + slot % 256 * 2 ^ 100 + kind * 2 ^ 96 + place + a)

/-- The least multiple of `k` that is not below `n`. -/
def roundUp (n k : Nat) : Nat := (n + k - 1) / k * k

def State.keySlot (s : State) (slot : Nat) : KeySlot := SMap.look {} s.keys slot
def State.key (s : State) (slot : Nat) : BitVec 512 := (s.keySlot slot).key
def allValid : BitVec 64 := BitVec.allOnes 64

def State.readMem (s : State) (k : Nat) : Byte :=
  if k < 2 ^ 64 then SMap.look Memory.unlisted s.mem k else SMap.look Memory.unlisted s.hostMem (k - 2 ^ 64)
def State.putMem (s : State) (k : Nat) (b : Byte) : State :=
  if k < 2 ^ 64 then { s with mem := SMap.put Memory.unlisted s.mem k b }
  else { s with hostMem := SMap.put Memory.unlisted s.hostMem (k - 2 ^ 64) b }
def State.homePoisoned (s : State) (k : Nat) : Bool := s.homePoison.contains (k / 32)
def addTo (n : Nat) (l : List Nat) : List Nat := if l.contains n then l else n :: l
/-- The context under whose key a line of device memory is: that to which an extent is assigned (R39, R42), else that into
which firmware mapped the frame last. -/
def State.ownerAt (s : State) (a : Nat) : Nat :=
  match (s.extents ++ s.owned).find? fun e => decide (e.base ≤ a ∧ a < e.base + e.len) with
  | some e => e.ctx
  | none => 0

/-- A line of the memory-side cache written back to DRAM, encrypted under its slot's key (R128, R132). -/
def State.storeDram (s : State) (line : Nat) (m : MscLine) : State :=
  { s with
    dram := SMap.ins s.dram line
      { key := s.key m.slot, data := (List.range 64).map fun i => s.readMem (64 * line + i),
        psn0 := s.homePoisoned (64 * line), psn1 := s.homePoisoned (64 * line + 32) },
    msc := SMap.ins s.msc line { m with dirty := false } }

/-- The bytes of a line that its valid mask does not cover take the values of a DRAM read (R128). -/
def State.mergeLine (s : State) (line : Nat) (valid : BitVec 64) (f : Nat → Byte) : State :=
  (List.range 64).foldl (fun (s : State) i => if valid.getLsbD i then s else s.putMem (64 * line + i) (f i)) s
/-- A sector at home is marked poisoned. -/
def State.markHome (s : State) (on : Bool) (sec : Nat) : State :=
  if on then { s with homePoison := addTo sec s.homePoison } else s
/-- What a DRAM read meets: as its operand says, or a free value (log 25). -/
def State.dramFor (s : State) (line : Nat) (dr : DramRead) : State × DramRead :=
  if dr = .free then ({ s with draws := s.draws + 1 }, Config.dramRead s.draws line) else (s, dr)
/-- What a DRAM read of a line meets: a corrected error is counted, a transient one leaves a record, a lasting one leaves
a record and poisons the line (R130). -/
def State.dramOutcome (s : State) (slot line : Nat) (dr : DramRead) : State :=
  let base := 64 * line
  let (s, dr) := s.dramFor line dr
  match dr with
  | .clean => s
  | .free => s
  | .corrected => s.modStack (stackOf base) fun x => { x with corrected := x.corrected + 1 }
  | .transient => s.postError (errRecord 1 slot 0 base)
  | .lasting => ((s.markHome true (base / 32 + 1)).markHome true (base / 32)).postError (errRecord 2 slot 0 base)

/-- What DRAM holds of a line: what was written back, or the zeros of a frame that a mapping made fresh under the key of
its context (R43); none where nothing is known to have been written (log 5). -/
def State.inDram (s : State) (line : Nat) : Option DramLine :=
  let fresh (e : Extent) : Bool := e.key.isSome && decide (e.base ≤ 64 * line ∧ 64 * line < e.base + e.len)
  match findKey s.dram line with
  | some d => some d
  | none => (s.owned.find? fresh).map fun e =>
      { key := e.key.getD 0, data := List.replicate 64 0, psn0 := false, psn1 := false }

/-- A DRAM read of a line under a key slot merged into the cache under the valid mask (R128, R130). -/
def State.fetchLine (s : State) (slot line : Nat) (dr : DramRead) : State :=
  let m := (findKey s.msc line).getD { slot := slot, dirty := false, valid := 0 }
  let base := 64 * line
  let s := match s.inDram line with
    | none => s
    | some d =>
      let s := { s with dram := SMap.ins s.dram line d }
      let k := s.key slot
      let s := s.mergeLine line m.valid fun i =>
        if d.key = k then d.data.getD i 0 else Config.wrongKeyByte d.key k line d.data i
      -- a sector with every byte valid takes nothing from DRAM (R128, R132; log 42)
      let takes (n : Nat) : Bool := m.valid.extractLsb' (32 * n) 32 != BitVec.allOnes 32
      (s.markHome (d.psn0 && takes 0) (base / 32)).markHome (d.psn1 && takes 1) (base / 32 + 1)
  ({ s with msc := SMap.ins s.msc line { m with valid := allValid } } : State).dramOutcome slot line dr

/-- A line leaves the memory-side cache without a write-back: its home bytes are again those of DRAM, or of memory that
nothing has written (R44, R157). -/
def State.loseLine (s : State) (line : Nat) : State :=
  (List.range 64).foldl (fun s i => s.putMem (64 * line + i) Memory.unlisted)
    { s with msc := SMap.erase s.msc line, homePoison := s.homePoison.filter fun k => k / 2 != line }

/-- The line of a memory-side cache leaves it: a dirty one, or one with a poisoned sector, by write-back, which merges the
DRAM line first where it is not fully valid (R128, R132). -/
def State.evictHome (s : State) (line : Nat) (m : MscLine) : State :=
  let s := if m.dirty || s.homePoisoned (64 * line) || s.homePoisoned (64 * line + 32) then
      (if m.valid = allValid then s else s.fetchLine m.slot line .free).storeDram line m
    else s
  { s with msc := SMap.erase s.msc line }

/-- The set of a line at its stack: 131,072 sets indexed by L[22:6] (R128). -/
def mscSet (line : Nat) : Nat × Nat := (stackOf (64 * line), localOf (64 * line) / 64 % 131072)
/-- Room for a line that the memory-side cache does not hold: of a full set of 16 ways a line leaves, a free one
(R128; log 29). -/
def State.roomHome (s : State) (line : Nat) : State :=
  let here := s.msc.filter fun p => mscSet p.1 == mscSet line
  if here.length < 16 then s
  else
    match here[Config.mscVictim s.draws % here.length]? with
    | some v => ({ s with draws := s.draws + 1 } : State).evictHome v.1 v.2
    | none => s
/-- The line of an access under a slot: held under another slot it leaves first, since a line is tagged with the slot
under which it was filled (R41, R128), and where it is not held there is room for it. -/
def State.seatHome (s : State) (slot line : Nat) : State :=
  match findKey s.msc line with
  | some m => if m.slot = slot then s else s.evictHome line m
  | none => s.roomHome line

/-- Whether byte `k` is valid at home under a slot. -/
def State.validAt (s : State) (slot k : Nat) : Bool :=
  match findKey s.msc (k / 64) with
  | some m => m.slot == slot && m.valid.getLsbD (k % 64)
  | none => false
/-- Byte `k` valid at home under a slot, its line read from DRAM when it is not (R128); a blocked slot reads nothing
(R44). -/
def State.fill (s : State) (slot k : Nat) (dr : DramRead) : State :=
  if 2 ^ 64 ≤ k ∨ s.validAt slot k ∨ (s.keySlot slot).blocked then s
  else (s.seatHome slot (k / 64)).fetchLine slot (k / 64) dr
/-- Whether a blocked slot keeps a byte from being filled (R44). -/
def State.unfilled (s : State) (slot k : Nat) : Bool :=
  decide (k < 2 ^ 64) && (s.keySlot slot).blocked && !s.validAt slot k
/-- A byte at home and its poison, after `fill`; poison where a blocked slot kept it from being filled (R44; log 56). -/
def State.homeByte (s : State) (slot k : Nat) : Byte × Bool :=
  if s.unfilled slot k then (Config.blockedByte slot k, true) else (s.readMem k, s.homePoisoned k)

/-- A byte written at home: the line is allocated without a DRAM read and its valid bit set (R128); under a blocked slot
it is discarded (R44, R45). -/
def State.homePut (s : State) (slot k : Nat) (b : Byte) : State :=
  if 2 ^ 64 ≤ k then s.putMem k b
  else if (s.keySlot slot).blocked then s
  else
    let line := k / 64
    let s := (s.seatHome slot line).putMem k b
    let m := (findKey s.msc line).getD { slot := slot, dirty := false, valid := 0 }
    { s with msc := SMap.ins s.msc line { m with dirty := true, valid := m.valid ||| BitVec.twoPow 64 (k % 64) } }

/-- The distinct members of a list, in order of first appearance. -/
def distinct (l : List Nat) : List Nat := (l.foldl (fun acc a => if acc.contains a then acc else a :: acc) []).reverse

/-! ### Levels (R82, R88, R89) -/

/-- The key of a context's byte in a core level: its place, with the context number that tags its line (R59). -/
def tagged (ctx k : Nat) : Nat := ctx * 2 ^ 66 + k
/-- The place of a byte, or the line number of a line, in a core level without the context number. -/
def untagged (k : Nat) : Nat := k % 2 ^ 66
def untaggedLine (line : Nat) : Nat := line % 2 ^ 60
def Level.find (lv : Level) (k : Nat) : Option LByte := findKey lv.bytes k
/-- R411: a byte of a level is poisoned when its sector is marked and it is not dirty. -/
def Level.poisoned (lv : Level) (k : Nat) : Bool :=
  lv.poison.contains (k / 32) && match lv.find k with
    | some b => !b.dirty
    | none => false
def Level.put (lv : Level) (k : Nat) (b : LByte) : Level := { lv with bytes := SMap.ins lv.bytes k b }
/-- A line becomes absent. -/
def Level.drop (lv : Level) (line : Nat) : Level :=
  { lv with bytes := lv.bytes.filter fun p => p.1 / 64 != line, valid := lv.valid.filter fun n => n / 2 != line,
            poison := lv.poison.filter fun n => n / 2 != line, ways := SMap.erase lv.ways line }
/-- One byte becomes absent. -/
def Level.dropByte (lv : Level) (k : Nat) : Level := { lv with bytes := SMap.erase lv.bytes k }
/-- One byte becomes absent in a core level: its sector is valid no more, and keeps its dirty bytes (R59, R90; log 57). -/
def Level.loseByte (lv : Level) (k : Nat) : Level :=
  { lv with bytes := lv.bytes.filter fun p => p.1 != k && (p.1 / 32 != k / 32 || p.2.dirty),
            valid := lv.valid.filter fun n => n != k / 32 }
/-- Whether a core level serves a byte: it is dirty, or in a valid sector (R61). -/
def Level.serves (lv : Level) (k : Nat) : Option LByte :=
  (lv.find k).filter fun b => b.dirty || lv.valid.contains (k / 32)
def Level.lineBytes (lv : Level) (line : Nat) : List (Nat × LByte) := lv.bytes.filter fun p => p.1 / 64 == line
def Level.dirtyBytes (lv : Level) (line : Nat) : List (Nat × LByte) := (lv.lineBytes line).filter (·.2.dirty)
/-- Whether a write covers every byte of a sector. -/
def coversSector (ks : List Nat) (sec : Nat) : Bool := (List.range 32).all fun i => ks.contains (32 * sec + i)
/-- A write of bytes into a level as dirty; a write of a whole sector clears its mark (R411). -/
def Level.write (lv : Level) (ws : List (Nat × LByte)) : Level :=
  let lv' := ws.foldl (fun l p => l.put p.1 { p.2 with dirty := true }) lv
  { lv' with poison := lv'.poison.filter fun n => !coversSector (ws.map (·.1)) n }

/-- A clean byte placed in a level, whose sector is marked when it was marked where the byte came from (R411). -/
def Level.place (lv : Level) (k : Nat) (b : LByte) (marked : Bool) : Level :=
  { (lv.put k b) with poison := if marked then addTo (k / 32) lv.poison else lv.poison }
/-- A clean byte merged into a core level: a dirty byte keeps its value, and its sector is marked all the same (R61,
R411). -/
def Level.merge (lv : Level) (k : Nat) (b : LByte) (marked : Bool) : Level :=
  if (lv.find k).any (·.dirty) then { lv with poison := if marked then addTo (k / 32) lv.poison else lv.poison }
  else lv.place k b marked
/-- Whether a cluster point holds a byte of a line for another context. -/
def Level.foreign (lv : Level) (ctx line : Nat) : Bool := (lv.lineBytes line).any fun p => p.2.ctx != ctx

/-! ### The ways of L1 (R59, R64) -/

/-- The set of a line in L1: address bits [13:6] (R59). -/
def l1Set (line : Nat) : Nat := line % 256
/-- The node of a 16-way tree above way `w` at depth `d`, numbered from 1 as a heap. -/
def treeNode (w d : Nat) : Nat := 2 ^ d + w / 2 ^ (4 - d)
/-- The tree after an access to way `w`: each node above it points to its other half (log 58). -/
def treeTouch (t : BitVec 15) (w : Nat) : BitVec 15 :=
  (List.range 4).foldl (fun t d =>
    let bit := BitVec.twoPow 15 (treeNode w d - 1)
    if w / 2 ^ (3 - d) % 2 = 0 then t ||| bit else t &&& ~~~bit) t
/-- The way that a tree points to. -/
def treeVictim (t : BitVec 15) : Nat :=
  (List.range 4).foldl (fun n _ => 2 * n + (if t.getLsbD (n - 1) then 1 else 0)) 1 - 16
/-- An access to a line that the level holds. -/
def Level.touch (lv : Level) (line : Nat) : Level :=
  match findKey lv.ways line with
  | some w => { lv with tree := SMap.put 0 lv.tree (l1Set line) (treeTouch (SMap.look 0 lv.tree (l1Set line)) w) }
  | none => lv
/-- The way for a line that the level does not hold, the lowest free one or else the tree's, and the line that has it. -/
def Level.wayFor (lv : Level) (line : Nat) : Nat × Option Nat :=
  let here := lv.ways.filter fun p => l1Set p.1 == l1Set line
  match (List.range 16).find? fun w => !(here.any fun p => p.2 == w) with
  | some w => (w, none)
  | none =>
    let w := treeVictim (SMap.look 0 lv.tree (l1Set line))
    (w, (here.find? fun p => p.2 == w).map (·.1))

/-- Whether the cluster has a cache (R70). -/
def Cluster.cached (c : Cluster) : Bool := (List.range 64).any fun i => (c.bank i).mode == 1
def State.present (s : State) (line c : Nat) : Bool := (SMap.look 0 s.presence line).getLsbD c
def State.setPresent (s : State) (line c : Nat) : State :=
  { s with presence := SMap.put 0 s.presence line (SMap.look 0 s.presence line ||| BitVec.twoPow 16 c) }
def State.clearPresent (s : State) (line c : Nat) : State :=
  { s with presence := SMap.put 0 s.presence line (SMap.look 0 s.presence line &&& ~~~(BitVec.twoPow 16 c)) }

/-- A line leaves a cluster cache, with its place in the order of replacement. -/
def Cluster.dropLine (x : Cluster) (line : Nat) : Cluster :=
  { x with level := x.level.drop line, lines := SMap.erase x.lines line,
           newest := x.newest.filter fun p => p.2 != line, nextOut := x.nextOut.filter fun p => p.2 != line }
def State.dropClusterLine (s : State) (c line : Nat) : State := s.modCluster c fun x => x.dropLine line

/-- The dirty bytes of lines in the clusters but `frm` whose presence bit is set, in ascending cluster order
(R79, R89). -/
def State.recalled (s : State) (frm : Option Nat) (lines : List Nat) : List (Nat × LByte) :=
  lines.flatMap fun line => (List.range 16).flatMap fun c =>
    if some c ≠ frm ∧ s.present line c = true then (s.cluster c).level.dirtyBytes line else []
/-- R89 step 1: the recalled bytes are applied at home in ascending cluster order, so that of two clusters' dirty values
of one byte the higher-numbered cluster's stands (log 59), and the lines become absent in those clusters. -/
def State.recall (s : State) (frm : Option Nat) (lines : List Nat) : State :=
  lines.foldl (fun s line =>
    (List.range 16).foldl (fun s c =>
      if some c ≠ frm ∧ s.present line c = true then
        let s := ((s.cluster c).level.dirtyBytes line).foldl (fun s p => s.homePut p.2.ctx p.1 p.2.val) s
        (s.dropClusterLine c line).clearPresent line c
      else s) s) s
/-- R89 step 2, after a recall that applied the bytes `ks`: the incoming bytes are applied; a sector that the two cover
whole loses its poison (R132). -/
def State.applyHome (s : State) (slot : Nat) (ks : List Nat) (ws : List (Nat × Byte)) : State :=
  let s := ws.foldl (fun s p => s.homePut slot p.1 p.2) s
  { s with homePoison := s.homePoison.filter fun n => !coversSector (ks ++ ws.map (·.1)) n }
/-- The distinct lines of some bytes. -/
def linesOf (ks : List Nat) : List Nat := distinct (ks.map (· / 64))
/-- R89: a home write of bytes, from cluster `frm` when it is a cluster write-down: every other cluster's copy is recalled
first. -/
def State.homeWrite (s : State) (slot : Nat) (frm : Option Nat) (ws : List (Nat × Byte)) : State :=
  let lines := linesOf (ws.map (·.1))
  (s.recall frm lines).applyHome slot ((s.recalled frm lines).map (·.1)) ws

/-- Steps 1 of R89 and R112 for the bytes `ks` at home, before they are read: every cluster's copy of their lines is
applied there; answers the bytes applied. -/
def State.recallBytes (s : State) (ctx : Nat) (ks : List Nat) : State × List Nat :=
  let back := (s.recalled none (linesOf ks)).map (·.1)
  ((s.recall none (linesOf ks)).applyHome ctx back [], back)

/-- The line of cluster `c` goes to its home point and becomes absent (R88, cluster write-down). -/
def State.clusterDown (s : State) (c line : Nat) : State :=
  let d := (s.cluster c).level.dirtyBytes line
  let s := s.homeWrite ((d.head?.map fun p => p.2.ctx).getD 0) (some c) (d.map fun p => (p.1, p.2.val))
  s.dropClusterLine c line
/-- Of a line that the cluster point holds for another context nothing is left there: its dirty bytes go home first
(R59, R43; log 60). -/
def State.ownCluster (s : State) (c ctx line : Nat) : State :=
  if (s.cluster c).level.foreign ctx line then s.clusterDown c line else s

/-- The set of a line in the cluster cache: a bank holds 4,096 lines, one of each set (R69), and the line's low bits
choose the set (log 9). -/
def setOf (line : Nat) : Nat := line % 4096
/-- The banks in CACHE mode of one partition. -/
def Cluster.ways (x : Cluster) (pinned : Bool) : List Nat :=
  (List.range 64).filter fun i => (x.bank i).mode == 1 && !(x.bank i).busy && ((x.bank i).ctl.getLsbD 3) == pinned
/-- The line of a set that a bank holds. -/
def Cluster.inWay (x : Cluster) (set bank : Nat) : Option (Nat × LineMeta) :=
  x.lines.find? fun p => setOf p.1 == set && p.2.bank == bank

/-- R73: an unpinned line whose counter has changed to `c` may move into the pinned partition. -/
def Cluster.promote (x : Cluster) (line : Nat) : Cluster :=
  match findKey x.lines line with
  | none => x
  | some m =>
    let th := x.pincfg.toNat % 16
    if ((x.bank m.bank).ctl.getLsbD 3) || th == 0 || decide (m.count < th) then x
    else
      let ws := x.ways true
      match ws.find? fun b => (x.inWay (setOf line) b).isNone with
      | some b => { x with lines := SMap.ins x.lines line { m with bank := b } }
      | none =>
        let olds := ws.filterMap fun b => x.inWay (setOf line) b
        match olds with
        | [] => x
        | o :: rest =>
          let v := rest.foldl (fun a b => if b.2.count < a.2.count then b else a) o
          if v.2.count < m.count then
            { x with lines := SMap.ins (SMap.ins x.lines line { m with bank := v.2.bank }) v.1 { v.2 with bank := m.bank } }
          else x

/-- R72: one access of the cluster cache is counted. -/
def Cluster.tick (x : Cluster) : Cluster := { x with accesses := x.accesses + 1 }

/-- R72: the counter of a line on a hit under a reuse class; a changed one may promote the line (R73). -/
def Cluster.hit (x : Cluster) (line rc : Nat) : Cluster :=
  match findKey x.lines line with
  | none => x.tick
  | some m =>
    let c := min 15 (m.count + (match rc with | 0 => 1 | 1 => 0 | 2 => 2 | _ => 4))
    let y := { x with lines := SMap.ins x.lines line { m with count := c } }
    (if c = m.count then y else y.promote line).tick

/-- R72: a request of class `rc` is counted once for each of its lines that reaches the cluster cache, as a hit where the
cache held the line when the request came (`old`). -/
def State.countLines (s : State) (c : Nat) (old : Cluster) (rc : Nat) (lines : List Nat) : State :=
  if lines.isEmpty then s
  else s.modCluster c fun x => lines.foldl (fun x l => if SMap.has old.lines l then x.hit l rc else x.tick) x

/-- A line filled into a bank, with its counter and its fill position (R72). -/
def Cluster.fillWay (x : Cluster) (line bank rc : Nat) : Cluster :=
  let set := setOf line
  let y := { x with lines := SMap.ins x.lines line { bank := bank, count := if rc = 3 then 4 else 0 } }
  (if rc = 1 then
    { y with nextOut := SMap.ins y.nextOut set line, newest := if findKey y.newest set = some line then SMap.erase y.newest set
                                                               else y.newest }
  else { y with newest := SMap.ins y.newest set line, nextOut := y.nextOut.filter fun p => p.2 != line }).promote line
/-- The bank of the line that leaves a set with no free unpinned way among `ws`: the next victim's; else a free one, not
that of the line filled most recently (R72; log 9). -/
def Cluster.victim (x : Cluster) (set : Nat) (ws : List Nat) (n : Nat) : Nat :=
  let bankOfLine (l : Option Nat) : Option Nat := l.bind fun l => (findKey x.lines l).map (·.bank)
  match bankOfLine (findKey x.nextOut set) with
  | some b => if ws.contains b then b else pick (bankOfLine (findKey x.newest set))
  | none => pick (bankOfLine (findKey x.newest set))
where
  pick (keep : Option Nat) : Nat :=
    let us := ws.filter fun b => keep != some b
    let vs := if us.isEmpty then ws else us
    vs.getD (n % vs.length) 0

/-- A way for a line that the cluster cache does not hold (R72, R73): a free unpinned way, or a victim written down.
Answers whether the line now has a way: it gets none when no bank in CACHE mode is unpinned, or none that is not draining,
and its bytes then go to or come from home as without a cache (log 61). -/
def State.allocLine (s : State) (c line rc : Nat) : State × Bool :=
  let x := s.cluster c
  if SMap.has x.lines line then (s, true)
  else
    let ws := x.ways false
    if ws.isEmpty then (s, false)
    else
      match ws.find? fun b => (x.inWay (setOf line) b).isNone with
      | some b => (s.modCluster c fun y => y.fillWay line b rc, true)
      | none =>
        let b := x.victim (setOf line) ws (Config.victimWay s.draws)
        let s := { s with draws := s.draws + 1 }
        let s := match x.inWay (setOf line) b with
          | some v => s.clusterDown c v.1
          | none => s
        (s.modCluster c fun y => y.fillWay line b rc, true)

/-- Dirty bytes written from a core level into its cluster point, or home when it cannot hold them (R88, R79). -/
def State.writeCluster (s : State) (c : Nat) (ws : List (Nat × LByte)) : State :=
  (linesOf (ws.map (·.1))).foldl (fun s line =>
    let here := ws.filter fun p => p.1 / 64 == line
    let ctx := (here.head?.map fun p => p.2.ctx).getD 0
    let (s, ok) := (s.ownCluster c ctx line).allocLine c line 0
    if ok then
      (s.modCluster c fun x => { x with level := x.level.write here }).setPresent line c
    else s.homeWrite ctx none (here.map fun p => (p.1, p.2.val))) s

/-- Dirty bytes written from a core level into its cluster point, a request that the cluster cache counts (R62, R72). -/
def State.pushCluster (s : State) (c : Nat) (d : List (Nat × LByte)) : State :=
  (s.writeCluster c d).countLines c (s.cluster c) 0 (linesOf (d.map (·.1)))
/-- R88, core write-down: the dirty bytes of a line, tagged with its context, go to the cluster point and the line becomes
absent. -/
def State.coreDown (s : State) (k line : Nat) : State :=
  let d := (s.core k).level.dirtyBytes line
  (s.pushCluster (clusterOf k) (d.map fun p => (untagged p.1, p.2))).modCore k fun x =>
    { x with level := x.level.drop line }
/-- A line, tagged with its context, has a way in a core's L1, and has been accessed; of a full set the line that the tree
points to leaves (R62, R64). -/
def State.seatCore (s : State) (core line : Nat) : State :=
  let lv := (s.core core).level
  let s := if SMap.has lv.ways line then s
    else
      let (w, old) := lv.wayFor line
      let s := match old with
        | some l => s.coreDown core l
        | none => s
      s.modCore core fun x => { x with level := { x.level with ways := SMap.ins x.level.ways line w } }
  s.modCore core fun x => { x with level := x.level.touch line }

/-- One byte as a core reads it from below its core level: from the cluster point, else from home, where a fill places
it in the cluster point (R88). Answers value, poison, and whether its sector is marked there (R411). -/
def State.readBelow (s : State) (c : Nat) (k va ctx rc : Nat) (dr : DramRead) : State × Byte × Bool × Bool :=
  let s := s.ownCluster c ctx (k / 64)
  let lv := (s.cluster c).level
  match lv.find k with
  | some b => (s, b.val, lv.poisoned k, lv.poison.contains (k / 32))
  | none =>
    let s := s.fill ctx k dr
    let (v, p) := s.homeByte ctx k
    let (s, ok) := s.allocLine c (k / 64) rc
    let s := if ok then
      (s.modCluster c fun x =>
        { x with level := x.level.place k { val := v, va := va, ctx := ctx, dirty := false } p }).setPresent (k / 64) c
      else s
    (s, v, p, p || s.homePoisoned k)

/-- A byte read from below and placed in the core level, unless it is dirty there: a dirty byte keeps its value (R61). -/
def State.fetchByte (s : State) (core : Nat) (k va ctx rc : Nat) (dr : DramRead) : State :=
  let (s, v, _, m) := s.readBelow (clusterOf core) k va ctx rc dr
  s.modCore core fun x => { x with level := x.level.merge (tagged ctx k) { val := v, va := va, ctx := ctx, dirty := false } m }
/-- The sector of a byte fetched from below, merged under the dirty bytes, and marked valid (R61). -/
def State.fetchSector (s : State) (core : Nat) (k va ctx rc : Nat) (dr : DramRead) : State :=
  let s := (List.range 32).foldl (fun s i => s.fetchByte core (k / 32 * 32 + i) (va / 32 * 32 + i) ctx rc dr)
    (s.seatCore core (tagged ctx k / 64))
  s.modCore core fun x => { x with level := { x.level with valid := addTo (tagged ctx k / 32) x.level.valid } }

/-- R61, R88, load: one byte from the core level, where it is dirty or its sector valid; else its sector is fetched from
below and the byte taken from it. A class rc1 request that misses takes the byte from below and places nothing in the core
level (R64). -/
def State.loadByte (s : State) (core : Nat) (k va ctx rc : Nat) (dr : DramRead) : State × Byte × Bool :=
  let j := tagged ctx k
  match (s.core core).level.serves j with
  | some b =>
    (s.modCore core fun x => { x with level := x.level.touch (j / 64) }, b.val, (s.core core).level.poisoned j)
  | none =>
    if rc = 1 then
      let (s, v, p, _) := s.readBelow (clusterOf core) k va ctx rc dr
      (s, v, p)
    else
      let s := s.fetchSector core k va ctx rc dr
      (s, (((s.core core).level.find j).map (·.val)).getD 0, (s.core core).level.poisoned j)

/-- The value at home of a byte, for an uncached access or an engine (R84, R99). -/
def State.readHome (s : State) (slot k : Nat) (dr : DramRead) : State × Byte × Bool :=
  let s := s.fill slot k dr
  (s, s.homeByte slot k)

/-- A byte as an engine of a cluster reads it: the cluster point if it holds the byte, else home (R99). -/
def State.readEngine (s : State) (c : Option Nat) (slot k : Nat) (dr : DramRead) : State × Byte × Bool :=
  match c with
  | some c =>
    let s := s.ownCluster c slot (k / 64)
    match (s.cluster c).level.find k with
    | some b => (s, b.val, (s.cluster c).level.poisoned k)
    | none => s.readHome slot k dr
  | none => s.readHome slot k dr

/-! ### Affected sets, drains and invalidations (R93 to R97) -/

/-- Whether an address lies in a binding entry's region. -/
def Bind.covers (b : Bind) (va : Nat) : Bool := decide (64 * b.base ≤ va ∧ va < 64 * (b.base + b.lines))
/-- Whether `va` lies in the affected set of an object, or of none (R96). -/
def Ctx.affected (c : Ctx) (obj : Option Nat) (va : Nat) : Bool :=
  let es : List Bind := match obj with
    | some o => c.binds.filter fun (b : Bind) => b.obj == o / 8
    | none => []
  if es.isEmpty then !c.binds.any (·.covers va) else es.any (·.covers va)
/-- The union over the objects of an access (R297). -/
def Ctx.affectedAny (c : Ctx) (objs : List (Option Nat)) (va : Nat) : Bool := objs.any fun o => c.affected o va

/-- The lines of a level that hold a byte of the affected set, dirty ones only when asked. -/
def State.affectedLines (s : State) (lv : Level) (ctx : Nat) (objs : List (Option Nat)) (dirtyOnly : Bool) : List Nat :=
  distinct ((lv.bytes.filter fun p =>
    p.2.ctx == ctx && (p.2.dirty || !dirtyOnly) && (s.ctx ctx).affectedAny objs p.2.va).map fun p => p.1 / 64)

def State.drainCore (s : State) (core ctx : Nat) (objs : List (Option Nat)) : State :=
  (s.affectedLines (s.core core).level ctx objs true).foldl (fun s l => s.coreDown core l) s
def State.drainCluster (s : State) (c ctx : Nat) (objs : List (Option Nat)) : State :=
  (s.affectedLines (s.cluster c).level ctx objs true).foldl (fun s l => s.clusterDown c l) s
/-- R94: every line of the core level holding a byte of the set is written down and becomes absent. -/
def State.invalidateCore (s : State) (core ctx : Nat) (objs : List (Option Nat)) : State :=
  (s.affectedLines (s.core core).level ctx objs false).foldl (fun s l => s.coreDown core l) s

/-- The point of a scope (R91). -/
inductive Point where
  | core | cluster | home
  deriving DecidableEq, Repr

def pointOf (place : Placement) : Scope → Point
  | .none => .core
  | .grp => .core
  | .team => match place with
    | .core _ => .core
    | .pair _ => .cluster
  | .clus => .cluster
  | .dev => .home
  | .sys => .home

/-- The drain of a release at a scope (R91, R93). -/
def State.drain (s : State) (core ctx : Nat) (place : Placement) (sc : Scope) (objs : List (Option Nat)) : State :=
  match pointOf place sc with
  | .core => s
  | .cluster => s.drainCore core ctx objs
  | .home => (s.drainCore core ctx objs).drainCluster (clusterOf core) ctx objs
/-- The invalidation of an acquire at a scope (R91, R94). -/
def State.invalidate (s : State) (core ctx : Nat) (place : Placement) (sc : Scope) (objs : List (Option Nat)) : State :=
  match pointOf place sc with
  | .core => s
  | _ => s.invalidateCore core ctx objs

/-- R90 step 1 for the bytes `ks` of a context's access at a point below the core level: those dirty in the core level go
to the cluster point and, for the home point, those dirty there go home. -/
def State.pushDown (s : State) (core : Nat) (p : Point) (ctx : Nat) (ks : List Nat) : State :=
  let c := clusterOf core
  let s := if p = .core then s
    else
      let d := ks.filterMap fun k =>
        ((s.core core).level.find (tagged ctx k)).bind fun b => if b.dirty then some (k, b) else none
      (s.pushCluster c d).modCore core fun x =>
        { x with level := d.foldl (fun lv q => lv.loseByte (tagged ctx q.1)) x.level }
  if p = .home then
    let s := (linesOf ks).foldl (fun s l => s.ownCluster c ctx l) s
    let d := ks.filterMap fun k => ((s.cluster c).level.find k).bind fun b => if b.dirty then some (k, b) else none
    if d.isEmpty then s
    else (s.homeWrite ctx (some c) (d.map fun q => (q.1, q.2.val))).modCluster c fun x =>
      { x with level := d.foldl (fun lv q => lv.dropByte q.1) x.level }
  else s

/-- The lines of the bytes `ks` that a context's access at a point asks the cluster cache for. -/
def State.reach (s : State) (core ctx : Nat) (p : Point) (ks : List Nat) : List Nat :=
  match p with
  | .core => distinct ((ks.filter fun k => ((s.core core).level.serves (tagged ctx k)).isNone).map (· / 64))
  | .cluster => distinct (ks.map (· / 64))
  | .home => []
/-- The value of a byte at a point (R90 step 2), and its poison. -/
def State.readPoint (s : State) (core : Nat) (p : Point) (k va ctx rc : Nat) (dr : DramRead) : State × Byte × Bool :=
  match p with
  | .core => s.loadByte core k va ctx rc dr
  | .cluster =>
    let (s, v, q, _) := s.readBelow (clusterOf core) k va ctx rc dr
    (s, v, q)
  | .home => s.readHome ctx k dr
/-- Bytes that become dirty in a core level, each line of their context with a way there (R60, R88). -/
def State.writeCore (s : State) (core ctx : Nat) (lb : List (Nat × LByte)) : State :=
  let ws := lb.map fun p => (tagged ctx p.1, p.2)
  let s := (linesOf (ws.map (·.1))).foldl (fun s l => s.seatCore core l) s
  s.modCore core fun x => { x with level := x.level.write ws }
/-- A write of bytes at a point: dirty at a level, a home write at home (R90); `ks` are the bytes that a recall of the
same step has applied at home (R112). -/
def State.writePoint (s : State) (core : Nat) (p : Point) (ctx : Nat) (ks : List Nat) (ws : List (Nat × Nat × Byte)) :
    State :=
  let lb := ws.map fun w => (w.1, ({ val := w.2.2, va := w.2.1, ctx := ctx, dirty := true } : LByte))
  match p with
  | .core => s.writeCore core ctx lb
  | .cluster => s.writeCluster (clusterOf core) lb
  | .home =>
    let lines := linesOf (ws.map (·.1))
    (s.recall none lines).applyHome ctx (ks ++ (s.recalled none lines).map (·.1)) (ws.map fun w => (w.1, w.2.2))

/-- Whether a context's access would read a byte poisoned at a point now, as far as the levels and home show it. -/
def State.poisonAt (s : State) (core ctx : Nat) (p : Point) (k : Nat) : Bool :=
  let home : Bool := s.homePoisoned k
  let below : Bool := match (s.cluster (clusterOf core)).level.find k with
    | some _ => (s.cluster (clusterOf core)).level.poisoned k
    | none => home
  match p with
  | .core => (match (s.core core).level.serves (tagged ctx k) with
    | some _ => (s.core core).level.poisoned (tagged ctx k)
    | none => below)
  | .cluster => below
  | .home => home

/-! ### Bytes and scratch -/

/-- Little-endian bytes of a number (R3), and the number of bytes. -/
def leBytes (n : Nat) (v : Nat) : List Byte := (List.range n).map fun i => BitVec.ofNat 8 (v / 2 ^ (8 * i))
def ofLE : List Byte → Nat
  | [] => 0
  | b :: t => b.toNat + 256 * ofLE t

def Alloc.read (a : Alloc) (o n : Nat) : List Byte := (List.range n).map fun i => SMap.look 0 a.bytes (o + i)
/-- A write at the bank: a whole sector clears its poison bit (R319). -/
def Alloc.write (a : Alloc) (o : Nat) (bs : List Byte) : Alloc :=
  { a with bytes := (bs.zipIdx).foldl (fun m p => SMap.put 0 m (o + p.2) p.1) a.bytes,
           poison := a.poison.filter fun n => !(decide (o ≤ 32 * n) && decide (32 * n + 32 ≤ o + bs.length)) }
def Alloc.poisonedAt (a : Alloc) (o : Nat) : Bool := a.poison.contains (o / 32)
def State.scratchOf (s : State) (t : Nat) : Alloc := s.alloc (s.team t).alloc
def State.modScratch (s : State) (t : Nat) (f : Alloc → Alloc) : State := s.modAlloc (s.team t).alloc f

end Sys2Proof.Machine
end

