-- ==== Sys2Proof/Machine/Tape.lean ====
section
/-! DEFINITION. The tape engine (spec/14_instr_gossip_tape_system.md R349 to R354, R357 to R359, R363): the stream of a
home group, appends and reads, and the store hash. -/

namespace Sys2Proof.Machine

/-- TAPECTL fields (R350). -/
def Group.tapeMode (x : Group) : Nat := x.tapeCtl.toNat % 4
def Group.tapeHashing (x : Group) : Bool := x.tapeCtl.getLsbD 4
def Group.tapeErr (x : Group) : Bool := x.tapeCtl.getLsbD 5
def Group.tapeRes (x : Group) : Nat := x.tapeCtl.toNat / 2 ^ 16 % 2 ^ 7
def Group.setRes (x : Group) (n : Nat) : Group :=
  { x with tapeCtl := (x.tapeCtl &&& 0xFF80FFFF#32) ||| BitVec.ofNat 32 (n % 128 * 2 ^ 16) }
def Group.setErr (x : Group) : Group := { x with tapeCtl := x.tapeCtl ||| 0x20#32 }

/-- Where a tape access of home group `g` goes: class 4 (R363). -/
def State.tapeAt (s : State) (g : Nat) (need : Need) (va : Nat) : Chk :=
  s.check (s.groupCtx g) need (onlyClass 4) false va

/-- Bytes of the tape, read at home; the place and cause of the first failure otherwise. -/
def State.tapeRead (s : State) (g : Nat) (va : Nat) : Nat → State × (List Byte ⊕ (Nat × Nat))
  | 0 => (s, .inl [])
  | n + 1 =>
    match s.tapeAt g .rd va with
    | .bad c => (s, .inr (va, c))
    | .ok t =>
      let (s, b, _) := s.readHome (s.groupCtx g) t.loc.key .free
      match State.tapeRead s g (va + 1) n with
      | (s, .inl bs) => (s, .inl (b :: bs))
      | r => r

/-- The bytes of tape units (R351). -/
def unitBytes (us : List Nat) : List Byte := us.flatMap (leBytes 2)
/-- The header unit of an entry (R351). -/
def tapeHeader (kind count run : Nat) : Nat := kind * 2 ^ 12 + count * 2 ^ 6 + run
def maskUnits (m : LaneMask) : List Nat := (List.range 6).map fun i => (m.extractLsb' (16 * i) 16).toNat

/-- R354 step 1: whether an append of `len` bytes fits. -/
def Group.tapeFits (x : Group) (len : Nat) : Bool :=
  decide (x.tapePos.toNat + len + 16 * x.tapeRes + 2 ≤ x.tapeLimit.toNat)

/-- R354 step 2: the entry and an end unit after it, and TAPEPOS at the end unit. -/
def Group.append (x : Group) (us : List Nat) : Group :=
  { x with tapeQ := x.tapeQ ++ [.write x.tapePos.toNat (unitBytes (us ++ [0]))],
           tapePos := x.tapePos + BitVec.ofNat 64 (2 * us.length) }

/-- A BRD entry (R353). -/
def brdUnits (m : LaneMask) : List Nat := tapeHeader 2 0 0 :: (maskUnits m ++ [8])
/-- A MARK entry (R353). -/
def markUnits (label : Word) (hash : DWord) : List Nat :=
  tapeHeader 3 0 0 :: ((List.range 2).map fun i => (label.extractLsb' (16 * i) 16).toNat) ++
    ((List.range 4).map fun i => (hash.extractLsb' (16 * i) 16).toNat) ++ [8]

/-- The length of the run of values equal to `v` at the head of a list. -/
def runOf (v : Nat) : List Nat → Nat
  | [] => 0
  | a :: t => if a = v then 1 + runOf v t else 0

/-- The values a LIT takes: the first, and each that is not 0 and not followed by an equal one (R352). -/
def litTail : List Nat → List Nat
  | [] => []
  | [a] => if a = 0 then [] else [a]
  | a :: b :: t => if a = 0 ∨ a = b then [] else a :: litTail (b :: t)

/-- The tokens of one beat's values (R352); `k` bounds the tokens. -/
def beatTokens : Nat → List Nat → List Nat
  | 0, _ => []
  | _ + 1, [] => []
  | k + 1, v :: t =>
    let word (x : Nat) : List Nat := [x % 2 ^ 16, x / 2 ^ 16]
    if v = 0 then
      let n := runOf 0 (v :: t)
      tapeHeader 5 0 n :: beatTokens k ((v :: t).drop n)
    else if t.head? = some v then
      let n := runOf v (v :: t)
      tapeHeader 6 1 n :: (word v ++ beatTokens k ((v :: t).drop n))
    else
      let vs := v :: litTail t
      tapeHeader 4 vs.length 0 :: (vs.flatMap word ++ beatTokens k ((v :: t).drop vs.length))

/-- The values of the active lanes of one beat. -/
def beatVals (m : LaneMask) (beat : Nat) (f : Nat → Nat) : List Nat :=
  ((List.range 32).map (32 * beat + ·)).filterMap fun l => if m.getLsbD l then some (f l) else none

/-- A REC entry (R352) of registers `r` to `r + n - 1`. -/
def recUnits (r n : Nat) (m : LaneMask) (f : Nat → Nat → Nat) : List Nat :=
  let body := tapeHeader 1 n 0 :: r :: (maskUnits m ++ ((List.range n).flatMap fun k =>
    (List.range 3).flatMap fun b => beatTokens 33 (beatVals m b (f (r + k)))))
  body ++ [body.length + 1]

/-- A unit of a byte string. -/
def unitAt (bs : List Byte) (i : Nat) : Nat := (bs.getD (2 * i) 0).toNat + 256 * (bs.getD (2 * i + 1) 0).toNat
def wordAt (bs : List Byte) (i : Nat) : Nat := unitAt bs i + 2 ^ 16 * unitAt bs (i + 1)

/-- The values of a token stream at unit `i`: `n` of them, and the unit after the last token. -/
def untoken (bs : List Byte) : Nat → Nat → Nat → List Nat × Nat
  | 0, i, _ => ([], i)
  | k + 1, i, n =>
    if n = 0 then ([], i)
    else
      let h := unitAt bs i
      let kind := h / 2 ^ 12
      let (vs, j) : List Nat × Nat :=
        if kind = 5 then (List.replicate (h % 64) 0, i + 1)
        else if kind = 6 then (List.replicate (h % 64) (wordAt bs (i + 1)), i + 3)
        else ((List.range (h / 2 ^ 6 % 64)).map fun q => wordAt bs (i + 1 + 2 * q), i + 1 + 2 * (h / 2 ^ 6 % 64))
      let (ws, e) := untoken bs k j (n - vs.length)
      (vs ++ ws, e)

/-- The values of a REC entry by register and beat, in order (R357). -/
def recValues (bs : List Byte) (m : LaneMask) (n : Nat) : List (List Nat) :=
  ((List.range (3 * n)).foldl (fun (acc : List (List Nat) × Nat) q =>
    let (vs, e) := untoken bs 33 acc.2 (beatVals m (q % 3) id).length
    (acc.1 ++ [vs], e)) ([], 8)).1

/-- The mask of a REC or BRD entry whose bytes are `bs`; `i` is the unit of its first bit. -/
def maskAt (bs : List Byte) (i : Nat) : LaneMask :=
  BitVec.ofNat 96 ((List.range 6).foldr (fun k acc => unitAt bs (i + k) + 2 ^ 16 * acc) 0)

/-- The last entry of a tape: its address and bytes, or the trap address of a failure (R357); none while the tape
cannot be read. -/
inductive LastEntry where
  | entry (addr : Nat) (bs : List Byte)
  | diverge (addr : Nat)
  | fault (code : Nat) (va : Nat)

def State.lastEntry (s : State) (g : Nat) : State × LastEntry :=
  let x := s.group g
  let pos := x.tapePos.toNat
  if x.tapeErr || decide (pos ≤ x.tapeBase.toNat) then (s, .diverge pos)
  else
    match s.tapeRead g (pos - 2) 2 with
    | (s, .inr (va, c)) => (s, .fault c va)
    | (s, .inl t) =>
      let len := unitAt t 0
      let a := (x.tapePos - BitVec.ofNat 64 (2 * len)).toNat
      if pos < 2 * len ∨ a < x.tapeBase.toNat ∨ len < 8 then (s, .diverge a)
      else
        match s.tapeRead g a (2 * len) with
        | (s, .inr (va, c)) => (s, .fault c va)
        | (s, .inl bs) => (s, .entry a bs)

/-- A failed tape access (R27, R363): a translation fault stalls the tape and posts a record; the others set ERR. -/
def State.tapeFailed (s : State) (g code va kind : Nat) : State :=
  if code = 4 then
    let x := s.group g
    let (i, s) := s.postFault (s.groupCtx g) (.access va kind (s.team x.team).num x.home)
    s.modGroup g fun x => { x with tapeStall := some i }
  else s.modGroup g fun x => x.setErr

/-- One bit of CRC-64/ECMA-182 (R359). -/
def crcBit (c : DWord) (b : Bool) : DWord :=
  let top := c.getLsbD 63 != b
  let c := c <<< 1
  if top then c ^^^ 0x42F0E1EBA9EA3693#64 else c
/-- The CRC of a byte string (R359). -/
def crc64 (c : DWord) (bs : List Byte) : DWord :=
  bs.foldl (fun c b => (List.range 8).foldl (fun c i => crcBit c (b.getLsbD (7 - i))) c) c

end Sys2Proof.Machine
end

