-- ==== Sys2Proof/Machine/Control.lean ====
section
/-! DEFINITION. Paths (spec/06_execution_model.md R165 to R177, spec/14_instr_gossip_tape_system.md R358): Coppice
regrouping, the resolution of meets, reconvergence, parking, barrier completion, stalls, and the bc forms
(spec/11_instr_scalar_vector.md R284 to R286). -/

namespace Sys2Proof.Machine

/-! ### Threads and addresses -/

/-- The lanes of home group `h` in a thread mask. -/
def homeMask (m : ThreadMask) (h : Nat) : LaneMask := m.extractLsb' (96 * h) 96

/-- The threads an issue group holds active. -/
def activeThreads (active : ThreadMask) (g : Ig) : ThreadMask :=
  (g.slots.zipIdx).foldl (fun m p => match p.1 with
    | some h => if active.getLsbD (96 * h + p.2) then m ||| BitVec.twoPow 3072 (96 * h + p.2) else m
    | none => m) 0

/-- The threads arrived at each address, lowest address first. -/
def enterAddr (a : DWord) (m : ThreadMask) : List (DWord × ThreadMask) → List (DWord × ThreadMask)
  | [] => [(a, m)]
  | (b, n) :: t => if a < b then (a, m) :: (b, n) :: t else if a = b then (b, n ||| m) :: t else (b, n) :: enterAddr a m t
def byAddress (active : ThreadMask) (gs : List Ig) : List (DWord × ThreadMask) :=
  gs.foldl (fun acc g => enterAddr g.pc (activeThreads active g) acc) []

/-- The top entry replaced by some entries; parked entries above it stay where they are. -/
def replaceTop (es new : List Entry) : List Entry :=
  match es with
  | [] => new
  | e :: t => match e.kind with
    | .parked _ _ _ => e :: replaceTop t new
    | _ => new ++ t

/-- R167: the split by address. The entry becomes RECONV with its own RPC; one entry stands for each address, the
lowest on top. A bottom entry, whose RPC is none, keeps its pc, where R167 names no other: the model's choice (log 86). -/
def splitEntries (e : Entry) (arr : List (DWord × ThreadMask)) (k : DWord → Kind) : List Entry :=
  (arr.map fun p => { kind := k p.1, pc := p.1, rpc := e.rpc, mask := p.2 }) ++
    [{ e with kind := .reconv, pc := e.rpc.getD e.pc, meet := [] }]

/-! ### Recorded meets (R358) -/

/-- What the tape modes of the home groups at a meet ask for. -/
inductive MeetTape where
  | plain
  | tape (recording reversing : List Nat)
  | mixed (addr : DWord)

def State.meetTape (s : State) (gs : List Nat) : MeetTape :=
  let recs := gs.filter fun g => (s.group g).tapeMode == 1
  let revs := gs.filter fun g => (s.group g).tapeMode == 2
  match recs, revs with
  | [], [] => .plain
  | _ :: _, g :: _ => .mixed (s.group g).tapePos
  | _, _ => .tape recs revs

/-- The meets recorded by an entry that becomes a path again: each home group still in record mode appends its BRD
entry; the reservation ends in either case (R358). -/
def State.closeMeet (s : State) (t : Nat) (recd : Recorded) (append : Bool) : State :=
  recd.foldl (fun s p => s.modGroup (teamGroup t p.1) fun x =>
    let y := x.setRes (x.tapeRes - 1)
    if append && x.tapeMode == 1 then y.append (brdUnits p.2) else y) s

/-- The path's MEET field is emptied (R165). -/
def Role.noMeet (x : Role) : Role :=
  match x.path with
  | some e => { x with entries := replaceTop x.entries [{ e with meet := [] }] }
  | none => x

/-- Takes a trap on each of some issue groups of a role, whose instruction thereby has no effect and does not count
(R180, R376). -/
def State.trapEach (s : State) (r : Nat) (gs : List Ig) (code : Nat) (addr : DWord) : State :=
  gs.foldl (fun s g =>
    let ref : IgRef := { role := r, ig := g.uid }
    (s.modIg ref fun g => { g with wait := .none }).takeTrap ref code g.resumePoint addr) (s.uncount r gs.length)

/-- Takes a trap on every issue group of a role that waits at a bc.brd; the stack is left as it stood before the meet
(R167). -/
def State.trapWaiting (s : State) (r code : Nat) (addr : DWord) : State :=
  (s.modRole r Role.noMeet).trapEach r ((s.role r).igs.filter fun g => match g.wait with
    | .brd _ => true
    | _ => false) code addr

/-- The condition of a thread at a meet: true when its CV is not 0 (R284), or its bit of a popped BRD entry. -/
def State.takenMask (s : State) (t : Nat) (x : BcArgs) (m : ThreadMask) (popped : Recorded) : ThreadMask :=
  (List.range (s.team t).groups).foldl (fun acc h =>
    let lanes := homeMask m h
    if lanes = 0 then acc
    else
      let bits : LaneMask := match findKey popped h with
        | some b => b &&& lanes
        | none => (List.range 96).foldl (fun b l =>
            if lanes.getLsbD l && s.src (teamGroup t h) l x.cv != 0 then b ||| BitVec.twoPow 96 l else b) 0
      acc ||| (bits.setWidth 3072 <<< (96 * h))) 0

def branchTarget (pc : DWord) (off n : Nat) : DWord :=
  pc + ((BitVec.ofNat n off).signExtend 64 <<< 2)

/-- R167 at one address: the entry stays, moves to the target, or splits; `both` forces the split and `notTakenFirst`
puts the not-taken path on top (R358). -/
def State.resolveAt (s : State) (r : Nat) (e : Entry) (pc : DWord) (x : BcArgs) (T : ThreadMask)
    (both notTakenFirst : Bool) (recd : Recorded) : State :=
  let N := e.mask &&& ~~~(s.role r).exited &&& ~~~T
  let target := branchTarget pc x.toff 20
  let move (p : DWord) : State := s.modRole r fun y =>
    { y with entries := replaceTop y.entries [{ e with pc := p, meet := [] }],
             igs := y.igs.map fun g => match g.wait with
               | .brd _ => { g with pc := p, wait := .none, clause := none }
               | _ => g }
  if !both && T = 0 then move (pc + 8)
  else if !both && N = 0 then move target
  else if 64 < (s.role r).entries.length + 2 then s.trapWaiting r 5 64
  else
    let rpc := branchTarget pc x.roff 19
    let taken : Entry := { kind := .path, pc := target, rpc := some rpc, mask := T }
    let other : Entry := { kind := .path, pc := pc + 8, rpc := some rpc, mask := N }
    let base : Entry := { e with kind := .reconv, pc := rpc, meet := [], recd := recd }
    let new := if notTakenFirst then [other, taken, base] else [taken, other, base]
    (s.modRole r fun y => { y with entries := replaceTop y.entries new, igs := [] }).becomeCurrent r

/-- The outcome of popping the BRD entries of a meet: the masks and new positions, a divergence, or a wait. -/
def State.popBrds (s : State) (gs : List Nat) : State × (List (Nat × LaneMask × Nat) ⊕ Option DWord) :=
  gs.foldl (fun acc g =>
    match acc with
    | (s, .inr e) => (s, .inr e)
    | (s, .inl done) =>
      match s.lastEntry g with
      | (s, .entry a bs) =>
        if unitAt bs 0 == 2 * 2 ^ 12 && bs.length == 16 then (s, .inl (done ++ [((s.group g).home, maskAt bs 1, a)]))
        else (s, .inr (some (BitVec.ofNat 64 a)))
      | (s, .diverge a) => (s, .inr (some (BitVec.ofNat 64 a)))
      | (s, .fault c va) => (s.tapeFailed g c va 0, .inr none)) (s, .inl [])

/-- R167 and R358 at one address. T is taken from the threads that have arrived, which are active, so that a thread that
em has cleared is in N: R167 does not say whether such a thread has a condition, and this is the model's choice (log 86).
-/
def State.resolveMeet (s : State) (r : Nat) (e : Entry) (pc : DWord) (x : BcArgs) (arrived : ThreadMask) : Option State :=
  let t := roleTeam r
  let hs := (List.range (s.team t).groups).filter fun h => homeMask arrived h != 0
  match s.meetTape (hs.map (teamGroup t)) with
  | .plain => some (s.resolveAt r e pc x (s.takenMask t x arrived []) false false [])
  | .mixed a => some (s.trapWaiting r 12 a)
  | .tape recs revs =>
    match recs.find? fun g => !(s.group g).tapeFits 16 with
    | some g => some (s.trapWaiting r 11 (s.group g).tapePos)
    | none =>
      if revs.any fun g => !(s.group g).tapeQ.isEmpty || (s.group g).tapeStall.isSome then none
      else
      match s.popBrds revs with
      | (s, .inr (some a)) => some (s.trapWaiting r 12 a)
      | (s, .inr none) => some s
      | (s, .inl pops) =>
        if 64 < (s.role r).entries.length + 2 then some (s.trapWaiting r 5 64)
        else
          let s := pops.foldl (fun s p => s.modGroup (teamGroup t p.1) fun y =>
            { y with tapePos := BitVec.ofNat 64 p.2.2 }) s
          let T := s.takenMask t x arrived (pops.map fun p => (p.1, p.2.1))
          let recd := recs.map fun g => ((s.group g).home, homeMask T (s.group g).home)
          let s := recs.foldl (fun s g => s.modGroup g fun y => y.setRes (y.tapeRes + 1)) s
          some (s.resolveAt r e pc x T true (recs.isEmpty) recd)

/-! ### Barriers (R174 to R177) -/

/-- Arrivals that count: threads of the role that have not exited. -/
def Role.live (x : Role) : ThreadMask := x.threads &&& ~~~x.exited
def covered {n : Nat} (need have_ : BitVec n) : Bool := need &&& ~~~have_ == 0

/-- The threads arrived at a barrier of a role's team: kind 0 team, 1 role, 2 grid. -/
def State.arrivals (s : State) (r kind n : Nat) : ThreadMask :=
  match kind with
  | 0 => SMap.look 0 (s.team (roleTeam r)).bars n
  | 1 => SMap.look 0 (s.role r).bars n
  | _ => (s.team (roleTeam r)).gridArr
def State.setArrivals (s : State) (r kind n : Nat) (m : ThreadMask) : State :=
  match kind with
  | 0 => s.modTeam (roleTeam r) fun t => { t with bars := SMap.put 0 t.bars n m }
  | 1 => s.modRole r fun x => { x with bars := SMap.put 0 x.bars n m }
  | _ => s.modTeam (roleTeam r) fun t => { t with gridArr := m }

/-- The roles a barrier gathers. -/
def State.barrierRoles (s : State) (r kind : Nat) : List Nat :=
  match kind with
  | 0 => (List.range 4).map (teamRole (roleTeam r))
  | 1 => [r]
  | _ =>
    let g := (s.team (roleTeam r)).grid
    (s.teams.filter fun p => p.2.grid == g).flatMap fun p => (List.range 4).map (teamRole p.1)

/-- Whether arrivals equal the expected count, with someone waiting (R174). -/
def State.barrierDone (s : State) (r kind n : Nat) : Bool :=
  let rs := s.barrierRoles r kind
  (rs.any fun q => s.arrivals q kind n &&& (s.role q).live != 0) &&
    (rs.all fun q => covered (s.role q).live (s.arrivals q kind n)) &&
    (kind != 2 || (let g := s.grid (s.team (roleTeam r)).grid; g.placed == g.count))

/-- Whether an issue group waits at a barrier. -/
def Ig.atBar (g : Ig) (kind n : Nat) : Bool := match g.wait with
  | .bar a b _ => a == kind && b == n
  | _ => false
/-- Whether a stack entry is parked at a barrier. -/
def Entry.atBar (e : Entry) (kind n : Nat) : Bool := match e.kind with
  | .parked a b _ => a == kind && b == n
  | _ => false

/-- The scopes at which the threads of a role that wait at a barrier arrived, each with their home groups (R307). -/
def Role.barScopes (x : Role) (kind n : Nat) : List (Scope × List Nat) :=
  (x.entries.filterMap fun e => match e.kind with
    | .parked _ _ sc => if e.atBar kind n then some (sc, (List.range 32).filter fun h => homeMask e.mask h != 0) else none
    | _ => none) ++
  (x.igs.filterMap fun g => match g.wait with
    | .bar _ _ sc => if g.atBar kind n then some (sc, g.homes) else none
    | _ => none)

/-- The departure of a role's threads from a barrier: parked entries become paths at the next instruction, waiting
issue groups move on, and each core acquires at the scope at which its threads arrived (R95, R175, R307). -/
def State.depart (s : State) (r kind n : Nat) : State :=
  let t := s.team (roleTeam r)
  let x := s.role r
  let s := (x.barScopes kind n).foldl (fun s p => if p.1 = .none then s
    else (distinct (p.2.map fun h => (s.group (teamGroup (roleTeam r) h)).core)).foldl (fun s c =>
      s.invalidate c t.ctx t.place p.1 [none]) s) s
  let wasTop := x.path.isSome && !(x.entries.takeWhile fun e => e.kind != .path).any fun e => e.atBar kind n
  let s := s.modRole r fun x =>
    { x with
      entries := x.entries.map fun e => if e.atBar kind n then { e with kind := .path, pc := e.pc + 8 } else e,
      igs := x.igs.map fun g =>
        if g.atBar kind n then { g with pc := g.pc + 8, clause := none, wait := .none } else g }
  if wasTop then s
  else
    -- another entry is now highest: the path it displaces keeps its threads at one address each (R175)
    let y := s.role r
    let act := y.em &&& ~~~y.exited
    let low := x.path
    match low with
    | some e =>
      let arr := byAddress (act &&& e.mask) x.igs
      let arr : List (DWord × ThreadMask) := arr.map fun (p : DWord × ThreadMask) => (p.1 + 8, p.2)
      let es := y.entries.flatMap fun f =>
        if f.kind = .path && f.mask = e.mask && f.pc = e.pc then
          (match arr with
            | [p] => [{ f with pc := p.1 }]
            | [] => [f]
            | _ => splitEntries f arr fun _ => .path)
        else [f]
      (s.modRole r fun y => { y with entries := es, igs := [] }).becomeCurrent r
    | none => s.becomeCurrent r

/-- A barrier that is complete resets and lets every waiting thread depart (R174). -/
def State.completeBarrier (s : State) (r kind n : Nat) : State :=
  if s.barrierDone r kind n then
    let rs := s.barrierRoles r kind
    let s := rs.foldl (fun s q => s.depart q kind n) s
    rs.foldl (fun s q => s.setArrivals q kind n 0) s
  else s

/-- Every barrier that threads wait at, tried (R166: an exit counts as an arrival). -/
def State.completeBarriers (s : State) (r : Nat) : State :=
  let s := (List.range 8).foldl (fun s n => s.completeBarrier r 0 n) s
  let s := (s.barrierRoles r 0).foldl (fun s q => (List.range 8).foldl (fun s n => s.completeBarrier q 1 n) s) s
  if (s.grid (s.team (roleTeam r)).grid).krec.coop then s.completeBarrier r 2 0 else s

/-! ### Settling a role -/

/-- R175: every active thread of the current path `e` waits at one barrier. One that their arrival completes lets them
depart; else the path is parked, split by address with each address's own scope. A stack that the split, or the split of
a path that a departing parked entry displaces, would make too long is left as it stood. -/
def State.park (s : State) (r k n : Nat) (e : Entry) (waiting : List Ig) : Option State :=
  let x := s.role r
  let act := x.active
  let arr := byAddress act waiting
  let kind (a : DWord) : Kind := match waiting.find? fun g => g.pc == a with
    | some g => (match g.wait with
      | .bar k n sc => .parked k n sc
      | _ => .path)
    | none => .path
  let es := match arr with
    | [(a, _)] => [{ e with kind := kind a, pc := a, meet := [] }]
    | _ => splitEntries e arr kind
  let complete := s.barrierDone r k n
  let above := (x.entries.takeWhile fun e => e.kind != .path).any fun e => e.atBar k n
  if (!complete || above) && decide (64 < x.entries.length + es.length - 1) then
    let m := waiting.foldl (fun m g => m ||| activeThreads act g) 0
    some ((s.setArrivals r k n (s.arrivals r k n &&& ~~~m)).trapEach r waiting 5 64)
  else if complete then some (s.completeBarrier r k n)
  else some ((s.modRole r fun x => { x with entries := replaceTop x.entries es, igs := [] }).becomeCurrent r)

/-- One move of a role's stack that needs no further instruction: a pop, a reconvergence, a meet or a park; none when
the role has nothing to settle. -/
def State.settleOnce (s : State) (r : Nat) : Option State :=
  let x := s.role r
  match x.top with
  | none => none
  | some e =>
    let live := e.mask &&& ~~~x.exited
    let t := roleTeam r
    if live = 0 then
      some (((s.closeMeet t e.recd false).modRole r fun x =>
        { x with entries := replaceTop x.entries [], igs := [] }).becomeCurrent r)
    else if e.kind = .reconv then
      if x.entries.head? = some e then
        some (((s.closeMeet t e.recd true).modRole r fun x =>
          { x with entries := replaceTop x.entries [{ e with kind := .path, mask := live, recd := [] }] }).becomeCurrent r)
      else none
    else
      let act := x.active
      let busy := x.igs.filter fun g => activeThreads act g != 0
      let atMeet (g : Ig) : Bool := match g.wait with
        | .brd _ => true
        | .rpc => true
        | _ => false
      let waiting := if busy.isEmpty then x.igs.filter atMeet else busy
      if waiting.isEmpty then none
      else if waiting.all fun g => g.wait = .rpc then
        some ((s.modRole r fun x => { x with entries := replaceTop x.entries [], igs := [] }).becomeCurrent r)
      else if waiting.all atMeet then
        let arr := byAddress act waiting
        match waiting.head?, arr with
        | some g, [(a, m)] =>
          (match g.wait with
            | .brd b => s.resolveMeet r e a b m
            | _ => none)
        | _, [] => none
        | _, _ =>
          if 64 < x.entries.length + arr.length then some (s.trapWaiting r 5 64)
          else some ((s.modRole r fun x =>
            { x with entries := replaceTop x.entries (splitEntries e arr fun _ => .path), igs := [] }).becomeCurrent r)
      else
        match waiting.head? with
        | some g =>
          (match g.wait with
            | .bar k n _ => if waiting.all fun h => h.atBar k n then s.park r k n e waiting else none
            | _ => none)
        | none => none

/-- Moves of a role's stack until none is left; a role has at most 64 entries, so 200 moves are enough. -/
def State.settleLoop (s : State) (r : Nat) : Nat → State
  | 0 => s
  | k + 1 => match s.settleOnce r with
    | some s => State.settleLoop s r k
    | none => s

/-- A team whose every role has no runnable path (R176). -/
def State.stalled (s : State) (t : Nat) : Bool :=
  (List.range 4).all fun r => (s.role (teamRole t r)).path.isNone
/-- The parked entries of a role by barrier. -/
def Role.parkedAt (x : Role) : List (Nat × Nat) := x.entries.filterMap fun e => match e.kind with
  | .parked k n _ => some (k, n)
  | _ => none

/-- The parked entry highest in the stack of the lowest role that has one becomes a path again, and its barrier's
arrivals are discarded (R176, R378); answers the role and TRAPADDR. -/
def State.starveAt (s : State) (t : Nat) (grid : Bool) : State × Option (Nat × DWord) :=
  let pick (k : Nat) : Bool := (k == 2) == grid
  match (List.range 4).find? fun r => (s.role (teamRole t r)).parkedAt.any fun p => pick p.1 with
  | none => (s, none)
  | some q =>
    let r := teamRole t q
    let x := s.role r
    match x.entries.find? fun e => match e.kind with
      | .parked k _ _ => pick k
      | _ => false with
    | none => (s, none)
    | some e =>
      match e.kind with
      | .parked k n _ =>
        let es := { e with kind := .path } :: x.entries.filter fun f => f != e
        let s := (s.modRole r fun x => { x with entries := es }).setArrivals r k n 0
        (s.becomeCurrent r, some (r, BitVec.ofNat 64 (if k = 2 then 16 else k * 8 + n)))
      | _ => (s, none)

/-- The barrier-starve trap of several teams, taken by each at once (R176). -/
def State.starve (s : State) (ts : List Nat) (grid : Bool) : State :=
  let (s, traps) := ts.foldl (fun (acc : State × List (Nat × DWord)) t =>
    match acc.1.starveAt t grid with
    | (s, some p) => (s, acc.2 ++ [p])
    | (s, none) => (s, acc.2)) (s, [])
  traps.foldl (fun s p => (s.role p.1).igs.foldl (fun s g =>
    s.takeTrap { role := p.1, ig := g.uid } 9 g.resumePoint p.2) s) s

/-- R176: a stalled team whose parked entries all wait at its own barriers, or every team of a stalled cooperative grid
with an entry parked at the grid barrier. -/
def State.checkStarve (s : State) (t : Nat) : State :=
  let parked : List (Nat × Nat) := (List.range 4).flatMap fun r => (s.role (teamRole t r)).parkedAt
  if !s.stalled t then s
  else if !parked.isEmpty && parked.all fun p => p.1 != 2 then s.starve [t] false
  else
    let g := (s.team t).grid
    let ts := s.teams.filter fun p => p.2.grid == g
    let gr := s.grid g
    if gr.krec.coop && gr.placed == gr.count && (ts.all fun (p : Nat × Team) => s.stalled p.1) &&
        !s.barrierDone (teamRole t 0) 2 0 then s.starve (ts.map (·.1)) true
    else s

/-- The threads of a role that wait at a barrier: those of parked entries, and of the issue groups that stand at one,
where a thread cleared in em waits with the others (R164, R172). -/
def Role.atBarrier (x : Role) : ThreadMask :=
  let act := BitVec.allOnes 3072
  let parked := x.entries.foldl (fun m e => match e.kind with
    | .parked _ _ _ => m ||| e.mask
    | _ => m) 0
  x.igs.foldl (fun m g => match g.wait with
    | .bar _ _ _ => m ||| activeThreads act g
    | _ => m) parked

/-- Whether a claim comes before another: it issued earlier, or in the same clock with a lower context, team number or
home group (R163). -/
def State.claimBefore (s : State) (a b : Claim) : Bool :=
  let key (c : Claim) : List Nat :=
    let x := s.group c.group
    [c.clock, s.groupCtx c.group, (s.team x.team).num, x.home]
  decide (key a < key b)
/-- The waiting claims of a team on a core, the oldest first. -/
def State.claimsOf (s : State) (t c : Nat) : List Claim := (s.core c).claims.filter fun q => (s.group q.group).team == t

/-- R164: every unexited group of a team is blocked in ms.rclaim or waits at a barrier with all its threads. A group is
taken to be blocked in ms.rclaim when any claim of it waits whose issue group stands there (log 70). -/
def State.allHeld (s : State) (t : Nat) : Bool :=
  (s.teamGroups t).all fun g =>
    let x := s.group g
    let r := s.role (teamRole t x.role)
    x.exited || (s.claimsOf t x.core).any (fun q => q.group == g && r.igs.any fun i => i.uid == q.ig && i.claim) ||
      covered (homeMask r.live x.home) (homeMask r.atBarrier x.home)

/-- R164: the claim-deadlock trap of a team. -/
def State.checkClaims (s : State) (t : Nat) : State :=
  let x := s.team t
  match x.place.cores.filterMap fun c => (s.claimsOf t c).head?.map fun q => (c, q) with
  | [] => s
  | (c0, q0) :: more =>
    let served := ((c0, q0) :: more).any fun (p : Nat × Claim) => decide (p.2.n ≤ (s.core p.1).free)
    let anyFault := (List.range 4).any fun r => (s.role (teamRole t r)).igs.any fun g => g.fault.isSome
    let returning := s.groups.any fun p => p.2.exited && !p.2.returned && x.place.cores.contains p.2.core
    if served || !s.allHeld t || anyFault || returning then s
    else
      let q := more.foldl (fun (q : Claim) (p : Nat × Claim) => if s.claimBefore p.2 q then p.2 else q) q0
      let s : State := { s with cores := s.cores.map fun p =>
        (p.1, { p.2 with claims := p.2.claims.filter fun q => (s.group q.group).team != t }) }
      let s : State := { s with roles := s.roles.map fun p => if roleTeam p.1 = t then
        (p.1, { p.2 with igs := p.2.igs.map fun g => { g with claim := false } }) else p }
      let r := teamRole t (s.group q.group).role
      let ref : IgRef := { role := r, ig := q.ig }
      s.takeTrap ref 10 (s.ig ref).resumePoint (BitVec.ofNat 64 (8 * q.n))

/-- Everything that follows of itself from a change of role `r`: its own stack, the barriers of its team, the stacks
of the roles they release, and the stalls. -/
def State.settle (s : State) (r : Nat) : State :=
  let t := roleTeam r
  let s := s.settleLoop r 200
  let s := s.completeBarriers r
  let s := (List.range 4).foldl (fun s q => s.settleLoop (teamRole t q) 200) s
  (s.checkStarve t).checkClaims t

/-! ### Branches (R285, R286) -/

/-- The lanes with a true condition. -/
def State.condLanes (s : State) (x : BcArgs) : List (Nat × Nat) :=
  (s.lanes s.cur).filter fun p => s.src (s.gid p.2) p.1 x.cv != 0

/-- BC_BR (R169, R285). -/
def execBcBr (x : BcArgs) (s : State) : Out :=
  let n := (s.condLanes x).length
  let all := (s.lanes s.cur).length
  s.finish 8 (
    if n = 0 then .done s
    else if n = all then .jump s (branchTarget (s.ig s.cur).pc x.toff 20)
    else .trap s 17 (BitVec.ofNat 64 n))

/-- The arrival of the issuing group at a meet is recorded in the entry's MEET field (R165). -/
def State.noteArrival (s : State) : State :=
  let x := s.role s.cur.role
  let g := s.ig s.cur
  match x.path with
  | some e => s.modRole s.cur.role fun y =>
      { y with entries := replaceTop y.entries [{ e with meet := enterAddr g.pc (activeThreads x.active g) e.meet }] }
  | none => s

/-- BC_BRD (R167, R285, R358): the issue group waits at the meet; the meet resolves when every active thread is there. -/
def execBcBrd (x : BcArgs) (s : State) : Out :=
  match s.finish 8 (.stand ((s.noteArrival).modIg s.cur fun g => { g with wait := .brd x })) with
  | .next t => .next (t.settle s.cur.role)
  | o => o

/-- BC_JMP (R285). -/
def execBcJmp (x : BcArgs) (s : State) : Out :=
  s.finish 8 (.jump s (branchTarget (s.ig s.cur).pc x.toff 20))

/-- BC_CALL (R285). -/
def execBcCall (x : BcArgs) (s : State) : Out :=
  let pc := (s.ig s.cur).pc
  let ra := pc + 8
  s.finish 8 (.jump (s.vector x.cv true fun _ _ _ => (ra.toNat, 0)) (branchTarget pc x.toff 20))

/-- BC_RET (R285, R216, R376): addresses that differ raise 0x11 with the lowest lane that differs. -/
def execBcRet (x : BcArgs) (s : State) : Out :=
  let ls := s.lanes s.cur
  let addr (p : Nat × Nat) : Nat := s.opnd (s.gid p.2) p.1 x.cv true
  s.finish 8 (match ls with
    | [] => .done s
    | p :: _ =>
      match ls.find? fun q => addr q != addr p with
      | some q => .trap s 17 (BitVec.ofNat 64 q.1)
      | none =>
        if addr p % 4 ≠ 0 then .trap s 3 (BitVec.ofNat 64 (addr p))
        else .jump s (BitVec.ofNat 64 (addr p)))

/-- Whether an issue group still has a thread that has not exited. -/
def Ig.hasLive (g : Ig) (exited : ThreadMask) : Bool :=
  g.slots.zipIdx.any fun p => match p.1 with
    | some h => !exited.getLsbD (96 * h + p.2)
    | none => false

/-- The threads that leave every entry of their role's stack (R166); an issue group that holds none other is no more. -/
def State.exitThreads (s : State) (r : Nat) (m : ThreadMask) : State :=
  let s := s.modRole r fun x =>
    { x with exited := x.exited ||| m, igs := x.igs.filter fun g => g.hasLive (x.exited ||| m),
             entries := x.entries.map fun e => { e with mask := e.mask &&& ~~~m } }
  { s with groups := s.groups.map fun p =>
      if p.2.team = roleTeam r ∧ p.2.role = r % 4 ∧
          homeMask (s.role r).live p.2.home = 0 then (p.1, { p.2 with exited := true }) else p }

/-- BC_EXIT (R166, R285). -/
def execBcExit (_x : BcArgs) (s : State) : Out :=
  let r := s.cur.role
  let m := activeThreads (s.role r).active (s.ig s.cur)
  match s.finish 8 (.done (s.exitThreads r m)) with
  | .next t => .next (t.settle r)
  | o => o

/-- BC_NOP (R285). -/
def execBcNop (_x : BcArgs) (s : State) : Out := s.finish 8 (.done s)

/-- BC_BRK (R234, R285, R286): the breakpoint is taken after the instruction. -/
def execBcBrk (x : BcArgs) (s : State) : Out :=
  s.finish 8 (if (s.lanes s.cur).isEmpty then .done s else .trapAfter s 16 (BitVec.ofNat 64 x.toff))

end Sys2Proof.Machine
end

