-- ==== Sys2Proof/Machine/MemOps.lean ====
section
/-! DEFINITION. Loads, stores, prefetches and FIFO forms at issue (spec/12_instr_memory_sync.md R291 to R299), and what
every outstanding operation shares: its counter, its completion flag, its release hold and its acquire. -/

namespace Sys2Proof.Machine

/-! ### Making operations (R86, R229, R291) -/

/-- Whether a home group's arrival counter and completion flag have room (R86, R229). -/
def State.room (s : State) (ac : Option Nat) (cf : Nat) : Bool :=
  (s.suppliers s.cur).all fun h =>
    let x := s.group (s.gid h)
    (match ac with
      | some a => decide (SMap.look 0 x.ac a < 63)
      | none => true) &&
    (match s.flagOf cf with
      | some f => decide (SMap.look 0 x.cf f < 63)
      | none => true)

/-- An operation enters the outstanding set: its counter and its flag rise by one. -/
def Group.addOp (x : Group) (o : Op) : Group :=
  { x with ops := x.ops ++ [o],
           ac := if o.counted then SMap.put 0 x.ac o.ac (SMap.look 0 x.ac o.ac + 1) else x.ac,
           cf := match o.cf with
             | some f => SMap.put 0 x.cf f (SMap.look 0 x.cf f + 1)
             | none => x.cf }

/-- The operation that instruction `o` makes in each supplying home group, all under one name; `lanes` gives each
lane's part. An acquire holds the issue group until it is complete (R94). -/
def State.makeOps (s : State) (o : Op) (lanes : State → Nat → Nat → LaneAcc) : State :=
  let id := s.nextUid
  let ls := s.lanes s.cur
  let hs := homesOf ls
  let o := { o with id := id, ig := s.cur.ig, outside := (s.ig s.cur).clause.isNone }
  let t := hs.foldl (fun t h => t.modGroup (s.gid h) fun x =>
    x.addOp { o with lanes := (ls.filter fun p => p.2 == h).map fun p => lanes s (s.gid h) p.1 }) s
  let t := { t with nextUid := id + 1 }
  if o.acq && !hs.isEmpty then t.modIg t.cur fun g => { g with acquiring := id :: g.acquiring } else t

/-! ### Results of class L (R220, R231) -/

/-- A register by its source number (R221): a vector register's lane, or a scalar register from 384 on. -/
def State.numbered (s : State) (g r l : Nat) : Word := if r < 384 then s.readV g r l else s.readS g (r - 384)
def State.putNumbered (s : State) (g r l : Nat) (w : Word) : State :=
  if r < 384 then s.writeLane g r l w else s.writeS g (r - 384) w

/-- An operation that holds the results in the registers `regs` of the lanes `m` of home group `g`, as they stand in `t`,
until LOAD_PERFORM writes them; counted only on a counter named by `ac`. -/
def State.lateOp (s t : State) (ac : Option Nat) (cf g : Nat) (regs : List Nat) (m : LaneMask) : Op :=
  let got (l : Nat) : List Byte := regs.flatMap fun r => leBytes 4 (t.numbered g r l).toNat
  { id := t.nextUid, kind := .load, ig := s.cur.ig, ac := ac.getD 0, counted := ac.isSome, cf := s.flagOf cf,
    outside := (s.ig s.cur).clause.isNone, accepted := ac.isNone, ready := true, ty := .b32, d := regs.headD 0,
    cnt := regs.length, writes := regs,
    lanes := ((List.range 96).filter m.getLsbD).map fun l =>
      { lane := l, addr := 0, size := 4 * regs.length, done := true, got := ((got l).zipIdx).map fun p => (p.2, p.1) } }
/-- What an instruction of class L leaves, when `t` is the state in which its results stand in the registers `regs` of the
lanes `m` of home group `g`, whose other registers `t` leaves as they were. Outside a clause and uncounted that is `t`:
R227 hides when a result is written. Else the registers keep what they held in `s`, and an operation holds the results
until LOAD_PERFORM writes them; its flag and its counter are held until then (R86, R229, R231; log 26). -/
def State.late (s t : State) (ac : Option Nat) (cf g : Nat) (regs : List Nat) (m : LaneMask) : State :=
  if ((s.ig s.cur).clause.isNone && ac.isNone) || ((List.range 96).filter m.getLsbD).isEmpty then t
  else
    let o := s.lateOp t ac cf g regs m
    let u := (regs.filter (384 ≤ ·)).foldl (fun u r => u.writeS g (r - 384) (s.readS g (r - 384))) t
    { u.modGroup g fun x => { x with v := (s.group g).v }.addOp o with nextUid := t.nextUid + 1 }
/-- The same for register `d` of every active lane of the issuing group. -/
def State.lateAll (s t : State) (ac : Option Nat) (cf d : Nat) : State :=
  let ls := s.lanes s.cur
  (homesOf ls).foldl (fun t h => s.late t ac cf (s.gid h) [d] (maskOf ls h)) t

/-- Whether an operation issued earlier by the supplying home groups is still to be performed, at a scope (R93, R95). -/
def State.holds (s : State) (sc : Scope) : Bool :=
  (s.suppliers s.cur).any fun h =>
    ((s.group (s.gid h)).ops.any fun o => !o.accepted) || (sc == .sys && s.unacked (s.gid h) s.nextUid)

/-- The operations named `id` in a team's home groups leave their counters and flags, and a waiting acquire ends. -/
def State.endOp (s : State) (t id : Nat) : State :=
  let s := (s.teamGroups t).foldl (fun s g =>
    if (s.group g).ops.any fun o => o.id == id then s.modGroup g fun x => x.dropOps [id] else s) s
  (List.range 4).foldl (fun s r => s.modRole (teamRole t r) fun x =>
    { x with igs := x.igs.map fun g => { g with acquiring := g.acquiring.filter fun i => i != id } }) s

/-- One home group's operation ends; the acquire ends when no home group of the team has it outstanding. -/
def State.endOpAt (s : State) (g id : Nat) : State :=
  let s := s.modGroup g fun x => x.dropOps [id]
  let t := (s.group g).team
  if (s.teamGroups t).any fun h => (s.group h).ops.any fun o => o.id == id then s
  else
    (List.range 4).foldl (fun s r => s.modRole (teamRole t r) fun x =>
      { x with igs := x.igs.map fun g => { g with acquiring := g.acquiring.filter fun i => i != id } }) s

/-- The lower of two addresses, one of them perhaps absent. -/
def lower (a : Nat) : Option DWord → DWord
  | some b => BitVec.ofNat 64 (min a b.toNat)
  | none => BitVec.ofNat 64 a

/-- The poison trap of an access judged when it is performed (R411): the issue group that issued it takes it before its
next issue; when that issue group is no longer there, one that holds the home group does (log 21). -/
def State.poisonTrap (s : State) (g ig : Nat) (addr : Nat) : State :=
  let x := s.group g
  let r := teamRole x.team x.role
  let gs := (s.role r).igs
  match (gs.find? fun i => i.uid == ig).orElse fun _ => gs.find? fun i => i.homes.contains x.home with
  | some i => s.modIg { role := r, ig := i.uid } fun i =>
      { i with ptrap := some (7, lower addr (i.ptrap.map (·.2))) }
  | none => s.setGroup g { x with ptrap := some (lower addr x.ptrap) }

/-! ### Checks at issue (R24, R25) -/

/-- The first failing active lane of a global access of `size` bytes, and its cause. -/
def State.globalFail (s : State) (need : Need) (permits : Nat → Bool) (store : Bool) (size kind : Nat)
    (addr : Nat → Nat → DWord) : Option Res :=
  (s.lanes s.cur).findSome? fun p =>
    let a := addr (s.gid p.2) p.1
    if a.toNat % size ≠ 0 then some (.trap s 3 a)
    else match s.check s.curCtx need permits store a.toNat with
      | .bad 4 => some (.fault a.toNat kind)
      | .bad c => some (.trap s c a)
      | .ok _ => none

/-- The first failing active lane of a scratch access, with its offset as a 64-bit value (R10). -/
def State.scratchFail (s : State) (size : Nat) (off : Nat → Nat → Int) : Option Res :=
  (s.lanes s.cur).findSome? fun p =>
    let o := off (s.gid p.2) p.1
    let a : DWord := BitVec.ofInt 64 o
    if o % size ≠ 0 then some (.trap s 3 a)
    else if o < 0 ∨ (s.scratchOf s.curTeam).size < o + size then some (.trap s 5 a)
    else none

/-- A global lane access with the place its address translates to. -/
def State.globalLane (s : State) (need : Need) (permits : Nat → Bool) (l size : Nat) (a : DWord) : LaneAcc :=
  match s.check s.curCtx need permits false a.toNat with
  | .ok t => { lane := l, addr := a.toNat, size := size, cls := t.cls, loc := t.loc.key,
               peer := match t.loc with
                 | .peer d _ => some d
                 | _ => none }
  | .bad _ => { lane := l, addr := a.toNat, size := size }

def scratchLane (l size : Nat) (o : Int) : LaneAcc := { lane := l, addr := o.toNat, size := size }

def sext24 (o : Nat) : DWord := (BitVec.ofNat 24 o).signExtend 64

/-! ### Memory elements (R293, R294, R296) -/

/-- Bytes of a lane's access. -/
def maSize (x : MaArgs) : Nat := WellFormed.maCnt x.sel * WellFormed.memBytes x.ty

/-- The register image of an element's bits (R293, R296): its word, or the two words of a pair as one number. -/
def loadImage (ty : Ty) (cv : Bool) (m : Nat) : Nat :=
  if cv then
    if ty = .e8 then (if m == 0xFF then 0x7FC00000 else (let (n, d) := e8Val m; (roundF .f32 false n d .rne false).1))
    else cvtExact .f32 ty m
  else extendInt ty m

/-- The bytes of element values as a store writes them, with the flags of the conversions (R296). -/
def storeElem (ty : Ty) (cv : Bool) (rm : Rm) (sat : Bool) (v : Nat) : Flagged :=
  if cv then (if ty = .e8 then (e8Floor .f32 v, 0) else cvtF ty .f32 v rm sat)
  else (v % 2 ^ (8 * WellFormed.memBytes ty), 0)

/-- The data of lane `l` of a store, element by element, and its flags. -/
def State.storeData (s : State) (x : MaArgs) (g l : Nat) : List Byte × Nat :=
  let es := (List.range (WellFormed.maCnt x.sel)).map fun e =>
    let v := if x.ty.is64 then s.opnd g l (x.d + 2 * e) true else s.opnd g l (x.d + e) false
    storeElem x.ty (WellFormed.maCv x.sel) (Rm.ofCode (WellFormed.maRm x.sel)) (WellFormed.maSat x.sel) v
  (es.flatMap fun r => leBytes (WellFormed.memBytes x.ty) r.1, es.foldl (fun f r => f ||| r.2) 0)

/-- The flags of a converting store go to FPFLAGS (R296). -/
def State.storeFlags (s : State) (x : MaArgs) : State :=
  s.eachLanes fun s g m => s.modGroup g fun y => y.orFlags (flagsOf m fun l => (0, (s.storeData x g l).2))

/-- The store hash of an ma store (R359): `key` gives a lane's address, for scratch with bit 63 set. -/
def State.hashStores (s : State) (x : MaArgs) (key : Nat → Nat → DWord) : State :=
  let b := WellFormed.memBytes x.ty
  (s.lanes s.cur).foldl (fun s p =>
    let g := s.gid p.2
    if (s.group g).tapeHashing then
      let d := (s.storeData x g p.1).1
      let h := (List.range (WellFormed.maCnt x.sel)).foldl (fun h e =>
        crc64 h (leBytes 8 (key g p.1 + BitVec.ofNat 64 (e * b)).toNat ++ (d.drop (e * b)).take b))
        (s.group g).tapeHash
      s.modGroup g fun y => { y with tapeHash := h }
    else s) s

/-- An ma load's operation (R291). -/
def loadOp (x : MaArgs) (s : State) (scratch : Bool) : Op :=
  { id := 0, kind := .load, ig := 0, ac := x.ac, cf := s.flagOf x.cf, scratch := scratch, scope := x.scp,
    acq := x.acq, ty := x.ty, sel := x.sel, d := x.d, cnt := WellFormed.maCnt x.sel, cv := WellFormed.maCv x.sel,
    rc := x.rc, writes := (List.range (WellFormed.maCnt x.sel * (if x.ty.is64 then 2 else 1))).map (x.d + ·) }
def storeOp (x : MaArgs) (scratch : Bool) : Op :=
  { id := 0, kind := .store, ig := 0, ac := x.ac, scratch := scratch, scope := x.scp, rel := x.rel, ty := x.ty,
    sel := x.sel }

/-- A global load at lane addresses `addr`. -/
def State.globalLoad (s : State) (x : MaArgs) (addr : Nat → Nat → DWord) : Out :=
  s.finish 12 (
    if !s.room (some x.ac) x.cf then .wait s
    else match s.globalFail .rd maClass false (maSize x) 0 addr with
      | some r => r
      | none => .done (s.makeOps (loadOp x s false) fun s g l => s.globalLane .rd maClass l (maSize x) (addr g l)))

/-- A global store. R21 is applied to a store that names no scope: that a plain store is one, and that a scoped or
releasing store to a class 4 page is none, is the model's reading (log 62). -/
def State.globalStore (s : State) (x : MaArgs) (addr : Nat → Nat → DWord) : Out :=
  s.finish 12 (
    if !s.room (some x.ac) 0 then .wait s
    else match s.globalFail .wr maClass (x.scp = .none) (maSize x) 1 addr with
      | some r => r
      | none => .done (((s.makeOps (storeOp x false) fun s g l =>
          { s.globalLane .wr maClass l (maSize x) (addr g l) with data := (s.storeData x g l).1 }).storeFlags x).hashStores
            x addr))

/-- The address of lane `l` of a contiguous form (R295). -/
def State.lineAddr (s : State) (x : MaArgs) (g l : Nat) : DWord :=
  s.readS64 g x.bp + sext24 x.off + BitVec.ofNat 64 (l * maSize x)
/-- The address of lane `l` of a gather form (R295). -/
def State.gatherAddr (s : State) (x : MaArgs) (g l : Nat) : DWord :=
  BitVec.ofNat 64 (s.opnd g l x.x true) + sext24 x.off
/-- The scratch offset of lane `l` of a contiguous form, exact (R295). -/
def State.scratchLine (s : State) (x : MaArgs) (g l : Nat) : Int :=
  (s.readS g x.bp).toNat + (sext24 x.off).toInt + (l * maSize x : Nat)
def State.scratchIndex (s : State) (x : MaArgs) (g l : Nat) : Int :=
  (s.readS g x.bp).toNat + (sext24 x.off).toInt + (s.src g l x.x).toNat

/-- MA_LD (R295, R296). -/
def execMaLd (x : MaArgs) (s : State) : Out := s.globalLoad x (s.lineAddr x)
/-- MA_ST (R295, R296). -/
def execMaSt (x : MaArgs) (s : State) : Out := s.globalStore x (s.lineAddr x)
/-- MA_LDG (R295). -/
def execMaLdg (x : MaArgs) (s : State) : Out := s.globalLoad x (s.gatherAddr x)
/-- MA_STG (R295). -/
def execMaStg (x : MaArgs) (s : State) : Out := s.globalStore x (s.gatherAddr x)

/-- A scratch load. -/
def State.scratchLoad (s : State) (x : MaArgs) (off : Nat → Nat → Int) : Out :=
  s.finish 12 (
    if !s.room (some x.ac) x.cf then .wait s
    else match s.scratchFail (maSize x) off with
      | some r => r
      | none => .done (s.makeOps (loadOp x s true) fun _ g l => scratchLane l (maSize x) (off g l)))

/-- MA_LDS (R295, R98). -/
def execMaLds (x : MaArgs) (s : State) : Out := s.scratchLoad x (s.scratchLine x)
/-- MA_LDSC (R295). -/
def execMaLdsc (x : MaArgs) (s : State) : Out := s.scratchLoad x (s.scratchIndex x)
/-- MA_STS (R295, R98). -/
def execMaSts (x : MaArgs) (s : State) : Out :=
  s.finish 12 (
    if !s.room (some x.ac) 0 then .wait s
    else match s.scratchFail (maSize x) (s.scratchLine x) with
      | some r => r
      | none => .done (((s.makeOps (storeOp x true) fun s g l =>
          { scratchLane l (maSize x) (s.scratchLine x g l) with data := (s.storeData x g l).1 }).storeFlags x).hashStores
            x fun g l => BitVec.ofInt 64 (s.scratchLine x g l) ||| (1#64 <<< 63)))

/-- MA_PF (R298): each lane that passes its checks fills its line; a lane that fails is dropped. -/
def execMaPf (x : MaArgs) (s : State) : Out :=
  s.finish 12 (.done ((s.lanes s.cur).foldl (fun s p =>
    let g := s.gid p.2
    let a := s.gatherAddr x g p.1
    match s.check s.curCtx .rd maClass false a.toNat with
    | .bad _ => s
    | .ok t =>
      if t.cls ≠ 0 ∧ t.cls ≠ 5 then s
      else
        let core := (s.group g).core
        let p := if x.scp = .clus then Point.cluster else .core
        let base := t.loc.key / 64 * 64
        let ks := (List.range 64).map (base + ·)
        ((List.range 64).foldl (fun s i =>
          (s.readPoint core p (base + i) (a.toNat / 64 * 64 + i) s.curCtx x.rc .free).1) s).countLines
          (clusterOf core) (s.cluster (clusterOf core)) x.rc (s.reach core s.curCtx p ks)) s))

/-! ### FIFO forms (R299) -/

/-- R11: the bank is in FIFO mode and attached to the issuing team's context. -/
def State.fifoOk (s : State) (bank : Nat) : Bool :=
  let b := (s.cluster (s.groupCluster s.lowest)).bank bank
  b.mode == 3 && b.ctl.toNat / 2 ^ 16 % 256 == s.curCtx

/-- The issuing team has used a FIFO bank of its cluster (R389). -/
def State.usedFifo (s : State) : State := s.modTeam s.curTeam fun t => { t with fifo := true }

/-- The slots of the issuing group with a thread that is not active, with register `d` of that thread: `done` tells them
from the active lanes (R299). -/
def State.idleLanes (s : State) (d : Nat) : List LaneAcc :=
  let on := (s.lanes s.cur).map (·.1)
  ((s.ig s.cur).slots.zipIdx).filterMap fun p => match p.1 with
    | some h => if on.contains p.2 then none
        else some { lane := p.2, addr := 0, a := (s.src (s.gid h) p.2 d).setWidth 64, done := true }
    | none => none
/-- An operation with further lanes. -/
def Group.withLanes (x : Group) (id : Nat) (ls : List LaneAcc) : Group :=
  { x with ops := x.ops.map fun o => if o.id = id then { o with lanes := o.lanes ++ ls } else o }

/-- MA_FPUSH (R299): the slot of a thread that is not active carries its register too, and the mask tells which are
active. -/
def execMaFpush (x : MaArgs) (s : State) : Out :=
  s.finish 12 (
    if (s.lanes s.cur).isEmpty then .done s
    else if !s.room (some x.ac) 0 then .wait s
    else if !s.fifoOk (x.sel % 64) then .trap s 5 (BitVec.ofNat 64 (x.sel % 64))
    else .done (((s.usedFifo.makeOps { id := 0, kind := .push, ig := 0, ac := x.ac, bank := x.sel % 64 }
      fun s g l => { lane := l, addr := 0, a := (s.src g l x.d).setWidth 64 })).modGroup s.lowest fun y =>
        y.withLanes s.nextUid (s.idleLanes x.d)))

/-- MA_FPOP (R299). -/
def execMaFpop (x : MaArgs) (s : State) : Out :=
  s.finish 12 (
    if (s.lanes s.cur).isEmpty then .done s
    else if !s.room (some x.ac) x.cf then .wait s
    else if !s.fifoOk (x.sel % 64) then .trap s 5 (BitVec.ofNat 64 (x.sel % 64))
    else .done (s.usedFifo.makeOps
      { id := 0, kind := .pop, ig := 0, ac := x.ac, cf := s.flagOf x.cf, bank := x.sel % 64, d := x.d,
        writes := [x.d, x.d + 1] }
      fun _ _ l => { lane := l, addr := 0 }))

end Sys2Proof.Machine
end

