-- ==== Sys2Proof/Machine/Atomics.lean ====
section
/-! DEFINITION. Atomics at issue (spec/12_instr_memory_sync.md R300, R301) and what an atomic does to a word
(spec/04_scopes_and_litmus.md R115, R116). -/

namespace Sys2Proof.Machine

/-- The operation of an atomic: an integer code of R300 (0 to 6), 7 compare-and-swap, 8 fadd, 9 fmin, 10 fmax. -/
abbrev AtomCode := Nat

/-- R115: the result of a floating-point atomic on the held value `m` and the lane's value `v`. -/
def fatom (op : AtomCode) (t : Ty) (m v : Nat) : Nat :=
  if isNaN t m then quieten t m
  else if isNaN t v then quieten t v
  else match op with
    | 8 => (addF t m v .rne false).1
    | 9 => minmaxF false t m v
    | _ => minmaxF true t m v

/-- R301: the new value of a word that holds `old`, for the lane values `a` and, in cas, `c`. -/
def atomResult (op : AtomCode) (t : Ty) (old a c : Nat) : Nat :=
  let w := if t.is64 then 64 else 32
  match op with
  | 0 => (old + a) % 2 ^ w
  | 1 => if intVal t a < intVal t old then a else old
  | 2 => if intVal t old < intVal t a then a else old
  | 3 => old &&& a
  | 4 => old ||| a
  | 5 => old ^^^ a
  | 6 => a
  | 7 => if old = c then a else old
  | _ => fatom op t old a

/-- The forms of mx (R300). -/
inductive MxForm where
  | atom | cas | fatom | red
  deriving DecidableEq, Repr

def MxForm.code (f : MxForm) (x : MxArgs) : AtomCode :=
  let sel := x.sel % 16
  match f with
  | .atom => sel
  | .cas => 7
  | .fatom => 8 + sel
  | .red => if x.ty.isFloat then 8 + sel else sel

/-- Bytes of an atomic's word. -/
def mxSize (x : MxArgs) : Nat := if x.ty.is64 then 8 else 4

/-- The operation that an mx form makes (R291, R301). -/
def State.mxOp (s : State) (f : MxForm) (x : MxArgs) (scratch : Bool) : Op :=
  { id := 0, kind := .atomic, ig := 0, ac := x.ac, cf := s.flagOf x.cf, scratch := scratch, scope := x.scp, acq := x.acq,
    rel := x.rel, ty := x.ty, sel := f.code x, d := x.d, cnt := if f = .red then 0 else 1,
    writes := if f = .red then [] else operandRegs x.ty.is64 x.d }

/-- The operands of lane `l`. -/
def State.mxData (s : State) (f : MxForm) (x : MxArgs) (g l : Nat) (a : LaneAcc) : LaneAcc :=
  { a with a := BitVec.ofNat 64 (s.opnd g l x.a x.ty.is64),
           c := if f = .cas then BitVec.ofNat 64 (s.opnd g l x.c x.ty.is64) else 0 }

/-- An atomic on global memory at lane addresses `addr`. -/
def State.globalAtomic (s : State) (len : Nat) (f : MxForm) (x : MxArgs) (addr : Nat → Nat → DWord) : Out :=
  s.finish len (
    if !s.room (some x.ac) x.cf then .wait s
    else match s.globalFail .both mxClass false (mxSize x) 2 addr with
      | some r => r
      | none => .done (s.makeOps (s.mxOp f x false) fun s g l =>
          s.mxData f x g l (s.globalLane .both mxClass l (mxSize x) (addr g l))))

/-- An atomic on scratch at lane offsets `off`. -/
def State.scratchAtomic (s : State) (len : Nat) (f : MxForm) (x : MxArgs) (off : Nat → Nat → Int) : Out :=
  s.finish len (
    if !s.room (some x.ac) x.cf then .wait s
    else match s.scratchFail (mxSize x) off with
      | some r => r
      | none => .done (s.makeOps (s.mxOp f x true) fun s g l =>
          s.mxData f x g l (scratchLane l (mxSize x) (off g l))))

/-- The 96-bit form: X is a pair of addresses (R300). -/
def State.mx96 (s : State) (f : MxForm) (x : MxArgs) : Out :=
  s.globalAtomic 12 f x fun g l => BitVec.ofNat 64 (s.opnd g l x.x true)

/-- The 128-bit form: X is an index, and SEL[4] chooses scratch (R300). -/
def State.mx128 (s : State) (f : MxForm) (x : MxArgs) : Out :=
  if x.sel / 16 % 2 = 1 then
    s.scratchAtomic 16 f x fun g l => (s.readS g x.bp).toNat + (sext24 x.off).toInt + (s.src g l x.x).toNat
  else
    s.globalAtomic 16 f x fun g l => s.readS64 g x.bp + sext24 x.off + (s.src g l x.x).setWidth 64

/-- MX_ATOM_96 (R301). -/
def execMxAtom96 (x : MxArgs) (s : State) : Out := s.mx96 .atom x
/-- MX_ATOM_128 (R301). -/
def execMxAtom128 (x : MxArgs) (s : State) : Out := s.mx128 .atom x
/-- MX_CAS_96 (R301). -/
def execMxCas96 (x : MxArgs) (s : State) : Out := s.mx96 .cas x
/-- MX_CAS_128 (R301). -/
def execMxCas128 (x : MxArgs) (s : State) : Out := s.mx128 .cas x
/-- MX_FATOM_96 (R115). -/
def execMxFatom96 (x : MxArgs) (s : State) : Out := s.mx96 .fatom x
/-- MX_FATOM_128 (R115). -/
def execMxFatom128 (x : MxArgs) (s : State) : Out := s.mx128 .fatom x
/-- MX_RED_96 (R301). -/
def execMxRed96 (x : MxArgs) (s : State) : Out := s.mx96 .red x
/-- MX_RED_128 (R301). -/
def execMxRed128 (x : MxArgs) (s : State) : Out := s.mx128 .red x

end Sys2Proof.Machine
end

