-- ==== Sys2Proof/Machine/Gate.lean ====
section
/-! DEFINITION. Order gates at a home point (spec/14_instr_gossip_tape_system.md R360 to R362): what one atomic step on
an armed word does to its gate and its order tape. -/

namespace Sys2Proof.Machine

/-- The pages of an order tape (R360). -/
def tapePages (c : Nat) : Bool := c == 1 || c == 4

def State.modGate (s : State) (c g : Nat) (f : Gate → Gate) : State :=
  s.modCtx c fun x => { x with gates := x.gates.map fun p => if p.1 = g then (p.1, f p.2) else p }
def State.gate (s : State) (c g : Nat) : Gate := SMap.look default (s.ctx c).gates g

/-- Bytes written to an order tape at home, each through its own translation; the address at which one fails (R361). -/
def State.gateWrite (s : State) (c : Nat) (va : Nat) : List Byte → State × Option Nat
  | [] => (s, none)
  | b :: t =>
    match s.check c .both tapePages false va with
    | .ok x => State.gateWrite (s.homeWrite c none [(x.loc.key, b)]) c (va + 1) t
    | .bad _ => (s, some va)

/-- Bytes of an order tape read at home; the address at which a read fails or meets poison (R362). -/
def State.gateRead (s : State) (c : Nat) (va : Nat) : Nat → State × (List Byte ⊕ Nat)
  | 0 => (s, .inl [])
  | n + 1 =>
    match s.check c .rd tapePages false va with
    | .ok x =>
      let (s, b, bad) := s.readHome c x.loc.key .free
      if bad then (s, .inr va)
      else
        match State.gateRead s c (va + 1) n with
        | (s, .inl bs) => (s, .inl (b :: bs))
        | r => r
    | .bad _ => (s, .inr va)

/-- The header of an order tape (R361). -/
def gateHeader (count : Nat) (ovf fin : Bool) : List Byte :=
  leBytes 8 (count + (if ovf then 2 ^ 32 else 0) + (if fin then 2 ^ 33 else 0))

/-- A gate that met a fault at `va` posts a record and works on without its tape (R361, R362). -/
def State.gateFault (s : State) (c g va kind team home : Nat) : State :=
  (s.postFault c (.access va kind team home)).2.modGate c g fun x => { x with stopped := true }
/-- A write of a gate's tape: what it leaves, `f` of the gate, or a fault at the byte that could not be written. -/
def State.gatePut (s : State) (c g va team home : Nat) (bs : List Byte) (f : Gate → Gate) : State :=
  match s.gateWrite c va bs with
  | (s, none) => s.modGate c g f
  | (s, some a) => s.gateFault c g a 1 team home

/-- R361: one step is recorded under `gid`; a gate that has stopped sets OVF where the header can still be written. -/
def State.gateRecord (s : State) (c g gid team home : Nat) : State :=
  let x := s.gate c g
  let full := gateHeader x.count true false
  if x.stopped then (s.gateWrite c x.tape full).1.modGate c g fun x => { x with ovf := true }
  else if 0 < x.count ∧ x.lastGid = gid ∧ x.lastRun < 4095 then
    s.gatePut c g (x.tape + 8 + 4 * (x.count - 1)) team home (leBytes 4 (gid * 2 ^ 12 + x.lastRun + 1))
      fun x => { x with lastRun := x.lastRun + 1 }
  else if x.count < x.cap then
    match s.gateWrite c (x.tape + 8 + 4 * x.count) (leBytes 4 (gid * 2 ^ 12 + 1)) with
    | (s, some a) => s.gateFault c g a 1 team home
    | (s, none) => s.gatePut c g x.tape team home (gateHeader (x.count + 1) x.ovf false)
        fun x => { x with count := x.count + 1, lastGid := gid, lastRun := 1 }
  else s.gatePut c g x.tape team home full fun x => { x with ovf := true }

/-- R362: the gate moves to the next chunk that owes a step, at most `n` chunks on; at the end END is set. -/
def State.gateSeek (s : State) (c g team home : Nat) : Nat → State
  | 0 =>
    let x := s.gate c g
    (s.modGate c g fun x => { x with chunk := x.chunks }).gatePut c g x.tape team home (gateHeader x.count x.ovf true) id
  | n + 1 =>
    let x := s.gate c g
    match s.gateRead c (x.tape + 8 + 4 * x.chunk) 4 with
    | (s, .inr a) => s.gateFault c g a 0 team home
    | (s, .inl bs) =>
      let w := ofLE bs
      if w % 2 ^ 12 = 0 then State.gateSeek (s.modGate c g fun x => { x with chunk := x.chunk + 1 }) c g team home n
      else s.modGate c g fun x => { x with owed := w % 2 ^ 12, gid := w / 2 ^ 12 }

/-- R362: a step that the gate admits is played. -/
def State.gatePlay (s : State) (c g team home : Nat) : State :=
  let x := s.gate c g
  if x.stopped ∨ x.chunks ≤ x.chunk then s
  else if 1 < x.owed then s.modGate c g fun x => { x with owed := x.owed - 1 }
  else (s.modGate c g fun x => { x with chunk := x.chunk + 1 }).gateSeek c g team home (x.chunks - (x.chunk + 1))

/-- What an atomic step on `n` bytes at a home place does to the gates whose words it touches. -/
def State.gateStep (s : State) (loc n gid team home : Nat) : State :=
  s.ctxs.foldl (fun s p => p.2.gates.foldl (fun s q =>
    if q.2.meets loc n then
      (if q.2.play then s.gatePlay p.1 q.1 team home else s.gateRecord p.1 q.1 gid team home)
    else s) s) s

end Sys2Proof.Machine
end

