-- ==== Sys2Proof/Machine/Names.lean ====
section
/-! DEFINITION. The scalar registers that an instruction reads or writes (spec/09_encoding.md R221, R227): a register sN
stands as 384 + N, as in a 9-bit source. -/

namespace Sys2Proof.Machine

/-- `n` scalar registers from sN. -/
def sreg (r n : Nat) : List Nat := (List.range n).map fun i => 384 + r + i
/-- A 9-bit source that names a scalar register, or a pair. -/
def ssrc (wide : Bool) (a : Nat) : List Nat := if a < 384 then [] else if wide then [a, a + 1] else [a]
/-- The execution mask: every instruction acts on the threads whose bit is set there (R166, R172; log 67). -/
def emRegs : List Nat := sreg 124 3

def so2Regs (x : SoArgs) : List Nat := sreg x.sd 1 ++ sreg x.sa 1 ++ sreg x.sb 1
def so3Regs (x : SoArgs) : List Nat := so2Regs x ++ sreg x.sx 1
def so1Regs (x : SoArgs) : List Nat := sreg x.sd 1 ++ sreg x.sa 1
def skRegs (x : SkArgs) : List Nat := sreg x.sd 1 ++ sreg x.sa 1
def voRegs (op : VoOp) (x : VoArgs) : List Nat :=
  ssrc (if op = .cvt then x.ty2.is64 else x.ty.is64) x.a ++
    (if op.readsB then ssrc (x.ty.is64 && !op.amountB) x.b else []) ++ (if op = .sel then sreg (8 * x.sel) 3 else [])
def vwRegs (x : VwArgs) : List Nat := ssrc false x.a ++ ssrc false x.b ++ ssrc false x.c
def xlRegs (b : Bool) (x : XlArgs) : List Nat :=
  ssrc false x.a ++ (if b then ssrc false x.b else []) ++ sreg x.sm 3
/-- The data of a store from scalar registers. -/
def dataRegs (x : MaArgs) : List Nat :=
  if x.d < 384 then [] else (List.range (WellFormed.maCnt x.sel * (if x.ty.is64 then 2 else 1))).map (x.d + ·)
def lineRegs (x : MaArgs) : List Nat := dataRegs x ++ sreg x.bp 2
def gatherRegs (x : MaArgs) : List Nat := dataRegs x ++ ssrc true x.x
def scratchRegs (x : MaArgs) : List Nat := dataRegs x ++ sreg x.bp 1
def mx96Regs (x : MxArgs) : List Nat := ssrc x.ty.is64 x.a ++ ssrc x.ty.is64 x.c ++ ssrc true x.x
def mx128Regs (x : MxArgs) : List Nat := ssrc x.ty.is64 x.a ++ ssrc x.ty.is64 x.c ++ ssrc false x.x ++ sreg x.bp 2
/-- A ce form: a global address and a landing handle are pairs, a scratch offset and a pattern are not (R312, R313). -/
def ceRegs (fill chain : Bool) (x : CeArgs) : List Nat :=
  sreg x.src (if fill || WellFormed.ceSsp x.sel != 0 then 1 else 2) ++
    sreg x.dst (if !chain && WellFormed.ceDsp x.sel == 1 then 1 else 2) ++ sreg x.ln 1 ++
    (if WellFormed.ceNomap x.sel then [] else sreg x.map 1)
def mfScalars (x : MfArgs) : List Nat := sreg x.fb 3 ++ sreg x.cw 1

/-- The scalar registers that an instruction names. -/
def scalarsOf : Instr → List Nat
  | .soAdd x => so2Regs x
  | .soSub x => so2Regs x
  | .soMul x => so2Regs x
  | .soMulh x => so2Regs x
  | .soAnd x => so2Regs x
  | .soOr x => so2Regs x
  | .soXor x => so2Regs x
  | .soShl x => so2Regs x
  | .soShr x => so2Regs x
  | .soSra x => so2Regs x
  | .soMin x => so2Regs x
  | .soMax x => so2Regs x
  | .soCmp x => so2Regs x
  | .soBfe x => so2Regs x
  | .soSel x => so3Regs x
  | .soBfi x => so3Regs x
  | .soPopc x => so1Regs x
  | .soClz x => so1Regs x
  | .soAdd64 x => sreg x.sd 2 ++ sreg x.sa 2 ++ sreg x.sb 2
  | .soLea x => sreg x.sd 2 ++ sreg x.sa 2 ++ sreg x.sb 1
  | .soMov x => if x.ty = .b64 then sreg x.sd 2 ++ sreg x.sa 2 else so1Regs x
  | .soRdid x => sreg x.sd 1
  | .skMov x => sreg x.sd 1
  | .skAdd x => skRegs x
  | .skAnd x => skRegs x
  | .skOr x => skRegs x
  | .skXor x => skRegs x
  | .skCmp x => skRegs x
  | .voAdd x => voRegs .add x
  | .voSub x => voRegs .sub x
  | .voMull x => voRegs .mull x
  | .voMulh x => voRegs .mulh x
  | .voAnd x => voRegs .and x
  | .voOr x => voRegs .or x
  | .voXor x => voRegs .xor x
  | .voShl x => voRegs .shl x
  | .voShr x => voRegs .shr x
  | .voSra x => voRegs .sra x
  | .voMin x => voRegs .min x
  | .voMax x => voRegs .max x
  | .voAbs x => voRegs .abs x
  | .voBfe x => voRegs .bfe x
  | .voPopc x => voRegs .popc x
  | .voClz x => voRegs .clz x
  | .voBrev x => voRegs .brev x
  | .voFadd x => voRegs .fadd x
  | .voFsub x => voRegs .fsub x
  | .voFmul x => voRegs .fmul x
  | .voFmin x => voRegs .fmin x
  | .voFmax x => voRegs .fmax x
  | .voCvt x => voRegs .cvt x
  | .voRnd x => voRegs .rnd x
  | .voSel x => voRegs .sel x
  | .voMov x => voRegs .mov x
  | .vwFma x => ssrc x.ty.is64 x.a ++ ssrc x.ty.is64 x.b ++ ssrc x.ty.is64 x.c
  | .vwMad x => vwRegs x
  | .vwBfi x => vwRegs x
  | .vwPack x => vwRegs x
  | .vwCvtsr x => ssrc x.ty2.is64 x.a ++ ssrc false x.c
  | .vkAdd x => ssrc false x.a
  | .vkMul x => ssrc false x.a
  | .vkAnd x => ssrc false x.a
  | .vkOr x => ssrc false x.a
  | .vkFma x => ssrc false x.a
  | .vp o1 x1 o2 x2 => voRegs o1 x1 ++ voRegs o2 x2
  | .vmCmp x => sreg x.sd 3 ++ ssrc x.ty.is64 x.a ++ ssrc x.ty.is64 x.b
  | .vmClass x => sreg x.sd 3 ++ ssrc x.ty.is64 x.a
  | .sfRcp x => ssrc false x.a
  | .sfRsq x => ssrc false x.a
  | .sfSqrt x => ssrc false x.a
  | .sfExp2 x => ssrc false x.a
  | .sfLog2 x => ssrc false x.a
  | .sfSin x => ssrc false x.a
  | .sfCos x => ssrc false x.a
  | .sfTanh x => ssrc false x.a
  | .sfSigm x => ssrc false x.a
  | .sfGelu x => ssrc false x.a
  | .sfSilu x => ssrc false x.a
  | .sfErf x => ssrc false x.a
  | .xlShfl x => xlRegs true x
  | .xlBfly x => xlRegs true x
  | .xlRdln x => ssrc false x.b
  | .xlWrln x => ssrc false x.a ++ ssrc false x.b
  | .xlShflx x => xlRegs false x
  | .xlVote x => xlRegs false x
  | .xlScan x => xlRegs false x
  | .xlRed x => xlRegs false x
  | .bcBr x => ssrc false x.cv
  | .bcBrd x => ssrc false x.cv
  | .bcCall x => ssrc true x.cv
  | .bcRet x => ssrc true x.cv
  | .xfQuant x => ssrc false x.a ++ sreg (x.b - 384) 8
  | .xfDq x => ssrc true x.a ++ sreg (x.b - 384) 8
  | .xfSign x => ssrc false x.a
  | .xfPack x => ssrc false x.a
  | .maLd x => lineRegs x
  | .maSt x => lineRegs x
  | .maLdg x => gatherRegs x
  | .maStg x => gatherRegs x
  | .maLds x => scratchRegs x
  | .maSts x => scratchRegs x
  | .maLdsc x => scratchRegs x ++ ssrc false x.x
  | .maPf x => ssrc true x.x
  | .maFpush x => ssrc false x.d
  | .mxAtom96 x => mx96Regs x
  | .mxCas96 x => mx96Regs x
  | .mxFatom96 x => mx96Regs x
  | .mxRed96 x => mx96Regs x
  | .mxAtom128 x => mx128Regs x
  | .mxCas128 x => mx128Regs x
  | .mxFatom128 x => mx128Regs x
  | .mxRed128 x => mx128Regs x
  | .msWaitb x => sreg x.sa 1
  | .msWaitm x => sreg x.sa 1 ++ sreg x.sb 2
  | .msBind x => sreg x.sa 3 ++ sreg x.sb 2
  | .msUnbind x => sreg x.sa 2 ++ sreg x.sb 2
  | .msAcq x => sreg x.sa 2 ++ sreg x.sb 2
  | .msRel x => sreg x.sa 2 ++ sreg x.sb 2
  | .ceCp x => ceRegs false false x
  | .ceChain x => ceRegs false true x
  | .ceFill x => ceRegs true false x
  | .mfMma x => mfScalars x
  | .mfMmasp x => mfScalars x
  | .toLd x => sreg x.cw 1 ++ sreg x.bp 2
  | .toSt x => sreg x.cw 1 ++ sreg x.bp 2
  | .toScal x => sreg x.cw 1 ++ sreg x.bp (if x.ty = .f64 then 2 else 1)
  | .toZero x => sreg x.cw 1
  | .toFree x => sreg x.cw 1
  | .toDense x => sreg x.cw 1
  | .toCmpr x => sreg x.cw 1
  | .toAdd x => sreg x.cw 1
  | .toMul x => sreg x.cw 1
  | .toGemm x => sreg x.cw 1
  | .toLu x => sreg x.cw 1
  | .toTrsm x => sreg x.cw 1
  | .toTr x => sreg x.cw 1
  | .toRound x => sreg x.cw 1
  | .tqInfo x => sreg x.sd 1
  | .tqGet x => sreg x.sd 1
  | .gxAdd x => ssrc false x.a ++ sreg x.bp 2
  | .gxRead x => ssrc false x.a ++ sreg x.bp 2
  | .gxSpread x => ssrc false x.a ++ sreg x.bp 2
  | .taMark x => sreg x.sa 1
  | .taHash x => sreg x.sa 2
  | .taGateRec x => sreg x.sa 5
  | .taGatePlay x => sreg x.sa 5
  | .nmUpd x => sreg x.bp 2
  | .nmLandInst x => sreg x.bp 2
  | .nmLandRem x => sreg x.bp 2
  | .nmCtlDone x => sreg x.bp 2
  | .lsLaunch x => sreg x.sa 2 ++ sreg x.sb 1 ++ sreg x.sx 2
  | .lsSpawn x => sreg x.sa 2
  | .syCsrr x => sreg x.sd 1
  | .syCsrw x => sreg x.sa 1
  | .syCsrs x => sreg x.sa 1
  | .syCsrc x => sreg x.sa 1
  | .syClk x => sreg x.sd 2
  | .syRng x => sreg x.sa 2
  | _ => []

end Sys2Proof.Machine
end

