-- ==== Sys2Proof/Machine/Issue.lean ====
section
/-! DEFINITION. From a program counter to an instruction that issues: the fetch (spec/09_encoding.md R216, R217), the
decode order (R226), clauses (R227 to R230, R236), the register check (R49), the path budget
(spec/06_execution_model.md R180) and what holds an issue group back. -/

namespace Sys2Proof.Machine

/-- `n` registers from `d`. -/
def regRange (d n : Nat) : List Nat := (List.range n).map (d + ·)
/-- The vector registers a 9-bit operand names. -/
def vreg (wide : Bool) (a : Nat) : List Nat := operandRegs wide a
/-- The registers of an ma data operand (R294). -/
def maRegs (x : MaArgs) : List Nat := regRange x.d (WellFormed.maCnt x.sel * (if x.ty.is64 then 2 else 1))
/-- The registers of an mx form: data, compare value, and the pair or index of X (R300). -/
def mxRegs (wide dest cas : Bool) (x : MxArgs) : List Nat :=
  (if dest then vreg x.ty.is64 x.d else []) ++ vreg x.ty.is64 x.a ++ (if cas then vreg x.ty.is64 x.c else []) ++
    (if wide then vreg false x.x else vreg true x.x)

/-- Elements of K, A registers and B registers of an accepted pair (R326); none for a pair the table does not list. -/
def fragShape (a b : Ty) : Option (Nat × Nat × Nat × Bool) :=
  match a, b with
  | .f32, .f32 => some (16, 16, 16, false)
  | .bf16, .bf16 => some (64, 32, 32, true)
  | .f16, .f16 => some (64, 32, 32, true)
  | .f8e4, .f8e4 => some (128, 32, 32, true)
  | .f8e4, .f8e5 => some (128, 32, 32, true)
  | .f8e5, .f8e4 => some (128, 32, 32, true)
  | .f8e5, .f8e5 => some (128, 32, 32, true)
  | .i8, .i8 => some (128, 32, 32, true)
  | .f4, .f4 => some (256, 32, 32, true)
  | .tern, .i8 => some (256, 16, 64, false)
  | _, _ => none

/-- The format block of an mf form as its types (R326). -/
def fragTypes (w : Word) : Option (Ty × Ty) :=
  match Ty.ofCode (w.toNat % 32), Ty.ofCode (w.toNat / 2 ^ 16 % 32) with
  | some a, some b => some (a, b)
  | _, _ => none

/-- log2 of M, the run length of a compressed A (R328). -/
def spLog (sel : Nat) : Nat := sel / 4 % 4 + 1

/-- The vector registers of an mf form (R325, R326, R328). -/
def State.mfRegs (s : State) (sp : Bool) (x : MfArgs) : List Nat :=
  match fragTypes (s.readS s.lowest x.fb) with
  | none => []
  | some (a, b) =>
    match fragShape a b with
    | none => []
    | some (k, na, nb, _) =>
      regRange x.a (if sp then na / 2 else na) ++ regRange x.b nb ++
        (if sp then regRange x.idx (k * spLog x.sel / 64) else [])

/-- The vector registers an instruction names: sources, destinations and the implicit registers of multi-register
operands (R49). -/
def State.vregs (s : State) : Instr → List Nat
  | .voAdd x => voReads .add x ++ voWrites x
  | .voSub x => voReads .sub x ++ voWrites x
  | .voMull x => voReads .mull x ++ voWrites x
  | .voMulh x => voReads .mulh x ++ voWrites x
  | .voAnd x => voReads .and x ++ voWrites x
  | .voOr x => voReads .or x ++ voWrites x
  | .voXor x => voReads .xor x ++ voWrites x
  | .voShl x => voReads .shl x ++ voWrites x
  | .voShr x => voReads .shr x ++ voWrites x
  | .voSra x => voReads .sra x ++ voWrites x
  | .voMin x => voReads .min x ++ voWrites x
  | .voMax x => voReads .max x ++ voWrites x
  | .voAbs x => voReads .abs x ++ voWrites x
  | .voBfe x => voReads .bfe x ++ voWrites x
  | .voPopc x => voReads .popc x ++ voWrites x
  | .voClz x => voReads .clz x ++ voWrites x
  | .voBrev x => voReads .brev x ++ voWrites x
  | .voFadd x => voReads .fadd x ++ voWrites x
  | .voFsub x => voReads .fsub x ++ voWrites x
  | .voFmul x => voReads .fmul x ++ voWrites x
  | .voFmin x => voReads .fmin x ++ voWrites x
  | .voFmax x => voReads .fmax x ++ voWrites x
  | .voCvt x => voReads .cvt x ++ voWrites x
  | .voRnd x => voReads .rnd x ++ voWrites x
  | .voSel x => voReads .sel x ++ voWrites x
  | .voMov x => voReads .mov x ++ voWrites x
  | .vwFma x => vreg x.ty.is64 x.d ++ vreg x.ty.is64 x.a ++ vreg x.ty.is64 x.b ++ vreg x.ty.is64 x.c
  | .vwMad x => vreg false x.d ++ vreg false x.a ++ vreg false x.b ++ vreg false x.c
  | .vwBfi x => vreg false x.d ++ vreg false x.a ++ vreg false x.b ++ vreg false x.c
  | .vwCvtsr x => vreg false x.d ++ vreg x.ty2.is64 x.a ++ vreg false x.c
  | .vwPack x => vreg false x.d ++ vreg false x.a ++ vreg false x.b ++ vreg false x.c
  | .vkAdd x => vreg false x.d ++ vreg false x.a
  | .vkMul x => vreg false x.d ++ vreg false x.a
  | .vkAnd x => vreg false x.d ++ vreg false x.a
  | .vkOr x => vreg false x.d ++ vreg false x.a
  | .vkMov x => vreg false x.d
  | .vkFma x => vreg false x.d ++ vreg false x.a
  | .vp o1 x1 o2 x2 => voReads o1 x1 ++ voWrites x1 ++ voReads o2 x2 ++ voWrites x2
  | .vmCmp x => vreg x.ty.is64 x.a ++ vreg x.ty.is64 x.b
  | .vmClass x => vreg x.ty.is64 x.a
  | .sfRcp x => vreg false x.d ++ vreg false x.a
  | .sfRsq x => vreg false x.d ++ vreg false x.a
  | .sfSqrt x => vreg false x.d ++ vreg false x.a
  | .sfExp2 x => vreg false x.d ++ vreg false x.a
  | .sfLog2 x => vreg false x.d ++ vreg false x.a
  | .sfSin x => vreg false x.d ++ vreg false x.a
  | .sfCos x => vreg false x.d ++ vreg false x.a
  | .sfTanh x => vreg false x.d ++ vreg false x.a
  | .sfSigm x => vreg false x.d ++ vreg false x.a
  | .sfGelu x => vreg false x.d ++ vreg false x.a
  | .sfSilu x => vreg false x.d ++ vreg false x.a
  | .sfErf x => vreg false x.d ++ vreg false x.a
  | .xlShfl x => vreg false x.d ++ vreg false x.a ++ vreg false x.b
  | .xlShflx x => vreg false x.d ++ vreg false x.a
  | .xlBfly x => vreg false x.d ++ vreg false x.a ++ vreg false x.b
  | .xlVote x => vreg false x.d ++ vreg false x.a
  | .xlRdln x => vreg false x.d ++ vreg false x.a
  | .xlWrln x => vreg false x.d
  | .xlScan x => vreg false x.d ++ vreg false x.a
  | .xlRed x => vreg false x.d ++ vreg false x.a
  | .bcBr x => vreg false x.cv
  | .bcBrd x => vreg false x.cv
  | .bcCall x => vreg true x.cv
  | .bcRet x => vreg true x.cv
  | .xfQuant x => vreg true x.d ++ vreg false x.a
  | .xfDq x => vreg false x.d ++ vreg true x.a
  | .xfSign x => vreg false x.d ++ vreg false x.a
  | .xfPack x => vreg false x.d ++ vreg false x.a
  | .maLd x => maRegs x
  | .maSt x => maRegs x
  | .maLdg x => maRegs x ++ vreg true x.x
  | .maStg x => maRegs x ++ vreg true x.x
  | .maLds x => maRegs x
  | .maSts x => maRegs x
  | .maLdsc x => maRegs x ++ vreg false x.x
  | .maPf x => vreg true x.x
  | .maFpush x => vreg false x.d
  | .maFpop x => vreg true x.d
  | .mxAtom96 x => mxRegs false true false x
  | .mxAtom128 x => mxRegs true true false x
  | .mxCas96 x => mxRegs false true true x
  | .mxCas128 x => mxRegs true true true x
  | .mxFatom96 x => mxRegs false true false x
  | .mxFatom128 x => mxRegs true true false x
  | .mxRed96 x => mxRegs false false false x
  | .mxRed128 x => mxRegs true false false x
  | .mfMma x => s.mfRegs false x
  | .mfMmasp x => s.mfRegs true x
  | .gxAdd x => vreg false x.a
  | .gxRead x => vreg false x.d
  | .gxSpread x => vreg false x.d ++ vreg false x.a
  | .taRec x => regRange x.a x.n
  | .taPop x => regRange x.a x.n
  | .lsSpawn x => vreg false x.imm
  | _ => []

/-- R325: a register range of an mf form that passes v383. -/
def State.mfRange (s : State) : Instr → Bool
  | .mfMma x => (s.mfRegs false x).any fun n => decide (384 ≤ n)
  | .mfMmasp x => (s.mfRegs true x).any fun n => decide (384 ≤ n)
  | _ => false

/-- CF of a class L instruction (R218). -/
def cfField : Instr → Nat
  | .sfRcp x => x.cf
  | .sfRsq x => x.cf
  | .sfSqrt x => x.cf
  | .sfExp2 x => x.cf
  | .sfLog2 x => x.cf
  | .sfSin x => x.cf
  | .sfCos x => x.cf
  | .sfTanh x => x.cf
  | .sfSigm x => x.cf
  | .sfGelu x => x.cf
  | .sfSilu x => x.cf
  | .sfErf x => x.cf
  | .xlShfl x => x.cf
  | .xlShflx x => x.cf
  | .xlBfly x => x.cf
  | .xlVote x => x.cf
  | .xlRdln x => x.cf
  | .xlWrln x => x.cf
  | .xlScan x => x.cf
  | .xlRed x => x.cf
  | .xfQuant x => x.cf
  | .xfDq x => x.cf
  | .xfSign x => x.cf
  | .xfPack x => x.cf
  | .maLd x => x.cf
  | .maSt x => x.cf
  | .maLdg x => x.cf
  | .maStg x => x.cf
  | .maLds x => x.cf
  | .maSts x => x.cf
  | .maLdsc x => x.cf
  | .maPf x => x.cf
  | .maFpush x => x.cf
  | .maFpop x => x.cf
  | .mxAtom96 x => x.cf
  | .mxAtom128 x => x.cf
  | .mxCas96 x => x.cf
  | .mxCas128 x => x.cf
  | .mxFatom96 x => x.cf
  | .mxFatom128 x => x.cf
  | .mxRed96 x => x.cf
  | .mxRed128 x => x.cf
  | .tqInfo x => x.cf
  | .tqGet x => x.cf
  | .tqSet x => x.cf
  | .gxAdd x => x.cf
  | .gxRead x => x.cf
  | .gxStep x => x.cf
  | .gxSpread x => x.cf
  | .gxCtl x => x.cf
  | .taRec x => x.cf
  | .taMark x => x.cf
  | .taPop x => x.cf
  | .taCtlFlush x => x.cf
  | .taCtlRewind x => x.cf
  | .taHash x => x.cf
  | .taGateOff x => x.cf
  | .taGateRec x => x.cf
  | .taGatePlay x => x.cf
  | _ => 0

/-- The instructions that may stand only last in a clause (R230). -/
def lastOnly : Instr → Bool
  | .bcBr _ => true | .bcBrd _ => true | .bcJmp _ => true | .bcCall _ => true | .bcRet _ => true | .bcExit _ => true
  | .bcBrk _ => true | .msBarT _ => true | .msBarR _ => true | .msBarG _ => true | .syTrap _ => true | .syTret _ => true
  | _ => false

def isCh : Instr → Bool
  | .ch _ => true
  | _ => false

/-- R230 and R229: whether an instruction is permitted at its place in or out of a clause. -/
def Ig.placeOk (g : Ig) (i : Instr) : Bool :=
  match g.clause with
  | some c =>
    !isCh i && (!lastOnly i || c.idx + 1 == c.len) &&
      (match cfField i with
        | 0 => true
        | 1 => c.fa.isSome
        | 2 => c.fb.isSome
        | _ => false)
  | none => cfField i == 0 && (g.resume.isNone || isCh i)

/-! ### Fetch (R217) -/

/-- The class of a page that may be fetched (R20). -/
def fetchClass (c : Nat) : Bool := c == 0

/-- One byte of code, at a location: the cluster point if it holds the byte, else home. -/
def State.codeByte (s : State) (core ctx k : Nat) : State × Byte × Bool := s.readEngine (some (clusterOf core)) ctx k .free

/-- `n` bytes of code from a location, with the poisoned places. -/
def State.codeBytes (s : State) (core ctx k : Nat) : Nat → State × List Byte × List Nat
  | 0 => (s, [], [])
  | n + 1 =>
    let (s, b, p) := s.codeByte core ctx k
    let (s, bs, ps) := State.codeBytes s core ctx (k + 1) n
    (s, b :: bs, if p then k :: ps else ps)

/-- What the fetch at a program counter comes to. -/
inductive Fetched where
  | instr (i : Instr) (len : Nat)
  | fill
  | trap (code : Nat) (addr : DWord)
  | fault

/-- The bytes at a location read as an instruction (R217, R226 steps 1 to 5); `pc` is its virtual address. -/
def State.readWord (s : State) (core ctx k : Nat) (pc : DWord) : State × Fetched :=
  let off := pc.toNat % 32
  let (s, w, ps) := s.codeBytes core ctx k 4
  match ps.head? with
  | some p => (s, .trap 7 (pc + BitVec.ofNat 64 (p - k)))
  | none =>
    let first := ofLE w
    if off = 28 ∧ first = 0 then (s, .fill)
    else
      let illegal : Fetched := .trap 1 (BitVec.ofNat 64 first)
      match first % 4 with
      | 3 => (s, illegal)
      | l =>
        let n := 8 + 4 * l
        if 32 < off + n then (s, .trap 2 pc)
        else
          let (s, bs, ps) := s.codeBytes core ctx k n
          match ps.head? with
          | some p => (s, .trap 7 (pc + BitVec.ofNat 64 (p - k)))
          | none =>
            match decode (ofLE bs) with
            | .ok i => (s, .instr i n)
            | .error _ => (s, illegal)

/-- The same as a request of the cluster cache, which counts it (R72). -/
def State.readInstr (s : State) (core ctx k : Nat) (pc : DWord) : State × Fetched :=
  let c := clusterOf core
  let (t, f) := s.readWord core ctx k pc
  (t.countLines c (s.cluster c) 0 [k / 64], f)

/-- The fetch of an issue group on a core, at `pc`. -/
def State.fetch (s : State) (core ctx : Nat) (pc : DWord) : State × Fetched :=
  match s.check ctx .ex fetchClass false pc.toNat with
  | .bad 4 => (s, .fault)
  | .bad c => (s, .trap c pc)
  | .ok t => s.readInstr core ctx t.loc.key pc

/-! ### What holds an instruction back -/

/-- The home groups of an issue group, by name. -/
def State.igGroups (s : State) (r : IgRef) : List Nat := (s.ig r).homes.map (teamGroup (roleTeam r.role))
/-- The core an issue group runs on. -/
def State.igCore (s : State) (r : IgRef) : Nat := (s.group ((s.igGroups r).headD 0)).core

/-- R227: whether an earlier operation of a home group has still to write one of `regs`. -/
def State.pendingWrite (s : State) (g : Nat) (regs : List Nat) : Bool :=
  ((s.group g).ops.any fun o => o.writes.any regs.contains) ||
    ((s.core (s.group g).core).xform.any fun q => match q with
      | .entry e => e.writes.any fun w => w.1 == g && regs.contains w.2.1
      | .join _ => false)

/-- R228: whether a long-latency operation issued outside any clause has still to write. -/
def State.pendingOutside (s : State) (g : Nat) : Bool :=
  ((s.group g).ops.any fun o => o.outside && !o.writes.isEmpty) ||
    ((s.core (s.group g).core).xform.any fun q => match q with
      | .entry e => e.outside && e.writes.any fun w => w.1 == g
      | .join _ => false)

/-- R227 and R228: whether the issue group must wait before `i` issues. -/
def State.interlocked (s : State) (r : IgRef) (i : Instr) : Bool :=
  match i with
  | .ch x =>
    (s.igGroups r).any fun g => s.pendingOutside g ||
      (List.range 12).any fun n => x.wait / 2 ^ n % 2 == 1 && SMap.look 0 (s.group g).cf n != 0
  | _ =>
    match (s.ig r).clause with
    | some _ => false
    | none => (s.igGroups r).any fun g => s.pendingWrite g (s.vregs i ++ scalarsOf i ++ emRegs)

/-- Whether an mf form must wait for the scalar registers that its format block gives its vector registers by (R227,
R325). -/
def State.mfWaits (s : State) (r : IgRef) (i : Instr) : Bool :=
  let waits (x : MfArgs) : Bool :=
    (s.ig r).clause.isNone && (s.igGroups r).any fun g => s.pendingWrite g (mfScalars x ++ emRegs)
  match i with
  | .mfMma x => waits x
  | .mfMmasp x => waits x
  | _ => false

/-- R49: the lowest register an instruction names that some home group of the issue group does not have. -/
def State.badReg (s : State) (r : IgRef) (i : Instr) : Option Nat :=
  let top := (s.igGroups r).foldl (fun m g => min m (8 * (s.group g).gran)) 384
  let bad := (s.vregs i).filter fun n => decide (top ≤ n)
  match bad with
  | [] => none
  | n :: t => some (t.foldl min n)

/-- R236 step 3: fetch passes over a clause instruction that is skipped. -/
def Ig.skip (g : Ig) (len : Nat) : Ig :=
  match g.clause, g.resume with
  | some c, some (n + 1) =>
    let c' := { c with idx := c.idx + 1 }
    { g with pc := g.pc + BitVec.ofNat 64 len, clause := if c'.idx < c'.len then some c' else none,
             resume := if n = 0 then none else some n }
  | _, _ => g

/-- Past the fill words and the skipped instructions at a program counter (R217, R236): at most 33 of them. A resume is
to find the clause header at once. -/
def State.findInstr (s : State) (r : IgRef) (core ctx : Nat) : Nat → State × Fetched
  | 0 => (s, .fault)
  | k + 1 =>
    let g := s.ig r
    let (s, f) := s.fetch core ctx g.pc
    match f with
    | .fill =>
      if g.clause.isNone && g.resume.isSome then (s, .trap 1 0)
      else State.findInstr (s.modIg r fun g => { g with pc := g.pc + 4 }) r core ctx k
    | .instr i n =>
      if g.clause.isSome && g.resume.isSome then
        State.findInstr (s.modIg r fun g => g.skip n) r core ctx k
      else (s, .instr i n)
    | _ => (s, f)

/-- What a turn of an issue group comes to: an instruction to execute, or a state. -/
inductive Turn where
  | go (i : Instr) (s : State)
  | turn (s : State)

/-- R185: the first issue of a team acquires at dev scope with O = none. -/
def State.firstAcquire (s : State) (t : Nat) : State :=
  if (s.team t).firstIssue then s
  else
    let s := (s.teamGroups t).foldl (fun s g => s.invalidateCore (s.group g).core (s.team t).ctx [none]) s
    s.modTeam t fun x => { x with firstIssue := true }

/-- Whether an issue group stands behind a release of its own whose hold has not ended (R93, R109). -/
def State.behindRelease (s : State) (r : IgRef) : Bool :=
  (s.igGroups r).any fun g => (s.group g).ops.any fun o => o.ig == r.ig && s.relHeld g o

/-- Whether an issue group may be given a turn: its context runs, its team is resident, its path is current, and it is
not descheduled and does not wait for others. -/
def State.canTurn (s : State) (r : IgRef) : Bool :=
  let t := s.team (roleTeam r.role)
  let g := s.ig r
  ((s.role r.role).igs.any fun x => x.uid == r.ig) && (s.role r.role).path.isSome && t.resident && !t.terminated &&
    (s.ctx t.ctx).run == .running && g.fault.isNone && !g.claim && g.acquiring.isEmpty && !s.behindRelease r &&
    (match g.wait with
      | .none => true
      | .blocked => true
      | .window => true
      | .full => true
      | .xl => true
      | _ => false)

/-- The trap that an issue group is to take before its next issue (R342, R411). -/
def State.dueTrap (s : State) (r : IgRef) : Option (Nat × DWord) :=
  match (s.ig r).ptrap with
  | some p => some p
  | none =>
    match (s.igGroups r).findSome? fun g => (s.group g).ptrap with
    | some a => some (7, a)
    | none => if s.canTurn r then ((s.igGroups r).findSome? fun g => (s.group g).ttrap).map fun a => (13, a) else none

/-- Whether an issue group may take a trap that is due: as for a turn, but it may wait for others. -/
def State.mayTrap (s : State) (r : IgRef) : Bool :=
  let t := s.team (roleTeam r.role)
  ((s.role r.role).igs.any fun x => x.uid == r.ig) && (s.role r.role).path.isSome && t.resident && !t.terminated &&
    (s.ctx t.ctx).run == .running && (s.ig r).fault.isNone

/-- Whether an issue group waits at an instruction that counted when it arrived there (R180). -/
def Wait.counted : Wait → Bool
  | .brd _ => true
  | .bar _ _ _ => true
  | _ => false

/-- The claims of an issue group end without effect, wherever it stands (R164, R376). -/
def State.dropClaims (s : State) (r : IgRef) : State :=
  let k := s.igCore r
  if (s.core k).claims.any fun q => q.ig == r.ig then
    (s.modCore k fun c => { c with claims := c.claims.filter fun q => q.ig != r.ig }).modIg r fun g => { g with claim := false }
  else s
/-- The claims that an issue group brought back from a save end where it issues another instruction than its ms.rclaim, or
the header of its clause. -/
def State.keepClaims (s : State) (r : IgRef) (i : Instr) : State :=
  match i with
  | .msRclaim _ => s
  | .ch _ => s
  | _ => s.dropClaims r

/-- An issue group leaves what it waits at without effect (R376): its arrivals are withdrawn from the meet or barrier,
and its claims end. -/
def State.withdraw (s : State) (r : IgRef) (cause : Nat) : State :=
  let g := s.ig r
  let x := s.role r.role
  let m := activeThreads x.active g
  let s := if g.wait.counted then s.uncount r.role 1 else s
  let s := match g.wait with
    | .bar k n _ => s.setArrivals r.role k n (s.arrivals r.role k n &&& ~~~m)
    | .brd _ => s.modRole r.role fun y => { y with entries := match y.path with
        | some e => replaceTop y.entries
            [{ e with meet := (e.meet.map fun (p : DWord × ThreadMask) => (p.1, p.2 &&& ~~~m)).filter
                        fun (p : DWord × ThreadMask) => p.2 != 0 }]
        | none => y.entries }
    | _ => s
  let s := s.dropClaims r
  (s.igGroups r).foldl (fun s g => s.modGroup g fun x =>
    if cause = 13 then { x with ttrap := none } else { x with ptrap := none }) s

/-- Whether `n` more instructions of the current path would pass the budget (R180), with the blocked time so far (R292).
-/
def State.passes (s : State) (r : IgRef) (n : Nat) : Bool :=
  let b := (s.ctx (s.roleCtx r.role)).pathBudget.toNat
  b != 0 && decide (b < ((s.role r.role).ticked s.clock.toNat).count + n)
/-- Whether one more would. -/
def State.overBudget (s : State) (r : IgRef) : Bool := s.passes r 1
/-- The path-timeout trap at an issue group's next instruction (R180). -/
def State.timeOut (s : State) (r : IgRef) : State :=
  (s.dropClaims r).takeTrap r 8 (s.ig r).resumePoint (BitVec.ofNat 64 (s.ctx (s.roleCtx r.role)).pathBudget.toNat)
/-- Whether an issue group stands before an instruction that has not issued: its wait, or its claim. -/
def Ig.pending (g : Ig) : Bool := g.claim || (match g.wait with
  | .blocked => true
  | .window => true
  | .full => true
  | .xl => true
  | _ => false)
/-- The instructions counted between two states: several where an xl passes the issue groups that waited for it. -/
def State.issued (s t : State) : Nat :=
  (t.ctx s.curCtx).retired.toNat - (s.ctx s.curCtx).retired.toNat
/-- What an instruction comes to under the path budget (R180): one that would issue with effect, or wait to, past the
budget does not issue, and the path-timeout trap is taken at it; one that traps or faults does not count. -/
def State.budgeted (s : State) (o : Out) : Out :=
  match o with
  | .next t =>
    if s.passes s.cur (max 1 (s.issued t)) &&
        ((t.ctx s.curCtx).retired != (s.ctx s.curCtx).retired || (t.ig s.cur).pending) then
      .next (s.timeOut s.cur)
    else o
  | o => o

/-- The turn of issue group `r`: a trap that is due; for one that waits, the settling of its role (R172); otherwise the
fetch, the decode order of R226 and the interlocks. -/
def State.select (s : State) (r : IgRef) : Turn :=
  let s := { s with cur := r }
  let g := s.ig r
  let t := roleTeam r.role
  let ctx := (s.team t).ctx
  match (if s.mayTrap r then s.dueTrap r else none) with
  | some (c, a) => .turn (((s.withdraw r c).takeTrap r c g.resumePoint a).settle r.role)
  | none =>
  if !s.canTurn r then .turn (s.settle r.role)
  else
    match g.declined with
    | some va => .turn (((s.dropClaims r).modIg r fun g => { g with declined := none }).takeTrap r 4 g.resumePoint va)
    | none =>
    if (s.role r.role).path.any fun e => e.rpc == some g.pc then
      .turn ((s.modIg r fun g => { g with wait := .rpc, clause := none }).settle r.role)
    else
      let s := s.firstAcquire t
      let (s, f) := s.findInstr r (s.igCore r) ctx 40
      let g := s.ig r
      match f with
      | .fault => .turn (s.deschedule r g.pc.toNat 3)
      | .fill => .turn s
      | .trap c a => .turn ((s.dropClaims r).takeTrap r c g.resumePoint a)
      | .instr i _ =>
        if (s.role r.role).path.any fun e => e.rpc == some g.pc then
          .turn ((s.modIg r fun g => { g with wait := .rpc, clause := none }).settle r.role)
        else if !g.placeOk i then
          .turn ((s.dropClaims r).takeTrap r 1 g.resumePoint (BitVec.ofNat 64 (encode i % 2 ^ 32)))
        else if s.mfWaits r i then .turn s
        else if s.mfRange i then .turn ((s.dropClaims r).takeTrap r 1 g.resumePoint (BitVec.ofNat 64 (encode i % 2 ^ 32)))
        else
          match s.badReg r i with
          | some n => .turn ((s.dropClaims r).takeTrap r 5 g.resumePoint (BitVec.ofNat 64 n))
          | none => if s.interlocked r i then .turn (if isCh i then s.stall else s) else .go i (s.keepClaims r i)

end Sys2Proof.Machine
end

