-- ==== Sys2Proof/Machine/Sync.lean ====
section
/-! DEFINITION. The ms forms (spec/12_instr_memory_sync.md R302 to R311): waits, batches, sync objects, barriers
(spec/06_execution_model.md R174 to R177), binding (spec/01_address_spaces.md R32 to R35), joins and register claims
(R162, R163). -/

namespace Sys2Proof.Machine

/-- An instruction whose effect on each supplying home group in turn may end in a trap: `f` answers the state, or what
stops the instruction (R291, R308). -/
def eachHomeRes (s : State) (f : State → Nat → Except Res State) : List Nat → Res
  | [] => .done s
  | h :: t => match f s (s.gid h) with
    | .ok s' => eachHomeRes s' f t
    | .error r => r

/-- MS_WAITC (R303, R87). -/
def execMsWaitc (x : MsArgs) (s : State) : Out :=
  s.finish 8 (
    if (s.suppliers s.cur).all fun h => decide (SMap.look 0 (s.group (s.gid h)).ac x.ac ≤ x.k) then .done s
    else .wait s.block)

/-- The acquire at clus scope with no object, by the core of the issuing home groups (R102). -/
def State.clusAcquire (s : State) : State :=
  let core := (s.group s.lowest).core
  s.invalidate core s.curCtx (s.team s.curTeam).place .clus [none]

/-- A committed batch that has still entries to complete and that `n` names (R304). -/
def batchWaits (n : Nat) (x : Group) : Bool := x.batches.any fun b => decide ((n + 65536 - b.1) % 65536 ≤ 32767)

/-- MS_WAITB (R304, R102). -/
def execMsWaitb (x : MsArgs) (s : State) : Out :=
  let hs := s.suppliers s.cur
  s.finish 8 (
    if hs.isEmpty then .done s
    else if hs.any fun h =>
      let g := s.gid h
      batchWaits (((s.readS g x.sa).toNat + x.imm) % 65536) (s.group g) then .wait s.block
    else .done s.clusAcquire)

/-- MS_WAITM (R305, R102). -/
def execMsWaitm (x : MsArgs) (s : State) : Out :=
  let hs := s.suppliers s.cur
  let a := s.scratchOf s.curTeam
  let off (h : Nat) : Nat := (s.readS (s.gid h) x.sa).toNat
  let bad := hs.findSome? fun h =>
    if off h % 8 ≠ 0 then some (3, off h)
    else if a.size < off h + 8 then some (5, off h)
    else none
  s.finish 8 (
    match bad with
    | some (c, o) => .trap s c (BitVec.ofNat 64 o)
    | none =>
      if hs.isEmpty then .done s
      else if hs.all fun h =>
        let m := s.readS64 (s.gid h) x.sb
        BitVec.ofNat 64 (ofLE (a.read (off h) 8)) &&& m == m then .done s.clusAcquire
      else .wait s.block)

/-- Batch `b` given to the pending entries of home group `g` in its core's copy queues. -/
def State.labelBatch (s : State) (g b : Nat) : State :=
  s.modCore (s.group g).core fun c => { c with copy := c.copy.map fun q => (q.1, q.2.map fun e => match e with
    | .entry e => if e.group = g ∧ e.batch = none then .entry { e with batch := some b } else .entry e
    | .join i => .join i) }

/-- Whether a commit of pending entries must wait: it would make a 65th batch that is not complete, or it has waited since
it would have and the batch that was the oldest then is not complete (R304). -/
def Group.commitWaits (x : Group) (waiting : Bool) : Bool :=
  x.pending != 0 && (decide (64 ≤ x.batches.length) ||
    (waiting && x.commitFor.any fun n => x.batches.any fun b => b.1 == n))
/-- The oldest batch becomes the one that a commit waits for. -/
def Group.commitAwaits (x : Group) : Group :=
  if 64 ≤ x.batches.length then { x with commitFor := x.batches.head?.map (·.1) } else x

/-- MS_COMMIT (R304): an empty batch is complete at once. -/
def execMsCommit (_x : MsArgs) (s : State) : Out :=
  let waiting := (s.ig s.cur).wait == .full
  s.finish 8 (
    if (s.suppliers s.cur).any fun h => (s.group (s.gid h)).commitWaits waiting then
      .wait (s.eachHome fun s g => s.modGroup g Group.commitAwaits)
    else .done (s.eachHome fun s g =>
      let x := s.group g
      (s.labelBatch g x.cb).modGroup g fun y =>
        { y with cb := (x.cb + 1) % 65536, pending := 0, commitFor := none,
                 batches := if x.pending = 0 then y.batches else y.batches ++ [(x.cb, x.pending)] }))

/-- Arrival at a barrier of kind `kind` and number `num` (R174, R175, R307): a release at the scope, once its hold has
ended, then one arrival for each active thread. -/
def State.barrier (s : State) (kind num : Nat) (sc : Scope) : Out :=
  let r := s.cur.role
  let m := activeThreads (s.role r).active (s.ig s.cur)
  if m = 0 then s.finish 8 (.done s)
  else if sc ≠ .none ∧ s.holds sc then s.finish 8 (.wait s)
  else
    let core := (s.group s.lowest).core
    let s := if sc = .none then s else s.drain core s.curCtx (s.team s.curTeam).place sc [none]
    let s := s.setArrivals r kind num (s.arrivals r kind num ||| m)
    match s.finish 8 (.stand (s.modIg s.cur fun g => { g with wait := .bar kind num sc })) with
    | .next t => .next (t.settle r)
    | o => o

/-- MS_BAR_T (R307). -/
def execMsBarT (x : MsArgs) (s : State) : Out := s.barrier 0 x.imm x.scp
/-- MS_BAR_R (R307). -/
def execMsBarR (x : MsArgs) (s : State) : Out := s.barrier 1 x.imm x.scp
/-- MS_BAR_G (R177, R307): legal in a cooperative grid, and lost once a team of the grid is terminated. -/
def execMsBarG (x : MsArgs) (s : State) : Out :=
  let g := s.grid (s.team s.curTeam).grid
  if !g.krec.coop then s.finish 8 (.trap s 1 (BitVec.ofNat 64 (encode (.msBarG x) % 2 ^ 32)))
  else if g.lost && !(s.lanes s.cur).isEmpty then s.finish 8 (.trap s 14 0)
  else s.barrier 2 0 x.scp

/-- R33: whether an entry may be added to a binding table. -/
def Ctx.bindFits (c : Ctx) (b : Bind) : Bool :=
  decide (c.binds.length < 256) && !b.covers (8 * b.obj) && c.binds.all fun (e : Bind) =>
    (decide (e.base + e.lines ≤ b.base) || decide (b.base + b.lines ≤ e.base)) && !e.covers (8 * b.obj) &&
      !b.covers (8 * e.obj)

/-- MS_BIND (R308). -/
def execMsBind (x : MsArgs) (s : State) : Out :=
  s.finish 8 (eachHomeRes s (fun s g =>
    let base := s.readS64 g x.sa
    let lines := (s.readS g (x.sa + 2)).toNat
    let obj := s.readS64 g x.sb
    let b : Bind := { base := base.toNat / 64, lines := lines, obj := obj.toNat / 8 }
    let c := s.ctx s.curCtx
    if base.toNat % 64 ≠ 0 ∨ 2 ^ 48 ≤ base.toNat then .error (.trap s 5 base)
    else if obj.toNat % 8 ≠ 0 ∨ 2 ^ 48 ≤ obj.toNat then .error (.trap s 5 obj)
    else if lines = 0 ∨ 67108863 < lines then .error (.trap s 5 (BitVec.ofNat 64 lines))
    else if c.binds.contains b then .ok s
    else if c.bindFits b then .ok (s.setCtx s.curCtx { c with binds := c.binds ++ [b] })
    else .error (.trap s 5 base)) (s.suppliers s.cur))

/-- MS_UNBIND (R309). -/
def execMsUnbind (x : MsArgs) (s : State) : Out :=
  s.simple 8 fun s => s.eachHome fun s g =>
    let base := (s.readS64 g x.sa).toNat
    let obj := (s.readS64 g x.sb).toNat
    s.modCtx s.curCtx fun c => { c with binds := c.binds.filter fun (b : Bind) => !(64 * b.base == base && 8 * b.obj == obj) }

/-- A team's place in the turn at a tile window: contexts ascending, then teams (R192). -/
def State.windowKey (s : State) (t : Nat) : Nat := ((s.team t).ctx * 2 ^ 32 + (s.team t).num) * 2 ^ 64 + t + 1
/-- Whether an issue group of a team waits to enter its pair's tile window. -/
def State.waitsWindow (s : State) (t : Nat) : Bool :=
  (s.team t).resident && (s.ctx (s.team t).ctx).run == .running &&
    (List.range 4).any fun r => (s.role (teamRole t r)).path.isSome && (s.role (teamRole t r)).igs.any fun g =>
      g.wait == .window && g.fault.isNone
/-- Whether entry to its pair's tile window has come round to a team: no other team that waits there stands between the
one that entered last and it (R192). -/
def State.windowTurn (s : State) (t : Nat) : Bool :=
  let p := s.teamPair t
  let last := (s.pair p).turn
  let me := s.windowKey t
  s.teams.all fun q => q.1 == t || s.teamPair q.1 != p || !s.waitsWindow q.1 ||
    (let k := s.windowKey q.1
     if last < me then decide (k ≤ last ∨ me ≤ k) else decide (k ≤ last ∧ me ≤ k))
/-- The issuing group waits to enter its pair's tile window. -/
def State.awaitWindow (s : State) : State := s.modIg s.cur fun g => { g with wait := .window }

/-- Whether a core leads its pair (R159). -/
def leads (core : Nat) : Bool := core % 2 == 0
/-- Whether entries of the issuing team from a core may enter its pair's tile window in this clock: the leader's not after
the follower's, since of two offered in one clock the leader's enters first (R192; log 71). -/
def State.windowOpen (s : State) (core : Nat) : Bool :=
  !(leads core && (s.pair (s.teamPair s.curTeam)).follow == some s.clock.toNat)
/-- An entry enters its pair's tile window, after the others (R192). -/
def State.enterWindow (s : State) (e : WEntry) : State :=
  let core := (s.group e.group).core
  s.modPair (s.teamPair e.team) fun x =>
    { x with window := x.window ++ [e], turn := s.windowKey e.team,
             follow := if leads core then x.follow else some s.clock.toNat }

/-- One join entry in each queue that `imm` names (R101, R310). -/
def State.joinOne (s : State) (g imm : Nat) : State :=
  let x := s.group g
  let (id, s) := s.fresh
  let has (n : Nat) : Bool := imm / 2 ^ n % 2 == 1
  let s := (List.range 4).foldl (fun s q =>
    if has q then s.modCore x.core fun c => { c with copy := SMap.ins c.copy q (SMap.look [] c.copy q ++ [.join id]) }
    else s) s
  let s := if has 4 then s.enterWindow { id := id, ctx := (s.team x.team).ctx, team := x.team, group := g, pc := 0, job := .join id }
    else s
  let s := if has 5 then s.modCore x.core fun c => { c with xform := c.xform ++ [.join id] } else s
  let s := if has 6 then { s with dmaQ := s.dmaQ ++ [.join id] } else s
  let s := (List.range 8).foldl (fun s k =>
    if has (8 + k) then s.modStack k fun t => { t with nmu := t.nmu ++ [.join id] } else s) s
  { s with joins := SMap.ins s.joins id [imm, x.core, x.team] }

/-- Whether the named copy queues have room for `n` entries more (R312). -/
def State.copyRoom (s : State) (core imm n : Nat) : Bool :=
  (List.range 4).all fun q => imm / 2 ^ q % 2 == 0 ||
    decide ((SMap.look [] (s.core core).copy q).length + n ≤ Config.copyQueueLen)
/-- Whether the issuing team's `n` entries may enter its pair's tile window now: it is the team's turn, there is room, and
the clock is not the follower's (R192). -/
def State.windowRoom (s : State) (core n : Nat) : Bool :=
  s.windowTurn s.curTeam && s.windowOpen core && decide ((s.pair (s.teamPair s.curTeam)).window.length + n ≤ Config.windowLen)

/-- The issuing group waits, but not at the tile window. -/
def State.leaveWindow (s : State) : State :=
  s.modIg s.cur fun g => if g.wait = .window then { g with wait := .none } else g
/-- MS_QJOIN (R101, R310): one join for each supplying home group. One that waits for a copy queue does not wait at the
tile window, where other teams may enter (R192, R194). -/
def execMsQjoin (x : MsArgs) (s : State) : Out :=
  let hs := s.suppliers s.cur
  let core := (s.group s.lowest).core
  s.finish 8 (
    if hs.isEmpty then .done s
    else if !s.copyRoom core x.imm hs.length then .wait s.leaveWindow
    else if x.imm / 16 % 2 = 1 ∧ !s.windowRoom core hs.length then .wait s.awaitWindow
    else .done (s.eachHome fun s g => s.joinOne g x.imm))

/-- A claim entered into a core's claims. -/
def State.enterClaim (s : State) (c : Claim) : List Claim → List Claim
  | [] => [c]
  | a :: t => if s.claimBefore c a then c :: a :: t else a :: State.enterClaim s c t

/-- The granules that the waiting claims of a home group ask for: all of them will be served before a later claim of its,
or end (R162, R163). -/
def State.claimed (s : State) (g : Nat) : Nat :=
  (((s.core (s.group g).core).claims.filter fun q => q.group == g).map (·.n)).sum

/-- The claims of the issuing group's supplying home groups enter the core's claims; the first is the one that the
instruction counts with. -/
def State.enterClaims (s : State) (n : Nat) : State :=
  let lead := s.lowest
  s.eachHome fun s g => s.modCore (s.group g).core fun c =>
    let q : Claim := { group := g, ig := s.cur.ig, n := n, clock := s.clock.toNat, lead := g == lead }
    { c with claims := s.enterClaim q c.claims }
/-- Whether the issuing group has claims that wait: it issues its ms.rclaim again after a resume (R236, R389). -/
def State.claiming (s : State) : Bool := (s.core (s.group s.lowest).core).claims.any fun q => q.ig == s.cur.ig

/-- MS_RCLAIM (R162, R163): the claims wait in the core's order; the issue group stands until they are served. Issued
again after a resume it waits for the claims it has. -/
def execMsRclaim (x : MsArgs) (s : State) : Out :=
  let hs := s.suppliers s.cur
  if hs.isEmpty then s.finish 8 (.done s)
  else if !s.claiming && hs.any fun h => decide (48 < (s.group (s.gid h)).gran + s.claimed (s.gid h) + x.imm / 8) then
    s.finish 8 (.trap s 5 (BitVec.ofNat 64 x.imm))
  else
    let s' := if s.claiming then s else s.enterClaims (x.imm / 8)
    match s.finish 8 (.wait (s'.modIg s.cur fun g => { g with claim := true })) with
    | .next t => .next (t.settle s.cur.role)
    | o => o

/-- MS_RGIVE (R50, R162). -/
def execMsRgive (x : MsArgs) (s : State) : Out :=
  let hs := s.suppliers s.cur
  s.finish 8 (
    if hs.any fun h => decide ((s.group (s.gid h)).gran < 1 + x.imm / 8) then .trap s 5 (BitVec.ofNat 64 x.imm)
    else .done (s.eachHome fun s g =>
      let y := s.group g
      let n := y.gran - x.imm / 8
      (s.setGroup g { y with gran := n, v := y.v.filter fun p => decide (p.1 < 8 * n) }).modCore y.core fun c =>
        { c with free := c.free + x.imm / 8 }))

/-- The check of a sync object at `sA:sA+1` of each supplying home group, as an atomic (R306, R24). -/
def State.syncFail (s : State) (x : MsArgs) : Option Res :=
  (s.suppliers s.cur).findSome? fun h =>
    let a := s.readS64 (s.gid h) x.sa
    if a.toNat % 8 ≠ 0 then some (.trap s 3 a)
    else match s.check s.curCtx .both mxClass false a.toNat with
      | .bad 4 => some (.fault a.toNat 2)
      | .bad c => some (.trap s c a)
      | .ok _ => none

/-- The point of a scoped access to a class (R91): home for every class but 0, and for a class 5 access. -/
def accessPoint (place : Placement) (sc : Scope) (cls : Nat) : Point :=
  if cls = 0 then pointOf place sc else if cls = 5 ∧ sc = .none then .core else .home
def State.placeOf (s : State) (g : Nat) : Placement := (s.team (s.group g).team).place
/-- The point of an access of home group `g`: an access at the cluster point of a cluster with no bank in CACHE mode is
performed at the home point (R70). -/
def State.pointFor (s : State) (g : Nat) (sc : Scope) (cls : Nat) : Point :=
  match accessPoint (s.placeOf g) sc cls with
  | .cluster => if (s.cluster (s.groupCluster g)).cached then .cluster else .home
  | p => p

/-- Bytes read at a point; the values and the poisoned places. -/
def State.readBytes (s : State) (core : Nat) (p : Point) (loc va ctx n : Nat) (dr : DramRead) :
    State × List Byte × List Nat :=
  let r := (List.range n).foldl (fun (acc : State × List Byte × List Nat) i =>
    let (s, bs, ps) := acc
    let (s, b, bad) := s.readPoint core p (loc + i) (va + i) ctx 0 dr
    (s, bs ++ [b], if bad then ps ++ [va + i] else ps)) (s, [], [])
  (r.1.countLines (clusterOf core) (s.cluster (clusterOf core)) 0 (s.reach core ctx p ((List.range n).map (loc + ·))), r.2)
/-- Bytes read at a point after step 1 of R90. -/
def State.readAt (s : State) (core : Nat) (p : Point) (loc va ctx n : Nat) (dr : DramRead) :
    State × List Byte × List Nat :=
  (s.pushDown core p ctx ((List.range n).map (loc + ·))).readBytes core p loc va ctx n dr

/-- One home group's part of ms.acq (R306): the load at its point; complete when the value is enough. On a class 5 object
it acts at sys scope (R91). -/
def State.acqOne (s : State) (x : MsArgs) (g : Nat) : Except Res State :=
  let y := s.group g
  let a := s.readS64 g x.sa
  let want := s.readS64 g x.sb
  let place := (s.team s.curTeam).place
  let complete (s : State) (sc : Scope) (v : DWord) (bad : Option Nat) : Except Res State :=
    match bad with
    | some p => .error (.trap s 7 (BitVec.ofNat 64 p))
    | none =>
      if want ≤ v then
        .ok ((s.invalidate y.core s.curCtx place sc [some a.toNat]).modIg s.cur
          fun i => { i with acqDone := y.home :: i.acqDone })
      else .error (.wait s.block)
  if (s.ig s.cur).acqDone.contains y.home then .ok s
  else
    match s.check s.curCtx .both mxClass false a.toNat with
    | .bad _ => .error (.wait s)
    | .ok t =>
      match t.loc with
      | .peer d _ =>
        (match (s.ig s.cur).remote.find? fun p => p.1 == y.home with
        | some (_, v, psn) =>
          complete (s.modIg s.cur fun i => { i with remote := i.remote.filter fun p => p.1 != y.home }) x.scp v
            (if psn then some a.toNat else none)
        | none =>
          let asked := s.requests.any fun w => w.dest == .acq g s.cur
          let acc : LaneAcc := { lane := 0, addr := a.toNat, loc := t.loc.key, size := 8 }
          let req : PeerWait := { ctx := s.curCtx, peer := d, dest := .acq g s.cur, ask := .read, acc := acc }
          .error (.wait (if asked then s.block else (s.send req).block)))
      | l =>
        let (s, bs, ps) := s.readAt y.core (s.pointFor g x.scp t.cls) l.key a.toNat s.curCtx 8 .free
        complete s (if t.cls = 5 then .sys else x.scp) (BitVec.ofNat 64 (ofLE bs)) ps.head?

/-- MS_ACQ (R306). -/
def execMsAcq (x : MsArgs) (s : State) : Out :=
  s.finish 8 (match s.syncFail x with
    | some r => r
    | none => eachHomeRes s (fun s g => s.acqOne x g) (s.suppliers s.cur))

/-- MS_REL (R306): a release whose access is an atomic add; one operation in each supplying home group. -/
def execMsRel (x : MsArgs) (s : State) : Out :=
  s.finish 8 (
    if !s.room (some x.ac) 0 then .wait s
    else match s.syncFail x with
      | some r => r
      | none =>
        let id := s.nextUid
        let t := s.eachHome fun s g =>
          let a := s.readS64 g x.sa
          let lane := { s.globalLane .both mxClass 0 8 a with a := s.readS64 g x.sb }
          s.modGroup g fun y => y.addOp
            { id := id, kind := .relAdd, ig := s.cur.ig, ac := x.ac, scope := x.scp, rel := true, ty := .b64,
              outside := (s.ig s.cur).clause.isNone, lanes := [lane] }
        .done { t with nextUid := id + 1 })

end Sys2Proof.Machine
end

