-- ==== Sys2Proof/Machine/Perform.lean ====
section
/-! DEFINITION. The performing of outstanding operations (spec/03_ordering_machine.md R84 to R98,
spec/04_scopes_and_litmus.md R111 to R119, spec/12_instr_memory_sync.md R296 to R301) and the spontaneous moves of the
levels, the memory-side cache and the scrubber (R72, R88, R128, R129). A transition that is not enabled changes nothing
(log 11). -/

namespace Sys2Proof.Machine

/-! ### Operations and their lanes -/

def State.op? (s : State) (g id : Nat) : Option Op := (s.group g).ops.find? fun o => o.id == id
def State.modOp (s : State) (g id : Nat) (f : Op → Op) : State :=
  s.modGroup g fun x => { x with ops := x.ops.map fun o => if o.id = id then f o else o }
def State.modLane (s : State) (g id l : Nat) (f : LaneAcc → LaneAcc) : State :=
  s.modOp g id fun o => { o with lanes := o.lanes.map fun a => if a.lane = l then f a else a }
/-- The home groups of a team that have operation `id` outstanding: the parts of one instruction (R291). -/
def State.opGroups (s : State) (g id : Nat) : List Nat :=
  (s.teamGroups (s.group g).team).filter fun h => (s.group h).ops.any fun o => o.id == id
def Op.finished (o : Op) : Bool := o.lanes.all fun a => a.done && a.acked
/-- The scopes at which an access with an attribute acts, each with its objects (R96 to R98, R297): its lanes' addresses,
those in class 5 pages at sys scope (R91); for scratch no object. -/
def Op.syncs (o : Op) : List (Scope × List (Option Nat)) :=
  if o.scratch then [(o.scope, [none])]
  else
    let objs (host : Bool) : List (Option Nat) :=
      (distinct ((o.lanes.filter fun a => (a.cls == 5) == host).map (·.addr))).map some
    [(o.scope, objs false), (.sys, objs true)].filter fun p => !p.2.isEmpty

/-- A register of an operation's result, unless its granule has gone (R51). Whether a granule that the home group gave
back and claimed again is the one the operation was issued to write is not looked at: the result enters the new one (log
63). -/
def State.landWord (s : State) (g r l : Nat) (w : Nat) : State :=
  if r < 8 * (s.group g).gran || 384 ≤ r then s.putNumbered g r l (BitVec.ofNat 32 w) else s

/-- The bytes an access has read, in order. -/
def LaneAcc.bytes (a : LaneAcc) : List Byte := (List.range a.size).map fun i => SMap.look 0 a.got i
/-- A value in register `r`, or in the pair from `r` on: the words with their registers. -/
def wordsOf (r : Nat) (wide : Bool) (v : Nat) : List (Nat × Nat) :=
  if wide then [(r, v % 2 ^ 32), (r + 1, v / 2 ^ 32)] else [(r, v)]
/-- The registers and words that lane `a` of a finished operation writes, in order (R296, R299, R301). -/
def Op.results (o : Op) (a : LaneAcc) : List (Nat × Nat) :=
  match o.kind with
  | .load =>
    let b := WellFormed.memBytes o.ty
    (List.range o.cnt).flatMap fun e =>
      wordsOf (o.d + (if o.ty.is64 then 2 * e else e)) o.ty.is64
        (loadImage o.ty o.cv (ofLE ((a.bytes.drop (e * b)).take b)))
  | .atomic => if o.cnt = 0 then [] else wordsOf o.d o.ty.is64 (ofLE a.bytes)
  | .pop => wordsOf o.d true (ofLE a.bytes)
  | .query => wordsOf o.d false (ofLE a.bytes)
  | _ => []
/-- Results `lo` to `lo + n - 1` of lane `a` that have not been written go to their registers. -/
def State.landLane (s : State) (g : Nat) (o : Op) (a : LaneAcc) (lo n : Nat) : State :=
  ((o.results a).zipIdx).foldl (fun s p =>
    if lo ≤ p.2 ∧ p.2 < lo + n ∧ !a.landed.contains p.2 then s.landWord g p.1.1 a.lane p.1.2 else s) s
/-- Every result that is left goes to its register, and the operation ends. -/
def State.landOp (s : State) (g id : Nat) : State :=
  match s.op? g id with
  | some o => (o.lanes.foldl (fun s a => s.landLane g o a 0 (o.results a).length) s).endOpAt g id
  | none => s
/-- Whether lane `a` of an operation is performed: at its point or bank once its access is over, in a peer's queue once it
is accepted there, unless at sys scope or an acquire; a plain load through the core level once its registers are written
too (R84). -/
def Op.performed (o : Op) (a : LaneAcc) : Bool :=
  a.done && (a.acked || (o.kind == .load && o.scope != .sys && !o.acq && a.peer.isSome)) &&
    (o.kind != .load || o.scratch || o.scope != .none || (a.cls != 0 && a.cls != 5) ||
      (List.range (o.results a).length).all a.landed.contains)
/-- A home group's operation that is performed in all of its own lanes leaves its arrival counter, whatever the other home
groups of its instruction have still to do, and whichever of its results are still to be written (R84, R231, R291). -/
def Group.leave (x : Group) (id : Nat) : Group :=
  match x.ops.find? fun o => o.id == id with
  | none => x
  | some o =>
    if !o.accepted && o.lanes.all o.performed then
      { x with ops := x.ops.map fun q => if q.id = id then { q with accepted := true, counted := false } else q,
               ac := if o.counted then SMap.put 0 x.ac o.ac (SMap.look 0 x.ac o.ac - 1) else x.ac }
    else x
/-- Some results of one lane of an operation whose results are to come are written before the others (R231); with the last
one the operation ends. -/
def State.landPart (s : State) (g id l lo n : Nat) : State :=
  match s.op? g id with
  | none => s
  | some o =>
    let s := (o.lanes.filter fun a => a.lane == l).foldl (fun s a => s.landLane g o a lo n) s
    let s := s.modLane g id l fun a =>
      { a with landed := ((List.range n).map (lo + ·)).foldl (fun acc i => addTo i acc) a.landed }
    match s.op? g id with
    | some o =>
      if o.lanes.all fun a => (List.range (o.results a).length).all a.landed.contains then s.endOpAt g id
      else s.modGroup g fun x => x.leave id
    | none => s

/-- Whether the parts of operation `id` in all its home groups have made their accesses. -/
def State.finished (s : State) (gs : List Nat) (id : Nat) : Bool :=
  gs.all fun h => match s.op? h id with
    | some o => o.finished
    | none => true
/-- A part of a finished operation of a clause whose results are to come (R231). -/
def Group.toCome (x : Group) (id : Nat) : Group :=
  ({ x with ops := x.ops.map fun q => if q.id = id then { q with ready := true } else q } : Group).leave id
/-- The acquires of an operation's part (R94, R297). -/
def State.acquireOp (s : State) (g : Nat) (o : Op) : State :=
  if o.acq then o.syncs.foldl (fun s p => s.invalidate (s.group g).core (s.groupCtx g) (s.placeOf g) p.1 p.2) s else s

/-- The end of a part of an operation in home group `g`: nothing is written when the operation met poison; else its
registers are written, in a clause later; an acquire invalidates (R94), and its counter and flag fall (R229, R291). -/
def State.settlePart (s : State) (g id : Nat) (bad : Bool) : State :=
  match s.op? g id with
  | none => s
  | some o =>
    if o.ready then s
    else if bad then (s.acquireOp g o).endOpAt g id
    else if !o.outside && !o.acq && o.lanes.any fun a => !(o.results a).isEmpty then s.modGroup g fun x => x.toCome id
    else
      let s := o.lanes.foldl (fun s a => s.landLane g o a 0 (o.results a).length) s
      (s.acquireOp g o).endOpAt g id
/-- An operation whose accesses are over in every home group leaves: its poison trap is judged over all of its lanes
(R411), and each part ends; until then the parts that are performed leave their counters (R291). A store's part, which
reads nothing, ends by itself. -/
def State.settleOp (s : State) (g id : Nat) : State :=
  match s.op? g id with
  | none => s
  | some o =>
    let gs := match o.kind with
      | .load => s.opGroups g id
      | .atomic => s.opGroups g id
      | _ => [g]
    if !s.finished gs id then gs.foldl (fun s h => s.modGroup h fun x => x.leave id) s
    else
      let bad := gs.flatMap fun h => match s.op? h id with
        | some o => o.lanes.flatMap (·.psn)
        | none => []
      let s := match bad with
        | [] => s
        | a :: t => s.poisonTrap g o.ig (t.foldl min a)
      gs.foldl (fun s h => s.settlePart h id !bad.isEmpty) s

/-- The drain of a release (R93). -/
def State.drainOp (s : State) (g : Nat) (o : Op) : State :=
  if o.rel then o.syncs.foldl (fun s p => s.drain (s.group g).core (s.groupCtx g) (s.placeOf g) p.1 p.2) s else s

/-- A request to the peer of a lane's page enters its route's queue (R120). -/
def State.askPeer (s : State) (ctx : Nat) (dest : PeerFor) (ask : PeerAsk) (a : LaneAcc) : State :=
  s.send { ctx := ctx, peer := a.peer.getD 0, dest := dest, ask := ask, acc := a }

/-- A lane's access to a peer is accepted by the queue. A store below sys scope is performed then; a load below sys
scope that acquires nothing is performed then and has its registers still to come; any other waits for the answer
(R84). -/
def State.peerLane (s : State) (g : Nat) (o : Op) (a : LaneAcc) (ask : PeerAsk) : State :=
  let waits := match o.kind with
    | .store => o.scope == .sys
    | _ => true
  let s := s.askPeer (s.groupCtx g) (if waits then .op g o.id else .sent g o.id) ask a
  let s := s.modLane g o.id a.lane fun a => { a with done := true, acked := !waits }
  if o.kind = .load ∧ o.scope ≠ .sys ∧ !o.acq then
    s.modGroup g fun x => x.leave o.id
  else s

/-! ### Stores and loads -/

/-- One lane of a store (R84, R88, R90, R98). -/
def State.storeLane (s : State) (g : Nat) (o : Op) (a : LaneAcc) : State :=
  let x := s.group g
  let ctx := s.groupCtx g
  if o.scratch then
    (s.modScratch x.team fun m => m.write a.addr a.data).modLane g o.id a.lane fun a => { a with done := true }
  else if a.peer.isSome then s.peerLane g o a .write
  else
    let p := s.pointFor g o.scope a.cls
    let ws := (a.data.zipIdx).map fun b => (a.loc + b.2, a.addr + b.2, b.1)
    let s := if o.scope = .none then s else s.pushDown x.core p ctx (ws.map (·.1))
    let old := s.cluster (clusterOf x.core)
    let lines := if p = .cluster then s.reach x.core ctx p (ws.map (·.1)) else []
    ((s.writePoint x.core p ctx [] ws).countLines (clusterOf x.core) old 0 lines).modLane g o.id a.lane
      fun a => { a with done := true }
/-- Whether two lanes of an instruction touch a byte in common: by place, whatever addresses name it (R85, R114). -/
def LaneAcc.meets (a b : LaneAcc) (scratch : Bool) : Bool :=
  let spot (c : LaneAcc) : Nat := if scratch then c.addr else c.loc
  a.peer == b.peer && decide (spot b < spot a + a.size ∧ spot a < spot b + b.size)
/-- Whether a lower lane of a store, in whichever home group of its instruction, has still to write a byte of lane `a`
(R85). -/
def State.laneWaits (s : State) (gs : List Nat) (id : Nat) (a : LaneAcc) : Bool :=
  gs.any fun h => match s.op? h id with
    | some o => o.lanes.any fun b => !b.done && decide (b.lane < a.lane) && a.meets b o.scratch
    | none => false
/-- The given lanes of a store, each unless a lower lane is to write one of its bytes first, in ascending order. -/
def State.storeLanes (s : State) (g : Nat) (o : Op) (ls : List LaneAcc) : State :=
  let gs := s.opGroups g o.id
  ls.foldl (fun s a => if s.laneWaits gs o.id a then s else s.storeLane g o a) s

/-- One byte of a lane of a load, after step 1 of R90. -/
def State.loadByteOf (s : State) (g : Nat) (o : Op) (a : LaneAcc) (i : Nat) (dr : DramRead) : State × Byte × Bool :=
  let x := s.group g
  if o.scratch then
    let m := s.scratchOf x.team
    (s, SMap.look 0 m.bytes (a.addr + i), m.poisonedAt (a.addr + i))
  else
    s.readPoint x.core (s.pointFor g o.scope a.cls) (a.loc + i) (a.addr + i) (s.groupCtx g) o.rc dr

/-- The bytes of `lo` to `lo + n - 1` that a lane has not taken. -/
def LaneAcc.left (a : LaneAcc) (lo n : Nat) : List Nat :=
  ((List.range n).map (lo + ·)).filter fun i => decide (i < a.size) && !SMap.has a.got i
/-- Bytes `lo` to `lo + n - 1` of a lane of a load that it has not taken yet. -/
def State.loadPart (s : State) (g : Nat) (o : Op) (a : LaneAcc) (lo n : Nat) (dr : DramRead) : State :=
  if a.peer.isSome then (if a.done then s else s.peerLane g o a .read)
  else
    let p := s.pointFor g o.scope a.cls
    let s := if o.scratch || o.scope == .none then s
      else s.pushDown (s.group g).core p (s.groupCtx g) ((a.left lo n).map (a.loc + ·))
    let s := (a.left lo n).foldl (fun s i =>
      let (s, b, bad) := s.loadByteOf g o a i dr
      s.modLane g o.id a.lane fun a =>
        { a with got := SMap.ins a.got i b, psn := if bad then a.psn ++ [a.addr + i] else a.psn }) s
    s.modLane g o.id a.lane fun a => { a with done := decide (a.got.length = a.size) }

/-- The given parts of lanes of a load (lane, first byte, bytes), with the counting of R72. -/
def State.loadLanes (s : State) (g : Nat) (o : Op) (ls : List (LaneAcc × Nat × Nat)) (dr : DramRead) : State :=
  let core := (s.group g).core
  let lines := distinct (ls.flatMap fun p =>
    if o.scratch || p.1.peer.isSome then []
    else s.reach core (s.groupCtx g) (s.pointFor g o.scope p.1.cls) ((p.1.left p.2.1 p.2.2).map (p.1.loc + ·)))
  (ls.foldl (fun s p => s.loadPart g o p.1 p.2.1 p.2.2 dr) s).countLines (clusterOf core) (s.cluster (clusterOf core)) o.rc
    lines

/-- A part that may be taken at one step: any part of a plain access through the core level; of the others a whole lane
or aligned eight bytes (R88, R90). -/
def partOk (o : Op) (a : LaneAcc) (lo n : Nat) : Bool :=
  (!o.scratch && o.scope == .none && (a.cls == 0 || a.cls == 5)) ||
    (lo == 0 && decide (a.size ≤ n)) || (decide (lo % 8 = 0) && n == 8)

/-- The lanes of an operation not yet performed, ascending, or the one named. -/
def Op.todo (o : Op) (lane : Option Nat) : List LaneAcc :=
  o.lanes.filter fun a => !a.done && (match lane with
    | some l => a.lane == l
    | none => true)

/-- STORE_PERFORM (R88, R90): one lane of a store without a release, or all that are left in ascending order. -/
def execStorePerform (g op : Nat) (lane : Option Nat) (s : State) : Out :=
  match s.op? g op with
  | some o =>
    if o.kind = .store ∧ !o.scratch ∧ !o.rel then .next ((s.storeLanes g o (o.todo lane)).settleOp g op)
    else .next s
  | none => .next s

/-- What a tq form reads (R343). -/
def State.tqValue (s : State) (g : Nat) (o : Op) : Nat :=
  let t := (s.group g).team
  let p := s.pair (s.teamPair t)
  match o.sel with
  | 0 => p.heldBy (s.team t).ctx
  | 1 => p.freeGranules
  | 2 => (p.window.filter fun e => e.team == t).length
  | 3 => (s.team t).krec.tiles
  | _ =>
    let d := p.entry ((p.slot t o.bank).getD 0)
    d.tile.state + d.tile.fmt * 2 ^ 5 + d.tile.rank * 2 ^ 10 + d.ngran * 2 ^ 16
/-- A tq form reads its value, a tq.info once the entries before it have committed (R343). -/
def State.queryPerform (s : State) (g : Nat) (o : Op) : State :=
  if !(s.queryAwaits g o).isEmpty then s
  else
    (s.modOp g o.id fun p => { p with lanes := p.lanes.map fun a =>
      { a with done := true, got := (leBytes 4 (s.tqValue g o)).zipIdx.map fun b => (b.2, b.1) } }).settlePart g o.id false

/-- LOAD_PERFORM (R88, R231, R343, R411): a tq form reads its value; a part of one lane of a load, or all that is left; of
an operation whose results are to come, some results of one lane (as `part` numbers them) or all that are left are
written. The last part of an acquire is taken by ACQUIRE_PERFORM. -/
def execLoadPerform (g op : Nat) (part : Option Part) (dr : DramRead) (s : State) : Out :=
  match s.op? g op with
  | some o =>
    if o.ready then
      .next (match part with
        | none => s.landOp g op
        | some p => s.landPart g op p.lane p.lo p.n)
    else if o.kind = .query then .next (s.queryPerform g o)
    else if o.kind = .load ∧ !o.scratch then
      let s := match part with
        | none => s.loadLanes g o ((o.todo none).map fun a => (a, 0, a.size)) dr
        | some p => s.loadLanes g o
            (((o.todo (some p.lane)).filter fun a => partOk o a p.lo p.n).map fun a => (a, p.lo, p.n)) dr
      .next (if o.acq then s else s.settleOp g op)
    else .next s
  | none => .next s

/-- ACQUIRE_PERFORM (R94, R98): the rest of an acquire's accesses, its registers, and its invalidation. -/
def execAcquirePerform (g op : Nat) (dr : DramRead) (s : State) : Out :=
  match s.op? g op with
  | some o =>
    if o.kind = .load ∧ o.acq then
      .next ((s.loadLanes g o ((o.todo none).map fun a => (a, 0, a.size)) dr).settleOp g op)
    else .next s
  | none => .next s

/-! ### Atomics (R112 to R119) -/

/-- The lanes of an atomic's instruction that are not performed, each with its home group. -/
def State.lanesLeft (s : State) (gs : List Nat) (id : Nat) : List (Nat × LaneAcc) :=
  gs.flatMap fun g => match s.op? g id with
    | some o => (o.lanes.filter fun a => !a.done).map fun a => (g, a)
    | none => []
/-- Those on the word that a lane names as `addr`, by whatever addresses they name it, in ascending lane order (R114). -/
def State.wordLanes (s : State) (gs : List Nat) (id addr : Nat) (scratch : Bool) : List (Nat × LaneAcc) :=
  let all := s.lanesLeft gs id
  match all.find? fun p => p.2.addr == addr with
  | none => []
  | some q => (List.range 96).flatMap fun l => all.filter fun p => p.2.lane == l && p.2.meets q.2 scratch

/-- The value a lane reads and the word after all lanes. -/
def atomFold (op : AtomCode) (t : Ty) (v : Nat) : List (Nat × LaneAcc) → List Nat × Nat
  | [] => ([], v)
  | p :: rest =>
    let (olds, w) := atomFold op t (atomResult op t v p.2.a.toNat p.2.c.toNat) rest
    (v :: olds, w)

/-- Marks an atomic's lane performed with the value it read. -/
def State.atomDone (s : State) (g id l size old : Nat) (bad : List Nat) : State :=
  s.modLane g id l fun a =>
    { a with done := true, psn := bad.map (a.addr + ·), got := (leBytes size old).zipIdx.map fun p => (p.2, p.1) }

/-- Whether some lane of an atomic's instruction has met poison, or would meet it now: then no lane writes its word
(R133, R411). -/
def State.atomPoison (s : State) (gs : List Nat) (id : Nat) : Bool :=
  gs.any fun h => match s.op? h id with
    | none => false
    | some o => o.lanes.any fun a => !a.psn.isEmpty || (!a.done && a.peer.isNone && (List.range a.size).any fun i =>
        if o.scratch then (s.scratchOf (s.group h).team).poisonedAt (a.addr + i)
        else s.poisonAt (s.group h).core (s.groupCtx h) (s.pointFor h o.scope a.cls) (a.loc + i))
/-- Whether a level at or below a point holds a byte of a context, so that an access at the point does not ask home. -/
def State.heldAbove (s : State) (core ctx : Nat) (p : Point) (k : Nat) : Bool :=
  let below := ((s.cluster (clusterOf core)).level.find k).isSome
  match p with
  | .core => ((s.core core).level.serves (tagged ctx k)).isSome || below
  | .cluster => below
  | .home => false
/-- The bytes that the lanes of an atomic's instruction will read from home are read from DRAM before any lane writes its
word, so that poison found there is known (R130, R411). That these reads are one step is the model's reading, and a word
at a peer is read only when its turn comes (log 80). `dr` is what the read of the word at `addr` meets. -/
def State.atomProbe (s : State) (gs : List Nat) (o : Op) (addr : Nat) (dr : DramRead) : State :=
  (s.lanesLeft gs o.id).foldl (fun s p =>
    let core := (s.group p.1).core
    let ctx := s.groupCtx p.1
    if o.scratch || p.2.peer.isSome then s
    else (List.range p.2.size).foldl (fun s i =>
      if s.heldAbove core ctx (s.pointFor p.1 o.scope p.2.cls) (p.2.loc + i) then s
      else s.fill ctx (p.2.loc + i) (if p.2.addr = addr then dr else .free)) s) s

/-- An atomic's word in scratch, at its bank (R98, R301). -/
def State.scratchWord (s : State) (o : Op) (team addr : Nat) (quiet : Bool) (ls : List (Nat × LaneAcc)) : State :=
  let n := if o.ty.is64 then 8 else 4
  let m := s.scratchOf team
  let bad := (List.range n).filter fun i => m.poisonedAt (addr + i)
  let (olds, w) := atomFold o.sel o.ty (ofLE (m.read addr n)) ls
  let s := if bad.isEmpty && !quiet then s.modScratch team fun m => m.write addr (leBytes n w) else s
  (ls.zip olds).foldl (fun s p => s.atomDone p.1.1 o.id p.1.2.lane n p.2 bad) s

/-- An atomic's word at its point: one step for all its lanes (R112, R114): step 1 of R90, the recall of R89 at home, the
read, and unless a lane of the instruction has met poison (`quiet`) the write. A gate's word is taken at home (R360). -/
def State.globalWord (s : State) (g : Nat) (o : Op) (a : LaneAcc) (quiet : Bool) (ls : List (Nat × LaneAcc))
    (dr : DramRead) : State :=
  let x := s.group g
  let ctx := s.groupCtx g
  let n := a.size
  let armed := s.gated a.loc n
  let p := if armed then .home else s.pointFor g o.scope a.cls
  let ks := (List.range n).map (a.loc + ·)
  let s := s.pushDown x.core p ctx ks
  let (s, back) := if p = .home then s.recallBytes ctx ks else (s, [])
  let (s, bs, bad) := s.readBytes x.core p a.loc a.addr ctx n dr
  let (olds, w) := atomFold o.sel o.ty (ofLE bs) ls
  let s := if bad.isEmpty && !quiet then
    s.writePoint x.core p ctx back (((leBytes n w).zipIdx).map fun b => (a.loc + b.2, a.addr + b.2, b.1)) else s
  let t := s.team x.team
  let s := if armed then s.gateStep a.loc n (gidOf t.num x.home) t.num x.home else s
  (ls.zip olds).foldl (fun s p => s.atomDone p.1.1 o.id p.1.2.lane n p.2 (bad.map (· - a.addr))) s

/-- An atomic's word at a peer: one request for all its lanes (R114, R119). -/
def State.peerWord (s : State) (g : Nat) (o : Op) (a : LaneAcc) (ls : List (Nat × LaneAcc)) : State :=
  ls.foldl (fun s p => s.modLane p.1 o.id p.2.lane fun a => { a with done := true, acked := false })
    (s.askPeer (s.groupCtx g) (.op g o.id) (.atomic o.sel o.ty ls) a)

/-- One word of an atomic, once no release of a home group whose lane it is holds it, with their drains before it and the
ends of the operations after it (R95). -/
def State.atomicWord (s : State) (g : Nat) (o : Op) (addr : Nat) (dr : DramRead) : State :=
  let gs := s.opGroups g o.id
  let ls := s.wordLanes gs o.id addr o.scratch
  match ls with
  | [] => s
  | (h, a) :: _ =>
    let x := s.group h
    let hs := distinct (ls.map (·.1))
    if (hs.any fun h => (s.op? h o.id).any (s.relHeld h)) ||
        (!o.scratch && s.gateHolds a.loc a.size (gidOf (s.team x.team).num x.home)) then s
    else
      let s := hs.foldl (fun s h => match s.op? h o.id with
        | some p => s.drainOp h p
        | none => s) s
      let s := s.atomProbe gs o addr dr
      let quiet := s.atomPoison gs o.id
      let s := if o.scratch then s.scratchWord o x.team a.addr quiet ls
        else if a.peer.isSome then s.peerWord h o a ls
        else s.globalWord h o a quiet ls dr
      s.settleOp g o.id

/-- ATOMIC_PERFORM (R112, R114, R95, R118, R119). -/
def execAtomicPerform (g op addr : Nat) (dr : DramRead) (s : State) : Out :=
  match s.op? g op with
  | some o => .next (if o.kind = .atomic ∧ !o.scratch then s.atomicWord g o addr dr else s)
  | none => .next s

/-- The add of ms.rel at its point (R306). -/
def State.relAdd (s : State) (g : Nat) (o : Op) (dr : DramRead) : State :=
  match o.todo none with
  | [] => s
  | a :: _ =>
    let x := s.group g
    if s.relHeld g o || s.gateHolds a.loc a.size (gidOf (s.team x.team).num x.home) then s
    else
      let s := s.drainOp g o
      if a.peer.isSome then s.peerWord g { o with sel := 0 } a [(g, a)]
      else s.globalWord g { o with sel := 0 } a false [(g, a)] dr

/-- RELEASE_PERFORM (R93, R98): the drain, then the release's stores, or the add of ms.rel, at the point. -/
def execReleasePerform (g op : Nat) (dr : DramRead) (s : State) : Out :=
  match s.op? g op with
  | some o =>
    if s.relHeld g o then .next s
    else if o.kind = .store ∧ o.rel then .next (((s.drainOp g o).storeLanes g o (o.todo none)).settleOp g op)
    else if o.kind = .relAdd then .next ((s.relAdd g o dr).settleOp g op)
    else .next s
  | none => .next s

/-- SCRATCH_ACCESS_PERFORM (R98): one lane, for an atomic its word, or all that is left, at the bank. -/
def execScratchAccessPerform (g op : Nat) (lane : Option Nat) (s : State) : Out :=
  match s.op? g op with
  | some o =>
    if !o.scratch || o.ready then .next s
    else
      match o.kind with
      | .store => if o.rel then .next s else .next ((s.storeLanes g o (o.todo lane)).settleOp g op)
      | .load =>
        if o.acq then .next s
        else .next (((o.todo lane).foldl (fun s a => s.loadPart g o a 0 a.size .free) s).settleOp g op)
      | .atomic =>
        .next ((distinct ((o.todo lane).map (·.addr))).foldl (fun s addr =>
          match s.op? g op with
          | some o => s.atomicWord g o addr .free
          | none => s) s)
      | _ => .next s
  | none => .next s

/-! ### FIFO banks (R78, R299) -/

/-- FIFO_PUSH_PERFORM: one entry of the whole issue group, with the mask of its active lanes. -/
def execFifoPushPerform (g op : Nat) (s : State) : Out :=
  match s.op? g op with
  | some o =>
    let c := s.groupCluster g
    let b := (s.cluster c).bank o.bank
    if o.kind = .push ∧ b.mode = 3 ∧ !b.zero ∧ b.fifo.length < 512 then
      let gs := s.opGroups g op
      let ls := gs.flatMap fun h => match s.op? h op with
        | some o => o.lanes
        | none => []
      let m : LaneMask := (ls.filter fun a => !a.done).foldl (fun m a => m ||| BitVec.twoPow 96 a.lane) 0
      let v : Vec := (List.range 96).map fun l => match ls.find? fun a => a.lane == l with
        | some a => a.a.truncate 32
        | none => 0
      let s := s.modBank c o.bank fun b => { b with fifo := b.fifo ++ [(m, v)] }
      .next (gs.foldl (fun s h => s.endOpAt h op) s)
    else .next s
  | none => .next s

/-- FIFO_POP_PERFORM: the oldest entry to the active lanes; in a clause their registers are written later (R231). -/
def execFifoPopPerform (g op : Nat) (s : State) : Out :=
  match s.op? g op with
  | some o =>
    let c := s.groupCluster g
    let b := (s.cluster c).bank o.bank
    match b.fifo with
    | [] => .next s
    | (m, v) :: rest =>
      if o.kind = .pop ∧ b.mode = 3 ∧ !o.ready then
        let gs := s.opGroups g op
        let s := s.modBank c o.bank fun b => { b with fifo := rest }
        let word (l : Nat) : Nat := (v.getD l 0).toNat + (if m.getLsbD l then 2 ^ 32 else 0)
        .next (gs.foldl (fun s h =>
          (s.modOp h op fun o => { o with lanes := o.lanes.map fun a =>
            { a with done := true, size := 8, got := (leBytes 8 (word a.lane)).zipIdx.map fun p => (p.2, p.1) } }).settlePart
            h op false) s)
      else .next s
  | none => .next s

/-! ### Spontaneous moves -/

/-- CORE_WRITE_DOWN (R88): enabled for a line with a dirty byte; a line of a core level is named with its context tag
(`tagged`). -/
def execCoreWriteDown (core line : Nat) (s : State) : Out :=
  .next (if ((s.core core).level.dirtyBytes line).isEmpty then s else s.coreDown core line)
/-- CLUSTER_WRITE_DOWN (R88, R89). -/
def execClusterWriteDown (cluster line : Nat) (s : State) : Out :=
  .next (if ((s.cluster cluster).level.dirtyBytes line).isEmpty then s else s.clusterDown cluster line)
/-- DROP (R88): a line with no dirty byte becomes absent. -/
def execDropLine (atCore : Bool) (unit line : Nat) (s : State) : Out :=
  .next (if atCore then
      (if ((s.core unit).level.dirtyBytes line).isEmpty then
        s.modCore unit fun x => { x with level := x.level.drop line } else s)
    else if ((s.cluster unit).level.dirtyBytes line).isEmpty then s.dropClusterLine unit line
    else s)

/-- PIN_COUNTER_AGEING (R71 to R73): after AGE times 1,024 accesses every counter is halved; the unpinned lines whose
counter has changed are considered for promotion in ascending line order (log 9). Accesses are counted whatever AGE is,
and a write of PINCFG keeps the count (log 64). -/
def execPinCounterAgeing (cluster : Nat) (s : State) : Out :=
  let x := s.cluster cluster
  let age := x.pincfg.toNat / 2 ^ 8 % 2 ^ 12
  .next (if age ≠ 0 ∧ age * 1024 ≤ x.accesses then
    s.setCluster cluster ((x.lines.filter fun p => p.2.count != 0).foldl (fun (y : Cluster) p => y.promote p.1)
      { x with accesses := x.accesses - age * 1024,
               lines := x.lines.map fun p => (p.1, { p.2 with count := p.2.count / 2 }) })
    else s)

/-- MSC_WRITEBACK (R128, R132): a dirty line, merged with DRAM where it is not fully valid, is encrypted and leaves; a
write-back that fails loses it with a record of kind 0x4. -/
def execMscWriteback (line : Nat) (ok : Bool) (s : State) : Out :=
  match findKey s.msc line with
  | some m =>
    .next (if !m.dirty then s
      else if ok then s.evictHome line m
      else ((if m.valid = allValid then s else s.fetchLine m.slot line .free).loseLine line).postError (errRecord 4 m.slot 0 (64 * line)))
  | none => .next s

/-- PATROL_SCRUB (R129, R130): the scrubber reads a DRAM line and writes corrected data back; `sram` is a double-bit
error that it, or any access, meets in the first or second sector of the cached line. A record names the slot of the line
in the cache, or of the context whose line it is (R131). -/
def execPatrolScrub (line : Nat) (dr : DramRead) (sram : Option Bool) (s : State) : Out :=
  let base := 64 * line
  let slot := match findKey s.msc line with
    | some m => m.slot
    | none => s.ownerAt base
  let (s, dr) := s.dramFor line dr
  let s := match dr with
    | .clean => s
    | .free => s
    | .corrected => s.modStack (stackOf base) fun x => { x with corrected := x.corrected + 1 }
    | .transient => s.postError (errRecord 1 slot 0 base)
    | .lasting =>
      let mark (p : Nat × DramLine) : Nat × DramLine :=
        if p.1 = line then (p.1, { p.2 with psn0 := true, psn1 := true }) else p
      { s with homePoison := addTo (base / 32) (addTo (base / 32 + 1) s.homePoison),
               dram := s.dram.map mark }.postError (errRecord 2 slot 0 base)
  match sram with
  | none => .next s
  | some up =>
    if SMap.has s.msc line then
      .next ({ s with homePoison := addTo (base / 32 + (if up then 1 else 0)) s.homePoison }.postError
        (errRecord 3 slot 0 base))
    else .next s

end Sys2Proof.Machine
end

