-- ==== Sys2Proof/Machine/Engine.lean ====
section
/-! DEFINITION. What the engines share (spec/03_ordering_machine.md R99, spec/01_address_spaces.md R27): reads and
writes of global memory through the context's tables with their poison, engine records, and the joins of R101. -/

namespace Sys2Proof.Machine

/-- A byte of global memory as an engine with no cluster reads it: from home, with its poison; or the cause of a failed
check. No such engine reads a page of class 6 (R20, R99). -/
def State.engineByte (s : State) (ctx va : Nat) (permits : Nat → Bool) (dr : DramRead) : State × Except Nat (Byte × Bool) :=
  match s.check ctx .rd permits false va with
  | .bad e => (s, .error e)
  | .ok t =>
    match t.loc with
    | .peer _ _ => (s, .error 6)
    | l =>
      let (s, b, bad) := s.readHome ctx l.key dr
      (s, .ok (b, bad))

/-- What an engine's read of some bytes comes to: the bytes with their poison, or the place and cause of the first
failure. -/
def State.engineRead (s : State) (ctx va : Nat) (permits : Nat → Bool) (dr : DramRead) :
    Nat → State × Except (Nat × Nat) (List (Byte × Bool))
  | 0 => (s, .ok [])
  | n + 1 =>
    match s.engineByte ctx va permits dr with
    | (s, .error e) => (s, .error (va, e))
    | (s, .ok b) =>
      match State.engineRead s ctx (va + 1) permits dr n with
      | (s, .ok bs) => (s, .ok (b :: bs))
      | r => r

/-- The places of `n` bytes an engine is to read or write, or the place and cause of the first failure. -/
def State.engineAim (s : State) (ctx va : Nat) (need : Need) (permits : Nat → Bool) : Nat → Except (Nat × Nat) (List Trans)
  | 0 => .ok []
  | n + 1 =>
    match s.check ctx need permits (need == .wr) va with
    | .bad e => .error (va, e)
    | .ok t =>
      match State.engineAim s ctx (va + 1) need permits n with
      | .ok ts => .ok (t :: ts)
      | .error e => .error e

/-- Placed bytes cut where their line changes. -/
def byLine {α : Type} : List (Trans × α) → List (List (Trans × α))
  | [] => []
  | b :: t =>
    match byLine t with
    | (c :: cs) :: rest =>
      if c.1.page = b.1.page ∧ c.1.loc.key / 64 = b.1.loc.key / 64 then (b :: c :: cs) :: rest else [b] :: (c :: cs) :: rest
    | r => [b] :: r

/-- A request for part of one line that an engine sends to a peer: its first byte is at the virtual address `va`, and at
place `off` of what the engine moves (R99, R120). -/
def enginePeer (ctx va off : Nat) (t : Trans) (dest : PeerFor) (ask : PeerAsk) (bs : List (Byte × Bool)) : Option PeerWait :=
  match t.loc with
  | .peer d _ => some { ctx := ctx, peer := d, dest := dest, ask := ask,
                        acc := { lane := off, addr := va, loc := t.loc.key, size := bs.length, data := bs.map (·.1),
                                 psn := ((bs.zipIdx).filter (·.1.2)).map (·.2) } }
  | _ => none
/-- The bytes of `ts` that this device or its host holds, as an engine of cluster `c` reads them: from the cluster point
if it holds the byte, else from home (R99); none for those of a peer. -/
def State.engineLocal (s : State) (c ctx : Nat) (dr : DramRead) : List Trans → State × List (Option (Byte × Bool))
  | [] => (s, [])
  | t :: ts =>
    match t.loc with
    | .peer _ _ =>
      let (s, bs) := State.engineLocal s c ctx dr ts
      (s, none :: bs)
    | l =>
      let (s, b) := s.readEngine (some c) ctx l.key dr
      let (s, bs) := State.engineLocal s c ctx dr ts
      (s, some b :: bs)
/-- An engine of cluster `c` reads `n` bytes, the first of them at place `off` of what it moves: those of a peer are asked
for through the route's queue, a line at a time, and come with the answers for `dest` (R39, R120); or the place and cause
of the first failed check. Its requests of the cluster cache are counted (R72). -/
def State.engineGather (s : State) (c ctx va : Nat) (permits : Nat → Bool) (dr : DramRead) (off n : Nat) (dest : PeerFor) :
    State × Except (Nat × Nat) (List (Option (Byte × Bool))) :=
  match s.engineAim ctx va .rd permits n with
  | .error e => (s, .error e)
  | .ok ts =>
    let old := s.cluster c
    let lines := linesOf ((ts.filter fun t => t.cls == 0 || t.cls == 5).map (·.loc.key))
    let (s, bs) := s.engineLocal c ctx dr ts
    let asks := (byLine ts.zipIdx).filterMap fun part => match part with
      | p :: _ => enginePeer ctx (va + p.2) (off + p.2) p.1 dest .read (part.map fun _ => (0, false))
      | [] => none
    ((s.countLines c old 0 lines).sendAll asks, .ok bs)
/-- What a peer answers to a read of `n` bytes from place `off` on enters the bytes so far. -/
def answerInto (off : Nat) (got : List (Byte × Bool)) (bs : List (Option (Byte × Bool))) : List (Option (Byte × Bool)) :=
  (bs.zipIdx).map fun p => if off ≤ p.2 ∧ p.2 < off + got.length then got[p.2 - off]? else p.1
/-- The bytes, when all have come. -/
def allCome (bs : List (Option (Byte × Bool))) : Option (List (Byte × Bool)) :=
  if bs.all (·.isSome) then some (bs.filterMap id) else none

/-- Sectors of home bytes marked poisoned. -/
def State.poisonHome (s : State) (ks : List Nat) : State :=
  { s with homePoison := ks.foldl (fun l k => addTo (k / 32) l) s.homePoison }

/-- Bytes written at home with the poison they carry: a sector that receives a poisoned byte is written poisoned
(R132, R319). -/
def State.engineWrite (s : State) (ctx : Nat) (ws : List (Nat × Byte × Bool)) : State :=
  (s.homeWrite ctx none (ws.map fun w => (w.1, w.2.1))).poisonHome ((ws.filter (·.2.2)).map (·.1))

/-- Bytes with their poison written by an engine to a virtual address, at home or, as requests for `dest`, at a peer;
answers whether a request was sent; or the place and cause of the first failure. -/
def State.engineSend (s : State) (ctx va : Nat) (permits : Nat → Bool) (bs : List (Byte × Bool)) (dest : PeerFor) :
    Except (Nat × Nat) (State × Bool) :=
  match s.engineAim ctx va .wr permits bs.length with
  | .error e => .error e
  | .ok ts =>
    .ok ((byLine (ts.zip bs.zipIdx)).foldl (fun (acc : State × Bool) part =>
      match part with
      | [] => acc
      | p :: _ =>
        match enginePeer ctx (va + p.2.2) p.2.2 p.1 dest .write (part.map (·.2.1)) with
        | some w => (acc.1.send w, true)
        | none => (acc.1.engineWrite ctx (part.map fun q => (q.1.loc.key, q.2.1)), acc.2)) (s, false))

/-- A write whose answer nothing waits for. -/
def State.enginePut (s : State) (ctx va : Nat) (permits : Nat → Bool) (bs : List (Byte × Bool)) :
    Except (Nat × Nat) State :=
  match s.engineSend ctx va permits bs .nobody with
  | .ok (s, _) => .ok s
  | .error e => .error e

/-- The first address of a span whose check fails, and the cause; one check for each 64 KiB, the least page (R14). -/
def State.spanFail (s : State) (ctx : Nat) (need : Need) (permits : Nat → Bool) (va n : Nat) : Option (Nat × Nat) :=
  (List.range ((va + n + 65535) / 65536 - va / 65536)).findSome? fun i =>
    let a := max va (65536 * (va / 65536 + i))
    match s.check ctx need permits false a with
    | .bad c => some (a, c)
    | .ok _ => none

/-- Whether every mapped page of a span is of a class that `permits` lets pass. -/
def State.spanClass (s : State) (ctx : Nat) (permits : Nat → Bool) (va n : Nat) : Bool :=
  (List.range ((va + n + 65535) / 65536 - va / 65536)).all fun i =>
    decide (2 ^ 32 ≤ va / 65536 + i) ||
    match walk s.ptab (65536 * (va / 65536 + i)) 3 (s.ctx ctx).root false with
    | .inl (e, _) => permits (pte e 6 3)
    | .inr _ => true

/-- The classes of a status word (R136, R364). -/
def wordClass (c : Nat) : Bool := decide (c ≤ 2)

/-- The cause of a failed check as an engine status: 2 XLATE, 3 PROT, 4 CLASS (R318). -/
def engineCode (cause : Nat) : Nat := if cause = 4 then 2 else if cause = 6 then 4 else 3

/-- R27: a translation fault of an engine entry posts a record; answers the fault's number. -/
def State.engineFault (s : State) (ctx va kind team home : Nat) : Nat × State :=
  s.postFault ctx (.access va kind (s.team team).num home)

/-- A list cut into `k` pieces of `z` members. -/
def chop {α : Type} (z : Nat) : Nat → List α → List (List α)
  | 0, _ => []
  | k + 1, l => l.take z :: chop z k (l.drop z)

/-- Bytes that carry no poison. -/
def clean (bs : List Byte) : List (Byte × Bool) := bs.map fun b => (b, false)
def plain (bs : List (Byte × Bool)) : List Byte := bs.map (·.1)

/-! ### Joins (R101) -/

/-- Whether join `id` stands at the head of a queue, or is not in it. -/
def headJoin {α : Type} (q : List (Queued α)) (id : Nat) : Bool :=
  match q with
  | .join i :: _ => i == id || !(q.any fun e => match e with
      | .join j => j == id
      | .entry _ => false)
  | _ => !(q.any fun e => match e with
      | .join j => j == id
      | .entry _ => false)
def dropJoin {α : Type} (q : List (Queued α)) (id : Nat) : List (Queued α) :=
  q.filter fun e => match e with
    | .join j => j != id
    | .entry _ => true

/-- Whether a join in a tile window has no uncommitted entry of its team ahead of it (R192). -/
def windowJoin (w : List WEntry) (id : Nat) : Bool :=
  match w.find? fun e => e.id == id with
  | none => true
  | some j => (w.takeWhile fun e => e.id != id).all fun e => e.team != j.team

/-- QUEUE_JOIN_PERFORM (R101): the join entries of one ms.qjoin leave every queue in one step, once each is at the head.
-/
def execQueueJoinPerform (join : Nat) (s : State) : Out :=
  match findKey s.joins join with
  | some [_, core, team] =>
    let k := s.core core
    let ready := (s.team team).resident && (k.copy.all fun q => headJoin q.2 join) && headJoin k.xform join && headJoin s.dmaQ join &&
      (s.stks.all fun t => headJoin t.2.nmu join) && windowJoin (s.pair (pairOf core)).window join
    if ready then
      let s := s.modCore core fun c =>
        { c with copy := c.copy.map fun q => (q.1, dropJoin q.2 join), xform := dropJoin c.xform join }
      let s := s.modPair (pairOf core) fun p => { p with window := p.window.filter fun e => e.id != join }
      .next { s with dmaQ := dropJoin s.dmaQ join, joins := SMap.erase s.joins join,
                     stks := s.stks.map fun t => (t.1, { t.2 with nmu := dropJoin t.2.nmu join }) }
    else .next s
  | _ => .next s

end Sys2Proof.Machine
end

