-- ==== Sys2Proof/Machine/Copy.lean ====
section
/-! DEFINITION. The copy engine (spec/12_instr_memory_sync.md R312 to R319): the ce forms and the landing of chunks. -/

namespace Sys2Proof.Machine

/-! ### The length word and the landing handle (R313, R316) -/

def ceBytes (w : Word) : Nat := if w.toNat % 2 ^ 16 = 0 then 32768 else w.toNat % 2 ^ 16
def ceFirst (w : Word) : Nat := w.toNat / 2 ^ 16 % 2 ^ 6
def chunksOf (n : Nat) : Nat := (n + 511) / 512

structure Handle where
  vf : Nat
  fin : Bool
  stk : Nat
  buf : Nat
  con : Nat
  elem : Nat
  bad : Bool
def handleOf (h : DWord) : Handle :=
  let n := h.toNat
  { vf := n / 2 ^ 58 % 4, fin := n / 2 ^ 57 % 2 == 1, stk := n / 2 ^ 54 % 8, buf := n / 2 ^ 48 % 64,
    con := n / 2 ^ 32 % 2 ^ 16, elem := n % 2 ^ 32, bad := decide (2 ^ 60 ≤ n) }
/-- Bytes of a value of a packet format (R316). -/
def vfSize : Nat → Nat
  | 0 => 8 | 1 => 4 | _ => 2

/-! ### Issue (R312 to R314) -/

/-- The forms of ce. -/
inductive CeForm where
  | cp | chain | fill
  deriving DecidableEq, Repr

/-- The operands of an entry of home group `g`. -/
def State.ceSrc (s : State) (f : CeForm) (x : CeArgs) (g : Nat) : Place :=
  match f with
  | .fill => .pattern (s.readS g x.src)
  | _ =>
    if WellFormed.ceSsp x.sel = 0 then .global (s.readS64 g x.src + sext24 x.offs).toNat
    else .scratch ((s.readS g x.src).setWidth 64 + sext24 x.offs).toNat
def State.ceDst (s : State) (f : CeForm) (x : CeArgs) (g : Nat) : Place :=
  match f with
  | .chain => .receivers [] x.offd
  | _ =>
    match WellFormed.ceDsp x.sel with
    | 0 => .global (s.readS64 g x.dst + sext24 x.offd).toNat
    | 1 => .scratch ((s.readS g x.dst).setWidth 64 + sext24 x.offd).toNat
    | _ => .landing (s.readS64 g x.dst) (if x.offd / 2 ^ 23 = 1 then some (x.offd % 2 ^ 12) else none)

/-- The checks of R314 for one home group: the cause and the trap address. A scratch offset is a 64-bit value (R10). -/
def State.ceFail (s : State) (f : CeForm) (x : CeArgs) (g : Nat) : Option (Nat × DWord) :=
  let w := s.readS g x.ln
  let n := ceBytes w
  let nomap := WellFormed.ceNomap x.sel
  let size := (s.scratchOf (s.group g).team).size
  let src := s.ceSrc f x g
  let dst := s.ceDst f x g
  let map := (s.readS g x.map).toNat
  let unit := match dst with
    | .landing h _ => max 4 (vfSize (handleOf h).vf)
    | _ => 4
  let at_ (p : Place) : List Nat := match p with
    | .global a => [a]
    | .scratch o => [o]
    | .receivers _ o => [o]
    | _ => []
  let far (p : Place) : Option (Nat × DWord) := match p with
    | .global a => if 2 ^ 48 ≤ a then some (5, BitVec.ofNat 64 a) else none
    | _ => none
  let out (p : Place) : Option (Nat × DWord) := match p with
    | .scratch o => if size < o + n then some (5, BitVec.ofNat 64 o) else none
    | _ => none
  if w.toNat / 2 ^ 22 ≠ 0 ∨ 32768 < n ∨ (!nomap ∧ 64 < ceFirst w + chunksOf n) then some (5, w.setWidth 64)
  else
    match (((at_ src).filter fun a => a % unit != 0) ++ (at_ dst).filter fun a => a % 4 != 0).head? with
    | some a => some (3, BitVec.ofNat 64 a)
    | none =>
      if n % unit ≠ 0 then some (3, BitVec.ofNat 64 n)
      else if !nomap ∧ map % 4 ≠ 0 then some (3, BitVec.ofNat 64 map)
      else
        match (far src).orElse fun _ => (far dst).orElse fun _ => (out src).orElse fun _ => out dst with
        | some r => some r
        | none => if !nomap ∧ f ≠ .chain ∧ size < map + 16 then some (5, BitVec.ofNat 64 map) else none

/-- Adds to INB of an allocation (R77). -/
def State.addInb (s : State) (a : Nat) : State := s.modAlloc a fun x => { x with inb := x.inb + 1 }
def State.subInb (s : State) (a : Nat) : State := s.modAlloc a fun x => { x with inb := x.inb - 1 }

/-- The team of number `n` of team `t`'s grid that is resident in a cluster and has not ended (R317). A spawned team,
which no launch numbers, is taken to be the one team, of number 0, of a grid of its own (log 65). -/
def State.receiver (s : State) (t cluster n : Nat) : Option Nat :=
  let x := s.team t
  (s.teams.find? fun p => p.2.ctx == x.ctx && p.2.grid == x.grid && p.2.num == n && (x.grid != 0 || p.1 == t) &&
    !p.2.ended && p.2.resident && p.2.place.cores.all fun c => clusterOf c == cluster).map (·.1)

/-- The receivers of a chain as it is accepted: those that are there and have room; each other one is skipped with an
engine record (R77, R317). -/
def State.chainTeams (s : State) (g t0 : Nat) (mask : Word) (o n : Nat) (map : Option Nat) : State × List Nat :=
  let x := s.group g
  let t := s.team x.team
  (List.range 32).foldl (fun (acc : State × List Nat) i =>
    let (s, ts) := acc
    if !mask.getLsbD i then acc
    else
      let skip (code : Nat) : State × List Nat := ((s.postFault t.ctx (.engine code t.num x.home)).2, ts)
      match s.receiver x.team (clusterOf x.core) (t0 + i) with
      | none => skip 5
      | some r =>
        let size := (s.scratchOf r).size
        let mapEnd := match map with
          | some m => m + 16
          | none => 0
        if size < o + n ∨ size < mapEnd then skip 3 else (s, ts ++ [r])) (s, [])

/-- One entry accepted into queue `x.q` of the issuing core (R84, R312). -/
def State.ceEnter (s : State) (f : CeForm) (x : CeArgs) (g : Nat) : State :=
  let y := s.group g
  let w := s.readS g x.ln
  let map := if WellFormed.ceNomap x.sel then none else some (s.readS g x.map).toNat
  let (s, dst) := match f with
    | .chain =>
      let (s, ts) := s.chainTeams g (s.readS g x.dst).toNat (s.readS g (x.dst + 1)) x.offd (ceBytes w) map
      (s, Place.receivers ts x.offd)
    | _ => (s, s.ceDst f x g)
  let s := match dst with
    | .scratch _ => s.addInb (s.team y.team).alloc
    | .receivers ts _ => ts.foldl (fun s t => s.addInb (s.team t).alloc) s
    | _ => s
  let (id, s) := s.fresh
  let e : CopyEntry := { id := id, ctx := (s.team y.team).ctx, team := y.team, group := g, batch := none,
                         src := s.ceSrc f x g, dst := dst, len := ceBytes w, first := ceFirst w, map := map }
  (s.modGroup g fun y => { y with pending := y.pending + 1 }).modCore y.core fun c =>
    { c with copy := SMap.ins c.copy x.q (SMap.look [] c.copy x.q ++ [.entry e]) }

/-- A ce form: every home group's entry is checked before any is made (R314; log 24). -/
def State.ce (s : State) (f : CeForm) (x : CeArgs) : Out :=
  let hs := s.suppliers s.cur
  s.finish 16 (
    match hs.findSome? fun h => s.ceFail f x (s.gid h) with
    | some (c, a) => .trap s c a
    | none =>
      let q := SMap.look [] (s.core (s.group s.lowest).core).copy x.q
      if hs.isEmpty then .done s
      else if Config.copyQueueLen < q.length + hs.length then .wait s
      else .done (s.eachHome fun s g => s.ceEnter f x g))

/-- CE_CP (R315). -/
def execCeCp (x : CeArgs) (s : State) : Out := s.ce .cp x
/-- CE_CHAIN (R317). -/
def execCeChain (x : CeArgs) (s : State) : Out := s.ce .chain x
/-- CE_FILL (R317). -/
def execCeFill (x : CeArgs) (s : State) : Out := s.ce .fill x

/-! ### Chunks (R315 to R319) -/

def State.modCopy (s : State) (core q : Nat) (f : CopyEntry → CopyEntry) : State :=
  s.modCore core fun c => { c with copy := SMap.ins c.copy q (match SMap.look [] c.copy q with
    | .entry e :: t => .entry (f e) :: t
    | l => l) }
/-- The entry that a copy queue performs. -/
def State.copyHead (s : State) (core q : Nat) : Option CopyEntry :=
  match SMap.look [] (s.core core).copy q with
  | .entry e :: _ => some e
  | _ => none

/-- An event at a copy offset (R318). -/
def CopyEntry.note (e : CopyEntry) (off code : Nat) : CopyEntry :=
  if e.events.contains (off, code) then e else { e with events := e.events ++ [(off, code)] }
/-- The event at the lowest copy offset of a list. -/
def lowestEvent : List (Nat × Nat) → Option (Nat × Nat)
  | [] => none
  | x :: t => match lowestEvent t with
    | some y => if y.1 < x.1 then some y else some x
    | none => some x
/-- Whether an XLATE, PROT or CLASS event has been met at or before chunk `k`: then that chunk is not written (R318). -/
def CopyEntry.cut (e : CopyEntry) (k : Nat) : Bool :=
  e.events.any fun (v : Nat × Nat) => decide (2 ≤ v.2 ∧ v.2 ≤ 4 ∧ v.1 / 512 ≤ k)

/-- The teams whose scratch holds an entry's map and status word. -/
def CopyEntry.mapTeams (e : CopyEntry) : List Nat :=
  match e.dst with
  | .receivers ts _ => ts
  | _ => [e.team]

/-- A 64-bit word of a team's scratch changed. -/
def State.modScratch64 (s : State) (t o : Nat) (f : DWord → DWord) : State :=
  s.modScratch t fun a => a.write o (leBytes 8 (f (BitVec.ofNat 64 (ofLE (a.read o 8)))).toNat)

/-- R318: the end of an entry: its status word or, with no map, a record for each of its events; its batch and its inbound
counts. -/
def State.copyOver (s : State) (e : CopyEntry) : State :=
  let s := match lowestEvent e.events, e.map with
    | none, _ => s
    | some (off, code), some m => e.mapTeams.foldl (fun (s : State) t => s.modScratch64 t (m + 8) fun w =>
        if w.toNat / 2 ^ 60 = 0 then BitVec.ofNat 64 (code * 2 ^ 60 + off) else w) s
    | some _, none => e.events.foldl (fun (s : State) (v : Nat × Nat) =>
        (s.postFault e.ctx (.engine v.2 (s.team e.team).num (s.group e.group).home)).2) s
  let s := match e.dst with
    | .scratch _ => s.subInb (s.team e.team).alloc
    | .receivers ts _ => ts.foldl (fun s t => s.subInb (s.team t).alloc) s
    | _ => s
  s.modGroup e.group fun x =>
    match e.batch with
    | none => { x with pending := x.pending - 1 }
    | some b => { x with batches := (x.batches.map fun p => if p.1 = b then (b, p.2 - 1) else p).filter fun p => p.2 != 0 }
def State.copyEnd (s : State) (core q : Nat) (e : CopyEntry) : State :=
  (s.copyOver e).modCore core fun c => { c with copy := SMap.ins c.copy q ((SMap.look [] c.copy q).drop 1) }
/-- The bit of chunk `k` in an entry's map. -/
def State.setMapBit (s : State) (e : CopyEntry) (k : Nat) : State :=
  match e.map with
  | some m => e.mapTeams.foldl (fun (s : State) t => s.modScratch64 t m fun w => w ||| BitVec.twoPow 64 (e.first + k)) s
  | none => s
/-- Whether every chunk has landed. -/
def CopyEntry.whole (e : CopyEntry) : Bool := (List.range (chunksOf e.len)).all fun i => e.landed.getLsbD i

/-- Chunk `k` of the entry at the head of a queue has landed: its map bit is set, and after the last chunk the entry
ends (R315, R318). -/
def State.landChunk (s : State) (core q k : Nat) : State :=
  match s.copyHead core q with
  | none => s
  | some e =>
    let s := s.setMapBit e k
    let e := { e with landed := e.landed ||| BitVec.twoPow 64 k }
    let s := s.modCopy core q fun _ => e
    if e.whole then s.copyEnd core q e else s

/-- An entry wherever it is, in a copy queue or saved (R382), changed by `f`. -/
def State.modCopyEntry (s : State) (id : Nat) (f : CopyEntry → CopyEntry) : State :=
  let on (x : Queued CopyEntry) : Queued CopyEntry := match x with
    | .entry e => if e.id = id then .entry (f e) else x
    | .join _ => x
  { s with
    cores := s.cores.map fun c => (c.1, { c.2 with copy := c.2.copy.map fun q => (q.1, q.2.map on) }),
    ctxs := s.ctxs.map fun c => (c.1, { c.2 with
      savedCopies := c.2.savedCopies.map fun x => { x with item := on x.item } }) }
/-- The queue that performs entry `id`, as core and number. -/
def State.entryAt (s : State) (id : Nat) : Option (Nat × Nat) :=
  s.cores.findSome? fun c => c.2.copy.findSome? fun q => match q.2.head? with
    | some (.entry e) => if e.id = id then some (c.1, q.1) else none
    | _ => none
/-- Chunk `k` of entry `id` has landed, wherever the entry now is: at the head of a queue, or saved (R382). -/
def State.landAnywhere (s : State) (id k : Nat) : State :=
  match s.entryAt id with
  | some (core, q) => s.landChunk core q k
  | none =>
    let mine (x : SavedCopy) : Option CopyEntry := match x.item with
      | .entry e => if e.id = id then some e else none
      | .join _ => none
    match s.ctxs.findSome? fun c => c.2.savedCopies.findSome? mine with
    | none => s
    | some e =>
      let s := s.setMapBit e k
      let e := { e with landed := e.landed ||| BitVec.twoPow 64 k }
      let s := s.modCtx e.ctx fun c => { c with savedCopies := c.savedCopies.filterMap fun x =>
        if (mine x).isSome then (if e.whole then none else some { x with item := .entry e }) else some x }
      if e.whole then s.copyOver e else s

/-- The bytes of chunk `k` as read, those of a peer to come; or the copy offset, address and cause of the first failure.
-/
def State.chunkRead (s : State) (e : CopyEntry) (core q k : Nat) (dr : DramRead) :
    State × Except (Nat × Nat × Nat) (List (Option (Byte × Bool))) :=
  let o := 512 * k
  let n := min 512 (e.len - o)
  match e.src with
  | .global a =>
    match s.engineGather (clusterOf core) e.ctx (a + o) engineClass dr 0 n (.copy core q e.id k) with
    | (s, .ok bs) => (s, .ok bs)
    | (s, .error (va, c)) => (s, .error (va - a, va, c))
  | .scratch p =>
    let m := s.scratchOf e.team
    (s, .ok ((List.range n).map fun i => some (SMap.look 0 m.bytes (p + o + i), m.poisonedAt (p + o + i))))
  | .pattern w => (s, .ok ((List.range n).map fun i => some ((leBytes 4 w.toNat).getD ((o + i) % 4) 0, false)))
  | _ => (s, .ok [])

/-- Bytes written in a team's scratch, with their poison (R319). -/
def State.scratchPut (s : State) (t o : Nat) (bs : List (Byte × Bool)) : State :=
  s.modScratch t fun a =>
    let b := a.write o (bs.map (·.1))
    { b with poison := (bs.zipIdx).foldl (fun l p => if p.1.2 then addTo ((o + p.2) / 32) l else l) b.poison }

/-- The reduction packets of a chunk's bytes, 64 bytes each (R143, R316). -/
def chunkPackets (h : Handle) (k len : Nat) (bs : List (Byte × Bool)) : List RPacket :=
  let z := vfSize h.vf
  let n := (bs.length + 63) / 64
  (List.range n).map fun i =>
    let part := (bs.drop (64 * i)).take 64
    let vals := (List.range (part.length / z)).map fun j =>
      let v := (part.drop (z * j)).take z
      (ofLE (v.map (·.1)), v.any (·.2))
    { stack := h.stk, buf := h.buf, con := h.con, elem := h.elem + (512 * k + 64 * i) / z, vf := h.vf,
      fin := h.fin && decide (len ≤ 512 * k + 64 * i + 64), vals := vals }

/-- A chunk that meets a failed check: a translation fault stalls the entry; any other is an event, and the chunk lands
unwritten (R27, R318). -/
def State.chunkFail (s : State) (core q k : Nat) (e : CopyEntry) (off va cause kind : Nat) : State :=
  if cause = 4 then
    let (i, s) := s.engineFault e.ctx va kind e.team (s.group e.group).home
    s.modCopy core q fun e => { e with stalled := some (i, k, off) }
  else (s.modCopy core q fun e => e.note off (engineCode cause)).landChunk core q k

/-- The packets of a chunk leave for a landing unit: of this device in the entry's copy queue, or of a peer in its route's
(R143, R316). -/
def State.sendPackets (s : State) (e : CopyEntry) (core q k : Nat) (peer : Option Nat) (ps : List RPacket) : State :=
  match peer with
  | some d => s.sendAll (ps.map fun p =>
      { ctx := e.ctx, peer := d, dest := .copy core q e.id k, ask := .packet p, acc := { lane := 0, addr := 0, loc := 2 ^ 65 } })
  | none => { s with packets := s.packets ++ ps.map fun p =>
      ({ sender := some (core, q, e.id, k), packet := p } : PacketFlight) }

/-- Chunk `k` of the entry at the head of a queue with its bytes read: a poisoned byte is an event, and the bytes land, or
leave for a landing unit or a peer (R315 to R319). -/
def State.chunkWrite (s : State) (core q k : Nat) (e : CopyEntry) (bs : List (Byte × Bool)) : State :=
  let o := 512 * k
  let s := match (bs.zipIdx).find? fun p => p.1.2 with
    | some p => s.modCopy core q fun e => e.note (o + p.2) 1
    | none => s
  let sent (s : State) : State := s.modCopy core q fun e =>
    { e with sent := e.sent ||| BitVec.twoPow 64 k, asked := SMap.erase e.asked k }
  match e.dst with
  | .global a =>
    (match s.engineSend e.ctx (a + o) engineClass bs (.copy core q e.id k) with
    | .error (va, c) => s.chunkFail core q k e (va - a) va c 1
    | .ok (s, true) => sent s
    | .ok (s, false) => s.landChunk core q k)
  | .scratch p => (s.scratchPut e.team (p + o) bs).landChunk core q k
  | .receivers ts p => (ts.foldl (fun s t => s.scratchPut t (p + o) bs) s).landChunk core q k
  | .landing h peer => sent (s.sendPackets e core q k peer (chunkPackets (handleOf h) k e.len bs))
  | .pattern _ => s

/-- The handle of a landing entry has a reserved bit set (R316). -/
def CopyEntry.badHandle (e : CopyEntry) : Bool := match e.dst with
  | .landing h _ => (handleOf h).bad
  | _ => false
/-- The chunks of a landing entry are sent in ascending order (R315). -/
def CopyEntry.inOrder (e : CopyEntry) (k : Nat) : Bool := match e.dst with
  | .landing _ _ => (List.range k).all fun i => e.sent.getLsbD i || e.landed.getLsbD i
  | _ => true

/-- COPY_CHUNK_LAND (R315 to R319): a chunk of the entry at the head of a copy queue reads its bytes and lands, or leaves
for a landing unit or a peer; bytes of a peer are asked for, and the chunk goes on with its answers. A handle with a
reserved bit ends the entry with PROT and reads nothing (R316); a chunk behind a failed check lands unwritten (R318). -/
def execCopyChunkLand (core q chunk : Nat) (dr : DramRead) (s : State) : Out :=
  match s.copyHead core q with
  | none => .next s
  | some e =>
    if chunksOf e.len ≤ chunk ∨ e.landed.getLsbD chunk ∨ e.sent.getLsbD chunk ∨ e.stalled.isSome ∨ !e.inOrder chunk then
      .next s
    else if e.badHandle then .next ((s.modCopy core q fun e => e.note 0 3).landChunk core q chunk)
    else
      match findKey e.asked chunk with
      | some bs =>
        (match allCome bs with
        | some bs =>
          if e.cut chunk then .next (s.landChunk core q chunk) else .next (s.chunkWrite core q chunk e bs)
        | none => .next s)
      | none =>
        if e.cut chunk then .next (s.landChunk core q chunk)
        else match s.chunkRead e core q chunk dr with
        | (s, .error (off, va, c)) => .next (s.chunkFail core q chunk e off va c 0)
        | (s, .ok bs) =>
          match allCome bs with
          | some bs => .next (s.chunkWrite core q chunk e bs)
          | none => .next (s.modCopy core q fun e => { e with asked := SMap.ins e.asked chunk bs })

/-! ### Peers (R39, R84, R120) -/

/-- A peer's answer for a chunk of a copy: the bytes of a read come in, and the chunk goes on when all have; a written
chunk, or one whose packets are taken, lands with its last answer. -/
def State.copyAnswer (s : State) (w : PeerWait) (core q id k : Nat) (got : List (Byte × Bool)) : State :=
  match w.ask with
  | .read =>
    let s := s.modCopyEntry id fun e =>
      { e with asked := e.asked.map fun p => if p.1 = k then (k, answerInto w.acc.lane got p.2) else p }
    (match s.copyHead core q with
    | some e => if e.id = id then eventState (execCopyChunkLand core q k .clean s) s else s
    | none => s)
  | _ => if s.requests.any fun v => v.dest == w.dest then s else s.landAnywhere id k
where
  eventState (o : Out) (s : State) : State := match o with
    | .next t => t
    | _ => s

/-- A peer's answer for an atomic: its lanes read the word one after another, from the value that it had there; a refusal
returns poison to each (R39, R114). -/
def State.atomAnswer (s : State) (id code : Nat) (ty : Ty) (ls : List (Nat × LaneAcc)) (ok : Bool) (v : Nat) : State :=
  let n := if ty.is64 then 8 else 4
  let (olds, _) := atomFold code ty v ls
  (ls.zip olds).foldl (fun s p =>
    (s.atomDone p.1.1 id p.1.2.lane n p.2 (if ok then [] else [0])).modLane p.1.1 id p.1.2.lane
      fun a => { a with acked := true }) s

/-- A request in a link's queue is answered, and leaves it. A refusal is logged here too; a refused load or atomic returns
poisoned data (R39). A reduction packet names no line that could be refused (R143). -/
def State.peerAnswer (s : State) (link : Nat) (w : PeerWait) (ans : PeerAns) : State :=
  let packet : Bool := match w.ask with
    | .packet _ => true
    | _ => false
  let s := s.modLink link fun l => { l with queue := l.queue.erase (.req w) }
  let s := if ans.ok || packet then s else s.postError (errRecord 5 w.ctx w.peer (w.acc.loc % 2 ^ 64))
  let bytes := (List.range w.acc.size).map fun i => ans.data.getD i 0
  match w.dest with
  | .op g id =>
    let s := match w.ask with
      | .atomic code ty ls => s.atomAnswer id code ty ls ans.ok (ofLE bytes)
      | _ => s.modLane g id w.acc.lane fun (a : LaneAcc) =>
          { a with acked := true, done := true, got := (bytes.zipIdx).map fun (p : Byte × Nat) => (p.2, p.1),
                   psn := if ans.ok || w.ask == PeerAsk.write then [] else [a.addr] }
    s.settleOp g id
  | .acq g r =>
    s.modIg r fun i => { i with remote := ((s.group g).home, BitVec.ofNat 64 (ofLE bytes), !ans.ok) :: i.remote }
  | .copy core q id chunk => s.copyAnswer w core q id chunk (bytes.map fun b => (b, !ans.ok))
  | .tile p id =>
    s.modPair p fun y => { y with window := y.window.map fun e => if e.id = id then
      { e with asked := answerInto w.acc.lane (bytes.map fun b => (b, !ans.ok)) e.asked } else e }
  | .sent _ _ => s
  | .nobody => s

/-- PEER_ACKNOWLEDGEMENT: the peer answers the request at the head of a link's Pleach queue, whose entries are performed
in order (R100, R120). -/
def execPeerAcknowledgement (link : Nat) (ans : PeerAns) (s : State) : Out :=
  match (s.link link).queue.head?.bind LinkEntry.request with
  | none => .next s
  | some w => .next (s.peerAnswer link w ans)

end Sys2Proof.Machine
end

