-- ==== Sys2Proof/Machine/Nmu.lean ====
section
/-! DEFINITION. The near-memory tier (spec/14_instr_gossip_tape_system.md R364, spec/05_memory_beyond_the_core.md R134 to
R145): the nm forms, the update engine and the landing unit. -/

namespace Sys2Proof.Machine

/-! ### Issue (R364) -/

/-- An entry placed in the queue of a stack. -/
def State.nmEnter (s : State) (stk : Nat) (job : NmuJob) : State :=
  let g := s.lowest
  s.modStack stk fun t =>
    { t with nmu := t.nmu ++ [.entry { ctx := s.curCtx, team := s.curTeam, group := g, job := job }] }

/-- The address of an nm form, and its check at issue. -/
def State.nmAddr (s : State) (x : NmArgs) : DWord := s.readS64 s.lowest x.bp + sext24 x.off
def State.nmFail (s : State) (x : NmArgs) (size : Nat) : Option Res :=
  let a := s.nmAddr x
  if a.toNat % size ≠ 0 then some (.trap s 3 a) else if 2 ^ 48 ≤ a.toNat then some (.trap s 5 a) else none

/-- An nm form: once for an issue group that has an active lane. -/
def State.nm (s : State) (r : State → Res) : Out :=
  s.finish 16 (if (s.lanes s.cur).isEmpty then .done s else r s)

/-- NM_UPD (R364, R22, R135): the queue of the stack that homes the descriptor. -/
def execNmUpd (x : NmArgs) (s : State) : Out :=
  s.nm fun s =>
    let a := s.nmAddr x
    match s.nmFail x 128 with
    | some r => r
    | none =>
      match s.check s.curCtx .rd (onlyClass 2) false a.toNat with
      | .bad 4 => .fault a.toNat 0
      | .bad c => .trap s c a
      | .ok t => .done (s.nmEnter (stackOf t.loc.key) (.upd a.toNat))
/-- NM_LAND_INST (R364). -/
def execNmLandInst (x : NmArgs) (s : State) : Out :=
  s.nm fun s => match s.nmFail x 64 with
    | some r => r
    | none => .done (s.nmEnter x.stk (.install x.buf (s.nmAddr x).toNat))
/-- NM_LAND_REM (R364). -/
def execNmLandRem (x : NmArgs) (s : State) : Out := s.nm fun s => .done (s.nmEnter x.stk (.remove x.buf))
/-- NM_CTL_DONE (R364). -/
def execNmCtlDone (x : NmArgs) (s : State) : Out :=
  s.nm fun s => match s.nmFail x 8 with
    | some r => r
    | none => .done (s.nmEnter x.stk (.done (s.nmAddr x).toNat))

/-! ### The queue -/

/-- The entry that an NMU performs next; none while it stalls. -/
def State.nmuHead (s : State) (k : Nat) : Option NmuEntry :=
  match (s.stack k).nmu with
  | .entry e :: _ => if e.stalled.isSome then none else some e
  | _ => none
def State.nmuSet (s : State) (k : Nat) (e : NmuEntry) : State :=
  s.modStack k fun t => { t with nmu := .entry e :: t.nmu.drop 1 }
def State.nmuPop (s : State) (k : Nat) : State := s.modStack k fun t => { t with nmu := t.nmu.drop 1 }

/-- An engine record for the home group of an entry (R27, R137). -/
def State.nmuRecord (s : State) (e : NmuEntry) (cause : Nat) : State :=
  (s.postFault e.ctx (.engine (engineCode cause) (s.team e.team).num (s.group e.group).home)).2
/-- A translation fault stalls the entry; any other failure ends it with a record (R27). -/
def State.nmuFail (s : State) (k : Nat) (e : NmuEntry) (va cause kind : Nat) : State :=
  if cause = 4 then
    let (i, s) := s.engineFault e.ctx va kind e.team (s.group e.group).home
    s.nmuSet k { e with stalled := some i }
  else (s.nmuRecord e cause).nmuPop k

/-! ### The update (R136 to R141) -/

/-- A field of a descriptor. -/
def dfield (d lo n : Nat) : Nat := d / 2 ^ lo % 2 ^ n

structure Upd where
  kind : Nat
  clip : Bool
  pty : Ty
  gty : Ty
  mty : Ty
  count : Nat
  p : Nat
  g : Nat
  m : Nat
  v : Nat
  h : Nat
  status : Nat
  lr : Nat
  lrwd : Nat
  b1 : Nat
  omb1 : Nat
  b2 : Nat
  omb2 : Nat
  eps : Nat
  k2 : Nat

def fmtTy : Nat → Ty
  | 0 => .f32
  | 1 => .bf16
  | _ => .f16

def Upd.of (d : Nat) : Upd :=
  let kind := dfield d 416 4
  { kind := kind, clip := dfield d 420 1 == 1 || kind == 2, pty := fmtTy (dfield d 424 3), gty := fmtTy (dfield d 427 3),
    mty := fmtTy (dfield d 430 3), count := dfield d 384 32, p := dfield d 0 64, g := dfield d 64 64,
    m := dfield d 128 64, v := dfield d 192 64, h := dfield d 256 64, status := dfield d 320 64, lr := dfield d 448 32,
    lrwd := dfield d 480 32, b1 := dfield d 512 32, omb1 := dfield d 544 32, b2 := dfield d 576 32,
    omb2 := dfield d 608 32, eps := dfield d 640 32, k2 := dfield d 672 32 }

def fmtSize (t : Ty) : Nat := elemBits t / 8
/-- The arrays that a command uses, with their element sizes (R136). -/
def Upd.arrays (u : Upd) : List (Nat × Nat) :=
  [(u.p, fmtSize u.pty), (u.g, fmtSize u.gty)] ++ (if u.kind ≤ 1 then [(u.m, fmtSize u.mty)] else []) ++
    (if u.kind = 0 then [(u.v, fmtSize u.mty)] else [])
def Upd.blocks (u : Upd) : Nat := (u.count + 4095) / 4096
def Upd.blockLen (u : Upd) (b : Nat) : Nat := min 4096 (u.count - 4096 * b)

/-- R137: a bad descriptor. -/
def State.badUpd (s : State) (ctx d : Nat) : Bool :=
  let u := Upd.of d
  dfield d 704 320 != 0 || dfield d 433 15 != 0 || dfield d 421 3 != 0 ||
    decide (2 < u.kind ∨ 1 < dfield d 424 3 ∨ 2 < dfield d 427 3 ∨ 1 < dfield d 430 3) ||
    decide (u.count = 0 ∨ 2 ^ 31 < u.count) ||
    u.arrays.any (fun a => a.1 % 64 != 0 || !s.spanClass ctx (onlyClass 2) a.1 (a.2 * u.count)) ||
    (u.clip && (u.h % 16 != 0 || !s.spanClass ctx (onlyClass 2) u.h (16 * u.blocks)))

/-- R140: one element, with its scale. -/
def Upd.elem (u : Upd) (c : Option Nat) (g p m v : Nat) : Nat × Nat × Nat :=
  let mul (a b : Nat) : Nat := (mulF .f32 a b .rne false).1
  let add (a b : Nat) : Nat := (addF .f32 a b .rne false).1
  let sub (a b : Nat) : Nat := (subF .f32 a b .rne false).1
  let g := match c with
    | some c => mul g c
    | none => g
  let (step, m, v) : Nat × Nat × Nat :=
    if u.kind = 0 then
      let m := add (mul u.b1 m) (mul u.omb1 g)
      let v := add (mul u.b2 v) (mul (mul u.omb2 g) g)
      let den := add (mul (sqrtF .f32 v .rne).1 u.k2) u.eps
      ((divF .f32 m den .rne false).1, m, v)
    else if u.kind = 1 then
      let m := add (mul u.b1 m) g
      (m, m, v)
    else (g, m, v)
  let p := sub p (mul u.lrwd p)
  (sub p (mul u.lr step), m, v)

/-- The elements of an array that a block holds, from the bytes of its lines. -/
def elemsOf (t : Ty) (n : Nat) (bs : List (Byte × Bool)) : List Nat := (chop (fmtSize t) n (plain bs)).map ofLE
def elemBytes (t : Ty) (vs : List Nat) : List (Byte × Bool) :=
  vs.flatMap fun v => clean (leBytes (fmtSize t) (cvtRne t .f32 v).1)

/-- R139: the sum of squares of a block. -/
def sumSquares (t : Ty) (gs : List Nat) : Nat :=
  gs.foldl (fun n g =>
    let g := cvtExact .f64 t g
    (addF .f64 n (mulF .f64 g g .rne false).1 .rne false).1) 0

/-- What R139 says of a block: the status bits, the header's new NORM and SKIPS, and the scale or a skip. -/
structure Clip where
  bits : Nat
  norm : Option Nat := none
  skips : Nat
  skip : Bool := false
  scale : Option Nat := none

def clipBlock (t : Ty) (limit skips : Nat) (gs : List Nat) : Clip :=
  let n2 := sumSquares t gs
  let nrm := (sqrtF .f64 n2 .rne).1
  let norm := (cvtRne .f32 .f64 nrm).1
  let lim := cvtExact .f64 .f32 limit
  if !isFiniteF .f64 n2 then
    { bits := 2 ^ 32, norm := some norm, skips := min 0xFFFFFFFF (skips + 1), skip := true }
  else if ltF .f64 lim nrm then
    { bits := 2 ^ 35, norm := some norm, skips := skips,
      scale := some (cvtRne .f32 .f64 (divF .f64 lim nrm .rne false).1).1 }
  else { bits := 0, norm := some norm, skips := skips }

/-- A valid LIMIT (R138). -/
def limitOk (l : Nat) : Bool := !isNaN .f32 l && ltF .f32 0 l

/-- Bytes from the start of a span to the end of its last line. -/
def lineSpan (n : Nat) : Nat := (n + 63) / 64 * 64

/-- The lines of an array that a block reads; a translation failure was seen before. -/
def State.nmuLines (s : State) (ctx va n : Nat) (dr : DramRead) : State × List (Byte × Bool) :=
  match s.engineRead ctx va (onlyClass 2) dr (lineSpan n) with
  | (s, .ok bs) => (s, bs)
  | (s, .error _) => (s, [])

/-- A home write at a span that passed its checks. -/
def State.nmuPut (s : State) (ctx va : Nat) (permits : Nat → Bool) (bs : List (Byte × Bool)) : State :=
  match s.enginePut ctx va permits bs with
  | .ok s => s
  | .error _ => s

/-- The first operand access of block `b` that fails (R141): every access of the block is checked before any write. -/
def State.blockFail (s : State) (ctx : Nat) (u : Upd) (b : Nat) : Option (Nat × Nat × Nat) :=
  let n := u.blockLen b
  let at_ (need : Need) (kind va len : Nat) : Option (Nat × Nat × Nat) :=
    (s.spanFail ctx need (onlyClass 2) va len).map fun f => (f.1, f.2, kind)
  let arr (need : Need) (kind base z : Nat) : Option (Nat × Nat × Nat) := at_ need kind (base + z * 4096 * b) (z * n)
  (if u.clip then at_ .both 1 (u.h + 16 * b) 16 else none).orElse fun _ =>
    (arr .rd 0 u.g (fmtSize u.gty)).orElse fun _ =>
      (arr .both 1 u.p (fmtSize u.pty)).orElse fun _ =>
        (if u.kind ≤ 1 then arr .both 1 u.m (fmtSize u.mty) else none).orElse fun _ =>
          if u.kind = 0 then arr .both 1 u.v (fmtSize u.mty) else none

/-- R138 to R141: one block whose accesses pass their checks; answers the status bits and whether it was updated. -/
def State.updBlock (s : State) (ctx : Nat) (u : Upd) (b : Nat) (dr : DramRead) : State × Nat × Bool :=
  let n := u.blockLen b
  let ha := u.h + 16 * b
  let (s, hl) := if u.clip then s.nmuLines ctx (ha / 64 * 64) 64 dr else (s, [])
  let hd := ofLE ((plain hl).drop (ha % 64) |>.take 16)
  let bad (l : List (Byte × Bool)) : Bool := l.any (·.2)
  let poison : Nat := 2 ^ 34
  if bad hl then (s, poison, false)
  else if u.clip && !limitOk (hd % 2 ^ 32) then (s, 2 ^ 33, false)
  else
    let at_ (base : Nat) (t : Ty) : Nat := base + fmtSize t * 4096 * b
    let (s, gl) := s.nmuLines ctx (at_ u.g u.gty) (fmtSize u.gty * n) dr
    if bad gl then (s, poison, false)
    else
      let gs := elemsOf u.gty n gl
      let c := if u.clip then clipBlock u.gty (hd % 2 ^ 32) (hd / 2 ^ 64 % 2 ^ 32) gs else { bits := 0, skips := 0 }
      let header (s : State) : State := match c.norm with
        | some w => s.nmuPut ctx (ha + 4) (onlyClass 2) (clean (leBytes 4 w ++ leBytes 4 c.skips))
        | none => s
      if c.skip then (header s, c.bits, false)
      else
        let (s, pl) := s.nmuLines ctx (at_ u.p u.pty) (fmtSize u.pty * n) dr
        let (s, ml) := if u.kind ≤ 1 then s.nmuLines ctx (at_ u.m u.mty) (fmtSize u.mty * n) dr else (s, [])
        let (s, vl) := if u.kind = 0 then s.nmuLines ctx (at_ u.v u.mty) (fmtSize u.mty * n) dr else (s, [])
        if bad pl || bad ml || bad vl then (s, poison, false)
        else
          let w (t : Ty) (vs : List Nat) : List Nat := vs.map (cvtExact .f32 t)
          let zs := List.replicate n 0
          let ps := w u.pty (elemsOf u.pty n pl)
          let ms := if u.kind ≤ 1 then w u.mty (elemsOf u.mty n ml) else zs
          let vs := if u.kind = 0 then w u.mty (elemsOf u.mty n vl) else zs
          let rs := ((w u.gty gs).zip (ps.zip (ms.zip vs))).map fun q => u.elem c.scale q.1 q.2.1 q.2.2.1 q.2.2.2
          let s := (header s).nmuPut ctx (at_ u.p u.pty) (onlyClass 2) (elemBytes u.pty (rs.map (·.1)))
          let s := if u.kind ≤ 1 then s.nmuPut ctx (at_ u.m u.mty) (onlyClass 2) (elemBytes u.mty (rs.map (·.2.1))) else s
          let s := if u.kind = 0 then s.nmuPut ctx (at_ u.v u.mty) (onlyClass 2) (elemBytes u.mty (rs.map (·.2.2))) else s
          (s, c.bits, true)

/-- The status word of an entry is written last, and the entry leaves (R135, R141). -/
def State.nmuEnd (s : State) (k : Nat) (e : NmuEntry) (addr : Nat) (v : DWord) : State :=
  match s.enginePut e.ctx addr wordClass (clean (leBytes 8 v.toNat)) with
  | .ok s => s.nmuPop k
  | .error (va, c) => s.nmuFail k e va c 1

/-- The status word's address passes its checks (R136): the failure otherwise. -/
def State.wordFail (s : State) (ctx a : Nat) (permits : Nat → Bool) : Option (Nat × Nat) :=
  if a % 8 ≠ 0 then some (a, 3)
  else match s.check ctx .wr permits true a with
    | .bad c => some (a, c)
    | .ok _ => none

/-- One step of an update whose descriptor has been read: a block, or what ends the entry. -/
def State.updStep (s : State) (k : Nat) (e : NmuEntry) (d : Nat) (dr : DramRead) : State :=
  let u := Upd.of d
  match s.wordFail e.ctx u.status wordClass with
  | some (va, c) => s.nmuFail k e va c 1
  | none =>
    if e.block = 0 && e.status = 0 && s.badUpd e.ctx d then s.nmuEnd k e u.status (BitVec.ofNat 64 (2 ^ 36))
    else
      match s.blockFail e.ctx u e.block with
      | some (va, c, kind) =>
        if c = 4 then s.nmuFail k e va c kind else s.nmuEnd k e u.status (e.status ||| BitVec.ofNat 64 (2 ^ 37))
      | none =>
        let (s, bits, done) := s.updBlock e.ctx u e.block dr
        let st := (e.status ||| BitVec.ofNat 64 bits) + (if done then 1 else 0)
        let e := { e with block := e.block + 1, status := st }
        if u.blocks ≤ e.block then s.nmuEnd k e u.status st else s.nmuSet k e

/-- NMU_UPDATE (R135 to R141): the oldest entry of a stack's queue reads its descriptor once and performs its next block;
after the last block it writes the status word and leaves. -/
def execNmuUpdate (stack : Nat) (dr : DramRead) (s : State) : Out :=
  match s.nmuHead stack with
  | some e =>
    match e.job with
    | .upd a =>
      match e.desc with
      | some d => .next (s.updStep stack e (ofLE d) dr)
      | none =>
        (match s.engineRead e.ctx a (onlyClass 2) dr 128 with
        | (s, .error (va, c)) => .next (s.nmuFail stack e va c 0)
        | (s, .ok bs) =>
          if bs.any (·.2) then
            .next (((s.postFault e.ctx (.engine 1 (s.team e.team).num (s.group e.group).home)).2).nmuPop stack)
          else .next (s.updStep stack { e with desc := some (plain bs) } (ofLE (plain bs)) dr))
    | _ => .next s
  | none => .next s

/-- NMU_DONE_WRITE (R364). -/
def execNmuDoneWrite (stack : Nat) (s : State) : Out :=
  match s.nmuHead stack with
  | some e =>
    match e.job with
    | .done a => .next (s.nmuEnd stack e a 1)
    | _ => .next s
  | none => .next s

/-! ### Landing buffers (R142 to R145) -/

/-- The reduction packets that are on their way to a landing unit or held there. -/
def State.packetsOut (s : State) : List PacketFlight :=
  s.packets ++ s.stks.flatMap fun k => k.2.bufs.flatMap fun b => b.2.held
/-- The chunk of a copy entry lands once the units have applied or dropped every packet of it (R316). -/
def State.landed (s : State) (p : PacketFlight) : State :=
  match p.sender with
  | some (_, _, id, chunk) => if s.packetsOut.any fun q => q.sender == p.sender then s else s.landAnywhere id chunk
  | none => s

def Stack.buf (t : Stack) (b : Nat) : Option LandBuf := findKey t.bufs b
def State.setBuf (s : State) (k b : Nat) (x : LandBuf) : State := s.modStack k fun t => { t with bufs := SMap.ins t.bufs b x }

/-- A format of a landing target or a packet: 0 f64, 1 f32, 2 bf16, 3 f16. -/
def landTy : Nat → Ty
  | 0 => .f64
  | 1 => .f32
  | 2 => .bf16
  | _ => .f16

/-- R145: a buffer leaves; its partials and its held packets are discarded. -/
def State.removeBuf (s : State) (k b : Nat) : State :=
  match (s.stack k).buf b with
  | none => s
  | some x =>
    x.held.foldl (fun s p => s.landed p) (s.modStack k fun t =>
      { t with bufs := SMap.erase t.bufs b,
               badpkt := if x.badpkt then SMap.ins t.badpkt b true else t.badpkt })

/-- Work values of a buffer. -/
def LandBuf.works (x : LandBuf) : Nat := if x.ord then x.ncon * x.count else x.count

def LandBuf.ofDesc (e : NmuEntry) (d : Nat) : LandBuf :=
  { ctx := e.ctx, team := e.team, group := e.group, ncon := dfield d 240 16, ord := dfield d 232 1 == 1,
    tfmt := dfield d 224 4, count := dfield d 192 32, saddr := dfield d 128 64, waddr := dfield d 64 64,
    taddr := dfield d 0 64 }
def targetClass (c : Nat) : Bool := c == 0 || c == 2

/-- R142: a descriptor within its limits. -/
def State.landOk (s : State) (ctx d : Nat) (x : LandBuf) : Bool :=
  let z := vfSize x.tfmt
  dfield d 256 256 == 0 && dfield d 233 7 == 0 && dfield d 228 4 == 0 && decide (0 < x.ncon ∧ x.tfmt ≤ 3) &&
    decide (0 < x.count ∧ x.count ≤ 2 ^ 28 ∧ x.saddr % 8 = 0 ∧ x.taddr % z = 0) &&
    s.spanClass ctx (onlyClass 2) x.waddr (8 * x.works) && s.spanClass ctx targetClass x.taddr (z * x.count)

/-- LANDING_INSTALL (R142, R364): a refused descriptor leaves the buffer as it was and its own status word receives
BADDESC. -/
def execLandingInstall (stack : Nat) (s : State) : Out :=
  match s.nmuHead stack with
  | some e =>
    match e.job with
    | .install b a =>
      (match s.engineRead e.ctx a engineClass .free 64 with
      | (s, .error (va, c)) => .next (s.nmuFail stack e va c 0)
      | (s, .ok bs) =>
        if bs.any (·.2) then
          .next (((s.postFault e.ctx (.engine 1 (s.team e.team).num (s.group e.group).home)).2).nmuPop stack)
        else
          let d := ofLE (plain bs)
          let x := LandBuf.ofDesc e d
          if !s.landOk e.ctx d x then
            match s.wordFail e.ctx x.saddr engineClass with
            | some (va, c) => .next (s.nmuFail stack e va c 1)
            | none => .next ((s.nmuPut e.ctx x.saddr engineClass (clean (leBytes 8 (2 ^ 36)))).nmuPop stack)
          else
            match s.spanFail e.ctx .both (onlyClass 2) x.waddr (8 * x.works) with
            | some (va, c) => .next (s.nmuFail stack e va c 1)
            | none =>
              let s := s.removeBuf stack b
              let s := s.nmuPut e.ctx x.waddr (onlyClass 2) (clean (List.replicate (8 * x.works) 0))
              let x := { x with badpkt := SMap.look false (s.stack stack).badpkt b }
              .next (((s.setBuf stack b x).modStack stack fun t => { t with badpkt := SMap.erase t.badpkt b }).nmuPop stack))
    | _ => .next s
  | none => .next s

/-- LANDING_REMOVE (R145, R364). -/
def execLandingRemove (stack : Nat) (s : State) : Out :=
  match s.nmuHead stack with
  | some e =>
    match e.job with
    | .remove b => .next ((s.removeBuf stack b).nmuPop stack)
    | _ => .next s
  | none => .next s

/-- Where a packet's first work value lies (R143). -/
def LandBuf.row (x : LandBuf) (p : RPacket) : Nat := x.waddr + 8 * ((if x.ord then p.con * x.count else 0) + p.elem)

/-- Whether a packet that ends its contributor's part lets the epoch commit (R144). -/
def LandBuf.commits (x : LandBuf) (p : RPacket) : Bool :=
  p.fin && (List.range x.ncon).all fun j => j == p.con || x.ended.contains j

/-- The first access of a packet's step that meets a translation fault (R27). -/
def State.landStall (s : State) (x : LandBuf) (p : RPacket) : Option Nat :=
  let miss (f : Option (Nat × Nat)) : Option Nat := match f with
    | some (va, c) => if c = 4 then some va else none
    | none => none
  (miss (s.spanFail x.ctx .both (onlyClass 2) (x.row p) (8 * p.vals.length))).orElse fun _ =>
    if x.commits p then
      (miss (s.spanFail x.ctx .both (onlyClass 2) x.waddr (8 * x.works))).orElse fun _ =>
        (miss (s.spanFail x.ctx .wr targetClass x.taddr (vfSize x.tfmt * x.count))).orElse fun _ =>
          miss (s.wordFail x.ctx x.saddr engineClass)
    else none

/-- A write of the landing unit; one that fails is lost with an engine record (R27). -/
def State.landPut (s : State) (x : LandBuf) (va : Nat) (permits : Nat → Bool) (bs : List (Byte × Bool)) : State :=
  match s.enginePut x.ctx va permits bs with
  | .ok s => s
  | .error (_, c) => (s.postFault x.ctx (.engine (engineCode c) (s.team x.team).num (s.group x.group).home)).2

/-- A work value as it stands: a poisoned one is used as it is and marks nothing, one that cannot be read
counts as 0 (log 66). -/
def State.workAt (s : State) (x : LandBuf) (i : Nat) : State × Nat :=
  match s.engineRead x.ctx (x.waddr + 8 * i) (onlyClass 2) .free 8 with
  | (s, .ok bs) => (s, ofLE (plain bs))
  | (s, .error _) => (s, 0)

/-- R143: each value is widened exactly and added, one home write each; a poisoned one marks its element. -/
def State.applyPacket (s : State) (k b : Nat) (x : LandBuf) (p : RPacket) : State :=
  let s := (p.vals.zipIdx).foldl (fun s v =>
    let i := (if x.ord then p.con * x.count else 0) + p.elem + v.2
    let (s, w) := s.workAt x i
    let w := (addF .f64 w (cvtExact .f64 (landTy p.vf) v.1.1) .rne false).1
    s.landPut x (x.waddr + 8 * i) (onlyClass 2) (clean (leBytes 8 w))) s
  let marks := (p.vals.zipIdx).filterMap fun v => if v.1.2 then some (p.elem + v.2) else none
  s.setBuf k b { x with marked := marks.foldl (fun l m => addTo m l) x.marked,
                        ended := if p.fin then enter p.con x.ended else x.ended }

/-- The total of element `i` at a commit (R144). -/
def State.landTotal (s : State) (x : LandBuf) (i : Nat) : State × Nat :=
  if x.ord then
    (List.range x.ncon).foldl (fun (acc : State × Nat) j =>
      let (s, w) := acc.1.workAt x (j * x.count + i)
      (s, (addF .f64 acc.2 w .rne false).1)) (s, 0)
  else s.workAt x i

/-- R144: the commit of an epoch, but for the held packets. -/
def State.commitBuf (s : State) (k b : Nat) : State :=
  match (s.stack k).buf b with
  | none => s
  | some x =>
    let t := landTy x.tfmt
    let (s, ts) := (List.range x.count).foldl (fun (acc : State × List Nat) i =>
      let (s, v) := acc.1.landTotal x i
      (s, acc.2 ++ [v])) (s, [])
    let rs := ts.map fun v => (cvtRne t .f64 v).1
    let bytes := (rs.zipIdx).flatMap fun r => (leBytes (vfSize x.tfmt) r.1).map fun b => (b, x.marked.contains r.2)
    let s := s.landPut x x.taddr targetClass bytes
    let past := (ts.zip rs).any fun p => isFiniteF .f64 p.1 && isInf t p.2
    let inv := ts.any fun v => isNaN .f64 v
    let bit (c : Bool) (n : Nat) : Nat := if c then 2 ^ n else 0
    let status := x.epoch % 2 ^ 32 + bit past 32 + bit inv 33 + bit (!x.marked.isEmpty) 34 + bit x.badpkt 35
    let s := s.landPut x x.saddr engineClass (clean (leBytes 8 status))
    let s := s.landPut x x.waddr (onlyClass 2) (clean (List.replicate (8 * x.works) 0))
    s.setBuf k b { x with epoch := (x.epoch + 1) % 2 ^ 32, ended := [], marked := [], badpkt := false }

/-- A packet that its buffer can take now: a translation fault stalls the buffer with the packet held first; else it is
applied, and the last END commits. -/
def State.takePacket (s : State) (k b : Nat) (x : LandBuf) (p : PacketFlight) : State :=
  match s.landStall x p.packet with
  | some va =>
    let (i, s) := s.engineFault x.ctx va 1 x.team (s.group x.group).home
    s.setBuf k b { x with held := p :: x.held, stalled := some i }
  | none =>
    let s := s.applyPacket k b x p.packet
    (if x.commits p.packet then s.commitBuf k b else s).landed p

/-- The held packets that the current epoch admits, in arrival order (R144). -/
def State.takeHeld (s : State) (k b : Nat) : Nat → State
  | 0 => s
  | n + 1 =>
    match (s.stack k).buf b with
    | none => s
    | some x =>
      if x.stalled.isSome then s
      else
        match x.held.find? fun p => !x.ended.contains p.packet.con with
        | none => s
        | some p =>
          let x := { x with held := x.held.erase p }
          State.takeHeld ((s.setBuf k b x).takePacket k b x p) k b n

/-- R143: a packet arrives at the landing unit: it is dropped, held or applied. -/
def State.arrivePacket (s : State) (p : PacketFlight) : State :=
  let k := p.packet.stack
  let b := p.packet.buf
  match (s.stack k).buf b with
  | none => (s.modStack k fun t => { t with badpkt := SMap.ins t.badpkt b true }).landed p
  | some x =>
    if x.ncon ≤ p.packet.con ∨ x.count < p.packet.elem + p.packet.vals.length then
      (s.setBuf k b { x with badpkt := true }).landed p
    else if x.ended.contains p.packet.con || x.stalled.isSome then s.setBuf k b { x with held := x.held ++ [p] }
    else
      let s := s.takePacket k b x p
      s.takeHeld k b (x.held.length + 1)

/-- REDUCTION_PACKET (R143, R144): the oldest packet of a copy queue, or one from a peer. -/
def execReductionPacket (src : PacketSrc) (s : State) : Out :=
  match src with
  | .peer p => .next (s.arrivePacket { sender := none, packet := p })
  | .copy core q =>
    let mine (f : PacketFlight) : Bool := match f.sender with
      | some (c, n, _, _) => c == core && n == q
      | none => false
    match s.packets.find? mine with
    | some p => .next (({ s with packets := s.packets.erase p } : State).arrivePacket p)
    | none => .next s

end Sys2Proof.Machine
end

