-- ==== Sys2Proof/Machine/Topiary.lean ====
section
/-! DEFINITION. Tile arithmetic (spec/13_instr_matrix_tile.md R327, R328, R332 to R341; spec/08_number_formats.md R210 to
R212): block sums, products, sums, factorisations and Topiary. A column of a factor is a list of 96 elements; a dense tile
is a list of rows here. Every operation gathers its flags. -/

namespace Sys2Proof.Machine

/-- A computation that gathers flags (R215). -/
abbrev Fl := StateM Nat
def Fl.of (r : Flagged) : Fl Nat := fun f => pure (r.1, f ||| r.2)
/-- The value and the flags of a computation. -/
def Fl.run {α : Type} (x : Fl α) : α × Nat := StateT.run x 0

/-! ### The helpers of R214, rounding to nearest -/

def addR (f : Ty) (a b : Nat) : Fl Nat := .of (addF f a b .rne false)
def subR (f : Ty) (a b : Nat) : Fl Nat := .of (subF f a b .rne false)
def mulR (f : Ty) (a b : Nat) : Fl Nat := .of (mulF f a b .rne false)
def divR (f : Ty) (a b : Nat) : Fl Nat := .of (divF f a b .rne false)
def sqrtR (f : Ty) (a : Nat) : Fl Nat := .of (sqrtF f a .rne)
def fmaR (f : Ty) (a b c : Nat) : Fl Nat := .of (fmaF f a b c .rne false)
def cvtR (dst frm : Ty) (a : Nat) : Fl Nat := .of (cvtRne dst frm a)

/-- A chain of fused multiply-adds from `c` (R212). -/
def chain (f : Ty) (c : Nat) (ps : List (Nat × Nat)) : Fl Nat := ps.foldlM (fun c p => fmaR f p.1 p.2 c) c
/-- The chain over two columns, from +0. -/
def dot (f : Ty) (x y : List Nat) : Fl Nat := chain f 0 (x.zip y)

/-- Lists of columns or rows. -/
abbrev Mat := List (List Nat)
def Mat.at (m : Mat) (i j : Nat) : Nat := (m.getD i []).getD j 0
/-- The `i`-th member of each. -/
def Mat.cross (m : Mat) (i : Nat) : List Nat := m.map fun c => c.getD i 0
/-- Rows of `n` as columns, and the reverse. -/
def Mat.flip (m : Mat) (n : Nat) : Mat := (List.range n).map m.cross
def Mat.each (m : Mat) (g : Nat → Fl Nat) : Fl Mat := List.mapM (fun (c : List Nat) => List.mapM g c) m
def Mat.neg (f : Ty) (m : Mat) : Mat := m.map fun c => c.map (negF f)
/-- An `r` by `c` matrix of rows. -/
def build (r c : Nat) (g : Nat → Nat → Fl Nat) : Fl Mat :=
  (List.range r).mapM fun i => (List.range c).mapM fun j => g i j

def one (f : Ty) : Nat := if f = .f64 then 0x3FF0000000000000 else 0x3F800000
def two (f : Ty) : Nat := if f = .f64 then 0x4000000000000000 else 0x40000000
/-- The bound of R340: 2^-52 or 2^-23. -/
def jacobiTol (f : Ty) : Nat := if f = .f64 then 0x3CB0000000000000 else 0x34000000
/-- The identity of width `w`. -/
def ident (f : Ty) (w n : Nat) : Mat := (List.range w).map fun c => (List.range n).map fun i => if i = c then one f else 0

/-! ### Tiles -/

/-- FMT of a tile as a type, and back (R53). -/
def tileTy : Nat → Ty
  | 0 => .f64
  | 1 => .f32
  | _ => .bf16
def tileFmt : Ty → Nat
  | .f64 => 0
  | .f32 => 1
  | _ => 2
/-- The work format of a type (R323). -/
def workTy (t : Ty) : Ty := if t = .f64 then .f64 else .f32

/-- What a slot holds (R52). -/
inductive TV where
  | zero
  | dense (rows : Mat)
  | low (u v : Mat)
  | acc (rows : Mat)

/-- A list cut into rows of 96. -/
def rowsOf : Nat → List Nat → Mat
  | 0, _ => []
  | n + 1, l => l.take 96 :: rowsOf n (l.drop 96)
def Tile.view (t : Tile) : TV :=
  match t.state with
  | 0 => .zero
  | 1 => .dense (rowsOf 96 t.u)
  | 2 => .low (rowsOf t.rank t.u) (rowsOf t.rank t.v)
  | _ => .acc (rowsOf 96 t.u)
def Tile.ofZero (ty : Ty) : Tile := { fmt := tileFmt ty }
def Tile.ofDense (ty : Ty) (m : Mat) : Tile := { state := 1, fmt := tileFmt ty, u := m.flatten }
def Tile.ofLow (ty : Ty) (u v : Mat) : Tile :=
  { state := 2, fmt := tileFmt ty, rank := u.length, u := u.flatten, v := v.flatten }
def Tile.ofAcc (m : Mat) : Tile := { state := 3, fmt := 1, u := m.flatten }

/-- Granules that a tile holds (R52). -/
def Tile.granules (t : Tile) : Nat :=
  match t.state with
  | 0 => 0
  | 2 => ((if t.fmt = 0 then 1536 else if t.fmt = 1 then 768 else 384) * t.rank + 4095) / 4096
  | _ => if t.fmt = 0 then 18 else if t.fmt = 1 then 9 else 5

/-! ### Dense results (R332) -/

/-- dense(U, V, w) from a starting matrix, in the work format. -/
def denseFrom (f : Ty) (start : Nat → Nat → Fl Nat) (u v : Mat) : Fl Mat :=
  build 96 96 fun i j => do
    let c ← start i j
    chain f c ((u.cross i).zip (v.cross j))
/-- dense(U, V, w), converted. -/
def denseOf (ty f : Ty) (u v : Mat) : Fl Tile := do
  let m ← denseFrom f (fun _ _ => pure 0) u v
  return .ofDense ty (← m.each (cvtR ty f))

/-! ### Topiary (R338 to R341) -/

/-- A Householder factorisation: R by columns, each vector h, and tau. -/
structure Qr where
  x : Mat
  h : Mat := []
  tau : List Nat := []

/-- The reflection of a vector by h, from row `j`. -/
def reflect (f : Ty) (j : Nat) (h : List Nat) (tau : Nat) (x : List Nat) : Fl (List Nat) := do
  let d ← dot f (h.drop j) (x.drop j)
  let d ← mulR f tau d
  let low ← ((h.drop j).zip (x.drop j)).mapM fun p => fmaR f (negF f d) p.1 p.2
  return x.take j ++ low

/-- One column of R339. -/
def houseStep (f : Ty) (w : Nat) (q : Qr) (j : Nat) : Fl Qr := do
  let xj := q.x.getD j []
  let a2 ← dot f (xj.drop j) (xj.drop j)
  let al ← sqrtR f a2
  if isZeroF f al then return { q with h := q.h ++ [[]], tau := q.tau ++ [0] }
  else
    let a := xj.getD j 0
    let be := if sgn f a then al else negF f al
    let hj ← subR f a be
    let h := List.replicate j 0 ++ [hj] ++ xj.drop (j + 1)
    let p ← mulR f (negF f be) hj
    let tau ← divR f (one f) p
    let rest ← (q.x.drop (j + 1)).mapM (reflect f j h tau)
    let col := xj.take j ++ [be] ++ xj.drop (j + 1)
    return { x := q.x.take j ++ [col] ++ rest.take (w - j - 1), h := q.h ++ [h], tau := q.tau ++ [tau] }

def houseQr (f : Ty) (x : Mat) : Fl Qr := (List.range x.length).foldlM (houseStep f x.length) { x := x }
/-- Row `a` of R: +0 below the diagonal. -/
def Qr.row (q : Qr) (a : Nat) : List Nat := (q.x.zipIdx).map fun p => if a ≤ p.2 then p.1.getD a 0 else 0

/-- R339's apply_q. -/
def applyQ (f : Ty) (q : Qr) (y : List Nat) : Fl (List Nat) :=
  ((List.range q.x.length).reverse).foldlM (fun x j =>
    let t := q.tau.getD j 0
    if isZeroF f t then pure x else reflect f j (q.h.getD j []) t x) (y ++ List.replicate (96 - y.length) 0)

/-- The pairs (p, q) of R340 in order. -/
def pairsOf (w : Nat) : List (Nat × Nat) :=
  (List.range w).flatMap fun p => ((List.range w).filter fun q => decide (p < q)).map fun q => (p, q)

/-- The rotation of two columns. -/
def rotate (f : Ty) (c s : Nat) (x y : List Nat) : Fl (List Nat × List Nat) := do
  let r ← (x.zip y).mapM fun p => do
    let sy ← mulR f s p.2
    let a ← fmaR f c p.1 (negF f sy)
    let cy ← mulR f c p.2
    let b ← fmaR f s p.1 cy
    return (a, b)
  return (r.map (·.1), r.map (·.2))

def Mat.setCol (m : Mat) (j : Nat) (c : List Nat) : Mat := (m.zipIdx).map fun p => if p.2 = j then c else p.1

/-- One pair of a sweep of R340. -/
def jacobiPair (f : Ty) (kw : Mat × Mat) (p q : Nat) : Fl (Mat × Mat) := do
  let (k, w) := kw
  let kp := k.getD p []
  let kq := k.getD q []
  let al ← dot f kp kp
  let be ← dot f kq kq
  let ga ← dot f kp kq
  if isZeroF f ga then return kw
  else
    let n ← subR f be al
    let d ← mulR f (two f) ga
    let ze ← divR f n d
    let r ← fmaR f ze ze (one f)
    let r ← sqrtR f r
    let r ← addR f (absF f ze) r
    let t ← divR f (one f) r
    let t := if sgn f ze then negF f t else t
    let r ← fmaR f t t (one f)
    let r ← sqrtR f r
    let c ← divR f (one f) r
    let s ← mulR f c t
    let (kp, kq) ← rotate f c s kp kq
    let (wp, wq) ← rotate f c s (w.getD p []) (w.getD q [])
    return ((k.setCol p kp).setCol q kq, (w.setCol p wp).setCol q wq)

/-- R340: at most `n` sweeps, each after its test. -/
def jacobi (f : Ty) : Nat → Mat × Mat → Fl (Mat × Mat)
  | 0, kw => pure kw
  | n + 1, kw => do
    let k := kw.1
    let f2 ← k.foldlM (fun acc c => do addR f acc (← dot f c c)) 0
    let off ← (pairsOf k.length).foldlM (fun acc p => do
      let g ← dot f (k.getD p.1 []) (k.getD p.2 [])
      fmaR f g g acc) 0
    let lhs ← sqrtR f off
    let rhs ← mulR f (jacobiTol f) f2
    if leF f lhs rhs then return kw
    else
      let kw ← (pairsOf k.length).foldlM (fun kw p => jacobiPair f kw p.1 p.2) kw
      jacobi f n kw

/-- Column `c` entered by its value, greater first and equal values in index order (R338). -/
def enterSig (f : Ty) (sig : List Nat) (c : Nat) : List Nat → List Nat
  | [] => [c]
  | a :: t => if ltF f (sig.getD a 0) (sig.getD c 0) then c :: a :: t else a :: enterSig f sig c t
def sigOrder (f : Ty) (sig : List Nat) : List Nat :=
  (List.range sig.length).foldl (fun acc c => enterSig f sig c acc) []

/-- The rank controls an entry took (R322). -/
structure RankCtl where
  ceil : Nat
  mode : Nat
  fixr : Nat
  tol : Nat

/-- The tail of MODE 01: the least rank whose tail is within the limit (R341). -/
def tailRank (f : Ty) (lim : Nat) : List Nat → Nat → Nat → Fl Nat
  | [], _, r => pure r
  | s :: t, tail, r => do
    let tail ← fmaR f s s tail
    let q ← sqrtR f tail
    if leF f q lim then tailRank f lim t tail (r - 1) else return r

/-- R341: the kept rank, and whether it drops a non-zero value. `sg` is in descending order. -/
def truncateRank (f : Ty) (c : RankCtl) (sg : List Nat) : Fl (Nat × Bool) := do
  let nz := (sg.filter fun s => ltF f 0 s).length
  let t := if isNaN .f64 c.tol || ltF .f64 c.tol 0 then 0 else c.tol
  let t ← cvtR f .f64 t
  let r ← match c.mode with
    | 0 => pure (sg.filter fun s => ltF f t s).length
    | 1 => do
      let tot ← sg.foldlM (fun a s => fmaR f s s a) 0
      let q ← sqrtR f tot
      let lim ← mulR f t q
      tailRank f lim sg.reverse 0 sg.length
    | _ => pure (min c.fixr nz)
  return (r, decide (r < nz))

def Mat.finite (f : Ty) (m : Mat) : Bool := m.all fun c => c.all (isFiniteF f)

/-- R338: topiary(U, V, w) in format `ty`; with the result, whether truncation dropped something. -/
def topiary (ty f : Ty) (ctl : RankCtl) (u v : Mat) : Fl (Tile × Bool) := do
  let dense : Fl (Tile × Bool) := do return (← denseOf ty f u v, false)
  if !u.finite f || !v.finite f then dense
  else
    let w := u.length
    let qu ← houseQr f u
    let qv ← houseQr f v
    let k : Mat ← build w w fun b a => dot f (qu.row a) (qv.row b)
    let (k, wm) ← jacobi f 8 (k, ident f w w)
    let sig : List Nat ← List.mapM (fun (c : List Nat) => do
      let n ← dot f c c
      sqrtR f n) k
    if !(sig.all (isFiniteF f)) || !Mat.finite f k || !wm.finite f then dense
    else
      let ord := sigOrder f sig
      let (r, clip) ← truncateRank f ctl (ord.map fun c => sig.getD c 0)
      if ctl.ceil < r then return ((← dense).1, clip)
      else if r = 0 then return (.ofZero ty, clip)
      else
        let fac (q : Qr) (m : Mat) : Fl Mat := (ord.take r).mapM fun c => do
          let x ← applyQ f q (m.getD c [])
          x.mapM (cvtR ty f)
        return (.ofLow ty (← fac qu k) (← fac qv wm), clip)

/-! ### Products and sums (R333, R334) -/

/-- An operand in the work format. -/
def TV.widen (f frm : Ty) : TV → Fl TV
  | .zero => pure .zero
  | .dense m => return .dense (← m.each (cvtR f frm))
  | .low u v => return .low (← u.each (cvtR f frm)) (← v.each (cvtR f frm))
  | .acc m => return .acc (← m.each (cvtR f frm))
/-- An operand with its sign inverted; a low-rank one in its U factor (R329, R334). -/
def TV.negate (f : Ty) : TV → TV
  | .dense m => .dense (m.neg f)
  | .low u v => .low (u.neg f) v
  | t => t

/-- The product of R333 as factors or as a pair of dense operands. -/
inductive Prod where
  | none
  | dense (a b : Mat)
  | low (p q : Mat)

/-- Columns formed by chains over `n` members: entry (i, c) over the pairs that `g` gives. -/
def cols (f : Ty) (n r : Nat) (g : Nat → Nat → List (Nat × Nat)) : Fl Mat :=
  build r n fun c i => chain f 0 (g i c)

def prodOf (f : Ty) (a b : TV) : Fl Prod :=
  match a, b with
  | .dense d, .dense e => pure (.dense d e)
  | .dense d, .low u v => do
    let p ← cols f 96 u.length fun i c => (d.getD i []).zip (u.getD c [])
    return .low p v
  | .low u v, .dense d => do
    let q ← cols f 96 u.length fun j c => (d.cross j).zip (v.getD c [])
    return .low u q
  | .low u1 v1, .low u2 v2 => do
    let m ← build u1.length u2.length fun a b => dot f (v1.getD a []) (u2.getD b [])
    if u1.length ≤ u2.length then
      let q ← cols f 96 u1.length fun j a => (v2.cross j).zip (m.getD a [])
      return .low u1 q
    else
      let p ← cols f 96 u2.length fun i b => (u1.cross i).zip (m.cross b)
      return .low p v2
  | _, _ => pure .none

/-- Whether an operand is accepted where acc is not and a format must match (R323). -/
def Tile.accepts (ty : Ty) (t : Tile) : Bool := t.state == 0 || (decide (t.state ≤ 2) && t.fmt == tileFmt ty)

/-- The value and flags of a tile operation; none for BADOP. Bit 4 of the flags stands for CLIP. -/
abbrev TileRes := Option (Tile × Nat)
def done (x : Fl Tile) : TileRes :=
  let (t, f) := Fl.run x
  some (t, f % 16)
def doneClip (x : Fl (Tile × Bool)) : TileRes :=
  let ((t, c), f) := Fl.run x
  some (t, f % 16 + if c then 16 else 0)

/-- to.dense, to.cmpr and to.round (R332). -/
def tileConvert (ty : Ty) (ctl : RankCtl) (how : TileJob) (a : Tile) : TileRes :=
  let f := workTy ty
  let frm := tileTy a.fmt
  match how, a.view with
  | .dense, .zero => some (.ofDense ty ((List.range 96).map fun _ => List.replicate 96 0), 0)
  | _, .zero => some (.ofZero ty, 0)
  | .cmpr, .dense m => doneClip (do
      let m ← m.each (cvtR f frm)
      topiary ty f ctl (Mat.flip m 96) (ident f 96 96))
  | _, .dense m => done (do
      let m ← m.each (cvtR f frm)
      return .ofDense ty (← m.each (cvtR ty f)))
  | .dense, .low u v => done (do
      let u ← u.each (cvtR f frm)
      let v ← v.each (cvtR f frm)
      denseOf ty f u v)
  | _, .low u v => doneClip (do
      let u ← u.each (cvtR f frm)
      let v ← v.each (cvtR f frm)
      topiary ty f ctl u v)
  | .dense, .acc m => done (do
      let m ← m.each (cvtR f frm)
      return .ofDense ty (← m.each (cvtR ty f)))
  | _, .acc _ => none

def signed (f : Ty) (neg : Bool) (t : TV) : TV := if neg then t.negate f else t
/-- The three operands' views in the work format. -/
def Tile.work (f : Ty) (t : Tile) : Fl TV := t.view.widen f (tileTy t.fmt)

/-- to.mul (R333); a zero operand gives zero whatever the other holds. -/
def tileMul (ty : Ty) (sel : Nat) (a b : Tile) : TileRes :=
  let f := workTy ty
  if !a.accepts ty || !b.accepts ty then none
  else if a.state = 0 ∨ b.state = 0 then some (.ofZero ty, 0)
  else done (do
    let x := signed f (sel % 2 == 1) (← a.work f)
    let y := signed f (sel / 2 == 1) (← b.work f)
    match ← prodOf f x y with
    | .none => return .ofZero ty
    | .dense d e => do
      let m ← build 96 96 fun i j => chain f 0 ((d.getD i []).zip (e.cross j))
      return .ofDense ty (← m.each (cvtR ty f))
    | .low p q => return .ofLow ty (← p.each (cvtR ty f)) (← q.each (cvtR ty f)))

/-- A sum of two signed operands (R334). -/
def sumOf (ty f : Ty) (ctl : RankCtl) (x y : TV) : Fl (Tile × Bool) :=
  let low (m u v : Mat) : Fl (Tile × Bool) := do
    let r ← denseFrom f (fun i j => pure (Mat.at m i j)) u v
    return (.ofDense ty (← r.each (cvtR ty f)), false)
  let same (m : Mat) : Fl (Tile × Bool) := do return (.ofDense ty (← m.each (cvtR ty f)), false)
  match x, y with
  | .dense a, .dense b => do
    let m ← build 96 96 fun i j => addR f (Mat.at a i j) (Mat.at b i j)
    same m
  | .dense a, .low u v => low a u v
  | .low u v, .dense a => low a u v
  | .low u v, .low u2 v2 => topiary ty f ctl (u ++ u2) (v ++ v2)
  | .low u v, _ => topiary ty f ctl u v
  | _, .low u v => topiary ty f ctl u v
  | _, _ => pure (.ofZero ty, false)
/-- A tile of format `ty` kept with its sign: nothing is converted (R334). -/
def Tile.kept (ty : Ty) (neg : Bool) (t : Tile) : Tile :=
  { t with u := if neg then t.u.map (negF ty) else t.u }

/-- to.add (R334). -/
def tileAdd (ty : Ty) (ctl : RankCtl) (sel : Nat) (a b : Tile) : TileRes :=
  let f := workTy ty
  if !a.accepts ty || !b.accepts ty then none
  else if a.state = 1 ∧ b.state = 0 then some (a.kept ty (sel % 2 == 1), 0)
  else if a.state = 0 ∧ b.state = 1 then some (b.kept ty (sel / 2 == 1), 0)
  else doneClip (do
    let x := signed f (sel % 2 == 1) (← a.work f)
    let y := signed f (sel / 2 == 1) (← b.work f)
    sumOf ty f ctl x y)

/-- The addend of a dense result of to.gemm (R334). -/
def TV.start (f : Ty) : TV → Nat → Nat → Fl Nat
  | .dense m, i, j => pure (Mat.at m i j)
  | .low u v, i, j => chain f 0 ((u.cross i).zip (v.cross j))
  | _, _, _ => pure 0

/-- to.gemm (R334). -/
def tileGemm (ty : Ty) (ctl : RankCtl) (sel : Nat) (a b c : Tile) : TileRes :=
  let f := workTy ty
  if !a.accepts ty || !b.accepts ty || !c.accepts ty then none
  else if a.state = 0 ∨ b.state = 0 then
    some (if c.state = 0 then .ofZero ty else c.kept ty (sel / 2 == 1), 0)
  else doneClip (do
    let x := signed f (sel % 2 == 1) (← a.work f)
    let y ← b.work f
    let z := signed f (sel / 2 == 1) (← c.work f)
    let dense (start : Nat → Nat → Fl Nat) (ps : Nat → Nat → List (Nat × Nat)) : Fl (Tile × Bool) := do
      let m ← build 96 96 fun i j => do
        let s ← start i j
        chain f s (ps i j)
      return (.ofDense ty (← m.each (cvtR ty f)), false)
    match ← prodOf f x y, z with
    | .none, _ => return (.ofZero ty, false)
    | .dense d e, z => dense (z.start f) fun i j => (d.getD i []).zip (e.cross j)
    | .low p q, .dense m => dense (TV.start f (.dense m)) fun i j => (p.cross i).zip (q.cross j)
    | .low p q, .low u v => topiary ty f ctl (u ++ p) (v ++ q)
    | .low p q, _ => topiary ty f ctl p q)

/-! ### Factorisation and solves (R335 to R337) -/

/-- One step of R335: the rows below row `k`. -/
def luStep (f : Ty) (m : Mat) (k : Nat) : Fl Mat := do
  let pivot := m.getD k []
  let below ← (m.drop (k + 1)).mapM fun row => do
    let l ← divR f (row.getD k 0) (pivot.getD k 0)
    let tail ← ((row.drop (k + 1)).zip (pivot.drop (k + 1))).mapM fun p => fmaR f (negF f l) p.2 p.1
    return row.take k ++ [l] ++ tail
  return m.take (k + 1) ++ below

/-- to.lu (R335). -/
def tileLu (ty : Ty) (a : Tile) : TileRes :=
  let f := workTy ty
  match a.view with
  | .dense m => if !a.accepts ty then none else done (do
      let m ← m.each (cvtR f (tileTy a.fmt))
      let m ← (List.range 96).foldlM (luStep f) m
      return .ofDense ty (← m.each (cvtR ty f)))
  | _ => none

/-- A triangular solve of one vector: the order of the unknowns, the earlier unknowns of each in the order of the sum,
the coefficient of `k` in equation `i`, the sign's place, and the divisor (R336). -/
def solve (f : Ty) (up divs left : Bool) (t : Mat) (b : List Nat) : Fl (List Nat) := do
  let idx := if up then List.range 96 else (List.range 96).reverse
  let x ← idx.foldlM (fun (x : SMap Nat) i => do
    let ks := (List.range 96).filter fun k => if up then decide (k < i) else decide (i < k)
    let ps := ks.map fun k =>
      let xk := SMap.look 0 x k
      if left then (negF f (Mat.at t i k), xk) else (negF f xk, Mat.at t k i)
    let r ← chain f (b.getD i 0) ps
    let r ← if divs then divR f r (Mat.at t i i) else pure r
    return x ++ [(i, r)]) []
  return (List.range 96).map fun i => SMap.look 0 x i

/-- The triangle of T that a solve uses, with its diagonal or without, in the work format; the rest as +0. -/
def triangle (f frm : Ty) (divs : Bool) (t : Mat) : Fl Mat :=
  build 96 96 fun i j =>
    if (if divs then decide (i ≤ j) else decide (j < i)) then cvtR f frm (Mat.at t i j) else pure 0

/-- to.trsm (R336): sides ll, lu, rl, ru; what it keeps is not converted. -/
def tileTrsm (ty : Ty) (sel : Nat) (a b : Tile) : TileRes :=
  let f := workTy ty
  match a.view with
  | .dense t =>
    if !a.accepts ty || !b.accepts ty then none
    else
      let left := decide (sel < 2)
      let wide (m : Mat) : Fl Mat := m.each (cvtR f (tileTy b.fmt))
      let sv : Fl (List Nat → Fl (List Nat)) := do
        let t ← triangle f (tileTy a.fmt) (sel % 2 == 1) t
        return solve f (sel == 0 || sel == 3) (sel % 2 == 1) left t
      match b.view with
      | .dense m => done (do
          let m ← wide m
          let r ← List.mapM (← sv) (if left then Mat.flip m 96 else m)
          let r : Mat := if left then Mat.flip r 96 else r
          return .ofDense ty (← Mat.each r (cvtR ty f)))
      | .low u v =>
        if left then done (do
          let u ← List.mapM (← sv) (← wide u)
          return .ofLow ty (← Mat.each u (cvtR ty f)) v)
        else done (do
          let v ← List.mapM (← sv) (← wide v)
          return .ofLow ty u (← Mat.each v (cvtR ty f)))
      | _ => some (.ofZero ty, 0)
  | _ => none

/-- to.scal (R337). -/
def tileScal (ty : Ty) (alpha : Nat) (a : Tile) : TileRes :=
  let f := workTy ty
  if !a.accepts ty then none
  else done (do
    let g (x : Nat) : Fl Nat := do
      let r ← mulR f x alpha
      cvtR ty f r
    let wide (m : Mat) : Fl Mat := m.each (cvtR f (tileTy a.fmt))
    match a.view with
    | .dense m => return .ofDense ty (← (← wide m).each g)
    | .low u v => return .ofLow ty (← (← wide u).each g) v
    | _ => return .ofZero ty)

/-- to.tr (R337). -/
def tileTr (a : Tile) : Tile :=
  match a.view with
  | .zero => a
  | .dense m => { a with u := (Mat.flip m 96).flatten }
  | .low u v => { a with u := v.flatten, v := u.flatten }
  | .acc m => { a with u := (Mat.flip m 96).flatten }

/-! ### Fragment multiplies (R210, R211, R327, R328) -/

/-- A scaled element: a NaN as its f32 bits, an infinity, or a number in units of 2^-160 with the sign of a zero. -/
inductive Elem where
  | nan (bits : Nat) (sig : Bool)
  | inf (neg : Bool)
  | num (neg : Bool) (v : Int)

/-- The bits of an element under its scale code; none for an unscaled one (R210). -/
def Elem.of (t : Ty) (x : Nat) (sc : Option Nat) : Elem :=
  let unit : Nat := match sc with
    | some c => 2 ^ (33 + c)
    | none => 2 ^ 160
  if sc = some 255 then .nan (defNaN .f32) false
  else match t with
    | .i8 => .num false (intVal .i8 x * unit)
    | .tern => .num false (ternVal x * unit)
    | _ =>
      match decodeF t x with
      | .nan => .nan (cvtExact .f32 t x) (isSNaN t x)
      | .inf s => .inf s
      | .zero s => .num s 0
      | .fin s n d => .num s ((if s then -1 else 1) * ((n * unit / d : Nat) : Int))

/-- The block sum of some products, each with its k position (R211). The model's choices where two of its sentences meet,
or none decides (log 90): a NaN product goes before an invalid one, and then INV is set by a signalling element alone; of
two NaN products at one k, as mf.mmasp can have, the lowest kept element's is taken. -/
def blockSum (ps : List (Nat × Elem × Elem)) : Flagged :=
  let sig := ps.any fun p => (match p.2.1 with
    | .nan _ s => s
    | _ => false) || (match p.2.2 with
    | .nan _ s => s
    | _ => false)
  let nans : List (Nat × Nat) := ps.filterMap fun p => match p.2.1, p.2.2 with
    | .nan b _, _ => some (p.1, b)
    | _, .nan b _ => some (p.1, b)
    | _, _ => none
  match nans with
  | q :: t => ((t.foldl (fun a b => if b.1 < a.1 then b else a) q).2, if sig then fINV else 0)
  | [] =>
    let infs : List Bool := ps.filterMap fun p => match p.2.1, p.2.2 with
      | .inf s, .inf u => some (s != u)
      | .inf s, .num u _ => some (s != u)
      | .num s _, .inf u => some (s != u)
      | _, _ => none
    let bad := ps.any fun p => match p.2.1, p.2.2 with
      | .inf _, .num _ 0 => true
      | .num _ 0, .inf _ => true
      | _, _ => false
    if bad || (infs.contains true && infs.contains false) then invalid .f32
    else match infs with
      | s :: _ => (infOf .f32 s, 0)
      | [] =>
        let nums : List (Bool × Int) := ps.filterMap fun p => match p.2.1, p.2.2 with
          | .num s x, .num u y => some (s != u, x * y)
          | _, _ => none
        let sum : Int := nums.foldl (fun a q => a + q.2) 0
        if sum = 0 then (zeroOf .f32 (!nums.isEmpty && nums.all fun q => q.1 && q.2 == 0), 0)
        else roundF .f32 (decide (sum < 0)) sum.natAbs (2 ^ 320) .rne false

/-- Element `k` of a slot's words under its scale; a slot with no active thread supplies +0, which a block of scale code
0xFF decodes as the default NaN like any element (R210, R327). -/
def fragElem (t : Ty) (ws : List Nat) (l : Nat) (sc : List Nat) (k at_ : Nat) : Elem :=
  let per := 32 / elemBits t
  let code : Option Nat := if l = 0 then none else some (sc.getD (at_ / l) 0)
  if ws.isEmpty then (if code = some 255 then .nan (defNaN .f32) false else .num false 0)
  else .of t (getElem t (k % per) (ws.getD (k / per) 0)) code

/-- The k position that kept element `e` stands for (R328): the index is a field of log2 M bits. -/
def keptAt (m : Nat) (idx : List Nat) (e : Nat) : Nat :=
  let lg := Nat.log2 m
  let all := (idx.zipIdx).foldl (fun acc p => acc + p.1 * 2 ^ (32 * p.2)) 0
  m * (e / (m / 2)) + all / 2 ^ (e * lg) % m

/-- The row of A at lane slot `i`: each element with its k position. -/
def rowA (t : Ty) (k m : Nat) (ws idx : List Nat) (l : Nat) (sc : List Nat) : List (Nat × Elem) :=
  if m = 0 then (List.range k).map fun e => (e, fragElem t ws l sc e e)
  else (List.range (k / 2)).map fun e =>
    let p := keptAt m idx e
    (p, fragElem t ws l sc e p)

/-- The result of a fragment multiply (R327). -/
def fragMul (clr : Bool) (c : Mat) (aty bty : Ty) (k m : Nat) (a b idx : List (List Nat)) (la lb : Nat)
    (sa sb : List (List Nat)) : Fl Tile := do
  let blk := if aty = .f32 then 16 else 32
  let rows := (List.range 96).map fun i => rowA aty k m (a.getD i []) (idx.getD i []) la (sa.getD i [])
  let colsB := (List.range 96).map fun j => (List.range k).map fun e => fragElem bty (b.getD j []) lb (sb.getD j []) e e
  let r ← build 96 96 fun i j =>
    let row := rows.getD i []
    let col := colsB.getD j []
    (List.range (k / blk)).foldlM (fun acc n => do
      let ps := (row.filter fun p => p.1 / blk == n).map fun p => (p.1, p.2, col.getD p.1 (.num false 0))
      let t ← Fl.of (blockSum ps)
      addR .f32 acc t) (if clr then 0 else Mat.at c i j)
  return .ofAcc r

end Sys2Proof.Machine
end

