-- ==== Sys2Proof/Machine/Tile.lean ====
section
/-! DEFINITION. The tile window and its forms mf, to and tq (spec/13_instr_matrix_tile.md R320 to R331, R342, R343;
spec/07_scheduling.md R192, R193), the slot directory and the granules (spec/02_storage_on_chip.md R52 to R58). -/

namespace Sys2Proof.Machine

/-! ### Directory and granules (R53 to R57) -/

/-- A slot's granules, by following the granule map. -/
def granList (gmap : SMap Nat) (g : Nat) : Nat → List Nat
  | 0 => []
  | n + 1 => g :: granList gmap (SMap.look 0x7FF gmap g) n
def Pair.used (p : Pair) : List Nat := p.dir.flatMap fun e => granList p.gmap e.2.ghead e.2.ngran
/-- A list written into the granule map. -/
def linkList (gmap : SMap Nat) : List Nat → SMap Nat
  | [] => gmap
  | [a] => SMap.ins gmap a 0x7FF
  | a :: b :: t => linkList (SMap.ins gmap a b) (b :: t)

/-- The granules of directory entry `k` become `new` in number: those kept come first (R57). -/
def Pair.resize (p : Pair) (k new : Nat) : Pair :=
  let e := p.entry k
  let l := granList p.gmap e.ghead e.ngran
  let used := p.used
  let free := (List.range Config.tileGranules).filter fun g => !used.contains g
  let l' := if new ≤ l.length then l.take new else l ++ free.take (new - l.length)
  let gmap := l.foldl (fun m g => SMap.erase m g) p.gmap
  { p with gmap := linkList gmap l', dir := SMap.ins p.dir k { e with ghead := l'.headD 0, ngran := new } }

/-! ### Issue (R320, R192) -/

/-- The completion word's offset and its checks. -/
def State.cwFail (s : State) (off : Nat) : Option (Nat × Nat) :=
  if off % 8 ≠ 0 then some (3, off)
  else if (s.scratchOf s.curTeam).size < off + 8 then some (5, off) else none

/-- Slots that a team does not have (R12). -/
def State.badSlot (s : State) (slots : List Nat) : Option Nat :=
  slots.find? fun n => decide ((s.team s.curTeam).krec.tiles ≤ n)

/-- Enters a window entry, and marks its destination pending (R53). -/
def State.tileEnter (s : State) (e : WEntry) (pend : Bool) : State :=
  let (id, s) := s.fresh
  let s := s.enterWindow { e with id := id }
  if pend then
    s.modPair (s.teamPair e.team) fun x => { x with dir := SMap.ins x.dir e.td { x.entry e.td with pend := true } }
  else s

/-- The entry of the issuing group, with its slots as directory entries and the controls of R322. -/
def State.tileEntry (s : State) (job : TileJob) (ty : Ty) (sel cw td ta tb tc : Nat) : WEntry :=
  let c := s.ctx s.curCtx
  let p := s.pair (s.teamPair s.curTeam)
  let slot (n : Nat) : Nat := (p.slot s.curTeam n).getD 0
  { id := 0, ctx := s.curCtx, team := s.curTeam, group := s.lowest, pc := (s.ig s.cur).pc, job := job, ty := ty,
    sel := sel, td := slot td, ta := slot ta, tb := slot tb, tc := slot tc, cw := cw, ceil := c.rankCeil.toNat % 64,
    mode := c.rankMode.toNat, tol := c.rankTol }

/-- A window form of `len` bytes: the slots it names, its address if it has one, and the entry. -/
def State.tile (s : State) (len : Nat) (slots : List Nat) (cw : Nat) (addr : Option DWord) (pend : Bool)
    (more : Option (Nat × Nat)) (e : Nat → WEntry) : Out :=
  s.finish len (
    if (s.lanes s.cur).isEmpty then .done s
    else
      match s.badSlot slots with
      | some n => .trap s 5 (BitVec.ofNat 64 n)
      | none =>
        let off := (s.readS s.lowest cw).toNat
        match s.cwFail off with
        | some (c, a) => .trap s c (BitVec.ofNat 64 a)
        | none =>
          let bad : Option (Nat × DWord) := match addr with
            | some a => if a.toNat % 64 ≠ 0 then some (3, a) else if 2 ^ 48 ≤ a.toNat then some (5, a) else none
            | none => more.map fun m => (m.1, BitVec.ofNat 64 m.2)
          match bad with
          | some (c, a) => .trap s c a
          | none =>
            if !s.windowRoom (s.group s.lowest).core 1 then .wait s.awaitWindow
            else .done (s.tileEnter (e off) pend))

/-! ### mf (R325 to R328) -/

/-- Types that e8 scales apply to (R210). -/
def scaledTy : Ty → Bool
  | .f8e5 => true | .f8e4 => true | .f4 => true | .i8 => true | .tern => true
  | _ => false

/-- The words of lane slot `l` of a register range; none for a slot with no active thread (R327). -/
def State.fragWords (s : State) (r n : Nat) : List (List Nat) :=
  let ls := s.lanes s.cur
  (List.range 96).map fun l => match ls.find? fun p => p.1 == l with
    | some (_, h) => (List.range n).map fun i => (s.readV (s.gid h) (r + i) l).toNat
    | none => []

/-- The scale bytes of an operand, row by row, from a scratch offset (R326). -/
def State.scaleRows (s : State) (off k l : Nat) : List (List Nat) :=
  let m := s.scratchOf s.curTeam
  let n := k / l
  (List.range 96).map fun i => ((m.read (off + i * n) n).map (·.toNat))
/-- Their check at issue (R320): inside the scratch, and free of poison. -/
def State.scaleFail (s : State) (off k l : Nat) : Option (Nat × Nat) :=
  let m := s.scratchOf s.curTeam
  let n := 96 * (k / l)
  if m.size < off + n then some (5, off)
  else ((List.range n).find? fun i => m.poisonedAt (off + i)).map fun i => (7, off + i)

/-- An mf form. A pair that R326 does not accept makes an entry that commits as BADOP. -/
def State.mf (s : State) (sp : Bool) (x : MfArgs) : Out :=
  let g := s.lowest
  let fb := s.readS g x.fb
  let n := fb.toNat
  let reserved := n / 2 ^ 5 % 8 != 0 || n / 2 ^ 10 % 64 != 0 || n / 2 ^ 21 % 8 != 0 || n / 2 ^ 26 != 0
  let ascl := fb.getLsbD 9
  let bscl := fb.getLsbD 25
  let la := if !ascl then 0 else if fb.getLsbD 8 then 16 else 32
  let lb := if !bscl then 0 else if fb.getLsbD 24 then 16 else 32
  let m := if sp then 2 ^ spLog x.sel else 0
  let shape : Option (Ty × Ty × Nat × Nat × Nat) :=
    match fragTypes fb with
    | some (a, b) =>
      match fragShape a b with
      | some (k, na, nb, okSp) =>
        if reserved || (sp && !okSp) || (ascl && !scaledTy a) || (bscl && !scaledTy b) then none else some (a, b, k, na, nb)
      | none => none
    | none => none
  let oa := (s.readS g (x.fb + 1)).toNat
  let ob := (s.readS g (x.fb + 2)).toNat
  let scaleBad : Option (Nat × Nat) := match shape with
    | none => none
    | some (_, _, k, _, _) =>
      let fa := if la = 0 then none else s.scaleFail oa k la
      let fb := if lb = 0 then none else s.scaleFail ob k lb
      let prot (f : Option (Nat × Nat)) : Option (Nat × Nat) := f.filter fun p => p.1 == 5
      (prot fa).orElse fun _ => (prot fb).orElse fun _ => match fa, fb with
        | some a, some b => some (if b.2 < a.2 then b else a)
        | _, _ => fa.orElse fun _ => fb
  let job : TileJob := match shape with
    | none => .badMma
    | some (a, b, k, na, nb) =>
      .mma (x.sel % 2 == 1) a b k m (s.fragWords x.a (if sp then na / 2 else na)) (s.fragWords x.b nb)
        (if sp then s.fragWords x.idx (k * spLog x.sel / 64) else []) la lb
        (if la = 0 then [] else s.scaleRows oa k la) (if lb = 0 then [] else s.scaleRows ob k lb)
  s.tile 16 [x.tc] x.cw none true scaleBad fun off => s.tileEntry job .f32 x.sel off x.tc x.tc x.tc x.tc

/-- MF_MMA (R327). -/
def execMfMma (x : MfArgs) (s : State) : Out := s.mf false x
/-- MF_MMASP (R328). -/
def execMfMmasp (x : MfArgs) (s : State) : Out := s.mf true x

/-! ### to (R329 to R337) -/

/-- A to form with its slots. -/
def State.tileForm (s : State) (x : ToArgs) (job : TileJob) (slots : List Nat) (pend : Bool) : Out :=
  s.tile 12 slots x.cw none pend none fun off => s.tileEntry job x.ty x.sel off x.td x.ta x.tb x.tc
def State.toAddr (s : State) (x : ToArgs) : DWord := s.readS64 s.lowest x.bp + sext24 x.off

/-- TO_LD (R330). -/
def execToLd (x : ToArgs) (s : State) : Out :=
  let a := s.toAddr x
  s.tile 12 [x.td] x.cw (some a) true none fun off => s.tileEntry (.ld a.toNat) x.ty x.sel off x.td x.td x.td x.td
/-- TO_ST (R330). -/
def execToSt (x : ToArgs) (s : State) : Out :=
  let a := s.toAddr x
  s.tile 12 [x.ta] x.cw (some a) false none fun off => s.tileEntry (.st a.toNat) x.ty x.sel off x.ta x.ta x.ta x.ta
/-- TO_ZERO (R331). -/
def execToZero (x : ToArgs) (s : State) : Out := s.tileForm x (.zero (x.sel == 1)) [x.td] true
/-- TO_FREE (R331). -/
def execToFree (x : ToArgs) (s : State) : Out := s.tileForm x .free [x.td] true
/-- TO_DENSE (R332). -/
def execToDense (x : ToArgs) (s : State) : Out := s.tileForm x .dense [x.td, x.ta] true
/-- TO_CMPR (R332). -/
def execToCmpr (x : ToArgs) (s : State) : Out := s.tileForm x .cmpr [x.td, x.ta] true
/-- TO_ADD (R334). -/
def execToAdd (x : ToArgs) (s : State) : Out := s.tileForm x .add [x.td, x.ta, x.tb] true
/-- TO_MUL (R333). -/
def execToMul (x : ToArgs) (s : State) : Out := s.tileForm x .mul [x.td, x.ta, x.tb] true
/-- TO_GEMM (R334). -/
def execToGemm (x : ToArgs) (s : State) : Out := s.tileForm x .gemm [x.td, x.ta, x.tb, x.tc] true
/-- TO_LU (R335). -/
def execToLu (x : ToArgs) (s : State) : Out := s.tileForm x .lu [x.td, x.ta] true
/-- TO_TRSM (R336). -/
def execToTrsm (x : ToArgs) (s : State) : Out := s.tileForm x .trsm [x.td, x.ta, x.tb] true
/-- TO_SCAL (R337). -/
def execToScal (x : ToArgs) (s : State) : Out :=
  let v := s.readS64 s.lowest x.bp
  s.tileForm x (.scal (if x.ty = .f64 then v.toNat else v.toNat % 2 ^ 32)) [x.td, x.ta] true
/-- TO_TR (R337). -/
def execToTr (x : ToArgs) (s : State) : Out := s.tileForm x .tr [x.td, x.ta] true
/-- TO_ROUND (R332). -/
def execToRound (x : ToArgs) (s : State) : Out := s.tileForm x .round [x.td, x.ta] true

/-! ### Starting (R193) -/

def WEntry.isJoin (e : WEntry) : Bool := match e.job with
  | .join _ => true
  | _ => false
/-- The slots an entry reads, as directory entries. -/
def WEntry.reads (e : WEntry) : List Nat := match e.job with
  | .st _ => [e.ta]
  | .mma clr _ _ _ _ _ _ _ _ _ _ _ => if clr then [] else [e.tc]
  | .dense => [e.ta]
  | .cmpr => [e.ta]
  | .round => [e.ta]
  | .lu => [e.ta]
  | .tr => [e.ta]
  | .scal _ => [e.ta]
  | .add => [e.ta, e.tb]
  | .mul => [e.ta, e.tb]
  | .trsm => [e.ta, e.tb]
  | .gemm => [e.ta, e.tb, e.tc]
  | _ => []

/-- The resources of R193: 0 the array, 1 Topiary, 2 the port. -/
def Pair.resources (p : Pair) (e : WEntry) : List Nat :=
  let st (k : Nat) : Nat := (p.entry k).tile.state
  match e.job with
  | .ld _ => [2] | .st _ => [2] | .zero _ => [2] | .free => [2]
  | .add => [1] | .round => [1] | .cmpr => [1] | .dense => [1]
  | .gemm =>
    let low := (st e.ta == 2 && (st e.tb == 1 || st e.tb == 2)) || (st e.ta == 1 && st e.tb == 2)
    if low && (st e.tc == 0 || st e.tc == 2) then [0, 1] else [0]
  | .join _ => []
  | _ => [0]

/-- Whether the slots and the order let an entry start, given the entries before it (R193). -/
def ready (before : List WEntry) (e : WEntry) : Bool :=
  before.all fun b =>
    b.team != e.team ||
      ((b.writes.all fun k => !(e.reads.contains k || e.writes.contains k)) &&
        (b.reads.all fun k => !e.writes.contains k) && !b.isJoin &&
        (match e.job, b.job with
          | .ld _, .st _ => false
          | _, _ => true))
/-- Whether an entry is waiting to start and could. An entry that stalls on a translation fault leaves its resource to
others until it goes on, a stalled to.ld its load/store port too: R27 and R193 do not say, so this is the model's choice
(log 81). -/
def eligible (before : List WEntry) (e : WEntry) : Bool :=
  !e.started && !e.isJoin && e.stalled.isNone && ready before e

/-- The entries of a window each with those before it. -/
def withBefore : List WEntry → List WEntry → List (List WEntry × WEntry)
  | _, [] => []
  | before, e :: t => (before, e) :: withBefore (before ++ [e]) t

/-- Whether an entry has a resource: a to.ld while it waits for a peer's bytes; other execution is whole within its step.
-/
def WEntry.running (e : WEntry) : Bool := !e.started && e.stalled.isNone && (allCome e.asked).isNone
/-- An entry may start, or a to.ld go on: it is ready, no older entry is eligible for a resource it needs, and no other
entry has that resource. -/
def Pair.mayStart (p : Pair) (id : Nat) : Option WEntry :=
  match (withBefore [] p.window).find? fun q => q.2.id == id with
  | some (before, e) =>
    let older := (withBefore [] before).filter fun q => eligible q.1 q.2
    let apart (x : WEntry) : Bool := (p.resources x).all fun r => !(p.resources e).contains r
    if eligible before e && (older.all fun q => apart q.2) && p.window.all fun x => x.id == id || !x.running || apart x then
      some e
    else none
  | none => none

def State.modEntry (s : State) (pair id : Nat) (f : WEntry → WEntry) : State :=
  s.modPair pair fun p => { p with window := p.window.map fun e => if e.id = id then f e else e }

/-- Flags of a completion word (R321), from bit 32. -/
def cwFault : Nat := 2 ^ 39
def cwBadOp : Nat := 2 ^ 40
def cwPoison : Nat := 2 ^ 38
def cwAlloc : Nat := 2 ^ 37

/-- The header of a tile image: state, format and rank; none when it breaks R324. -/
def imageHeader (bs : List Byte) : Option (Nat × Nat × Nat) :=
  let w := ofLE (bs.take 8)
  let st := w % 4
  let fm := w / 2 ^ 5 % 8
  let rk := w / 2 ^ 10 % 64
  if (bs.drop 8).any (· != 0) || w / 2 ^ 16 != 0 || w / 4 % 8 != 0 || w / 2 ^ 8 % 4 != 0 || decide (2 < fm) ||
      (st == 3 && fm != 1) then none
  else if st = 2 then (if 1 ≤ rk ∧ rk ≤ 47 then some (st, fm, rk) else none)
  else if rk = 0 then some (st, fm, rk) else none

/-- Elements of an image, in order. -/
def imageLen (st rank : Nat) : Nat := if st = 0 then 0 else if st = 2 then 192 * rank else 9216

/-- The tile of an image's data, a poisoned element as the default NaN (R330), and whether one was poisoned. -/
def imageTile (st fm rank : Nat) (bs : List (Byte × Bool)) : Tile × Bool :=
  let z := elemBits (tileTy fm) / 8
  let es := (chop z (imageLen st rank) bs).map fun e =>
    if e.any (·.2) then defNaN (tileTy fm) else ofLE (plain e)
  let t : Tile := { state := st, fmt := fm, rank := rank, u := es, v := [] }
  (if st = 2 then { t with u := es.take (96 * rank), v := es.drop (96 * rank) } else t, bs.any (·.2))

/-- The bytes of a tile image (R324). -/
def tileImage (t : Tile) : List Byte :=
  let z := elemBits (tileTy t.fmt) / 8
  leBytes 8 (t.state + t.fmt * 2 ^ 5 + t.rank * 2 ^ 10) ++ List.replicate 56 0 ++ (t.u ++ t.v).flatMap (leBytes z)

/-- What a to.ld has read of its image so far comes to: more bytes to read, or a tile or nothing with its flags (R330). -/
def imageRead (bs : List (Byte × Bool)) : Nat ⊕ (Option Tile × Nat) :=
  if (bs.take 64).any (·.2) then .inr (none, cwBadOp + cwPoison)
  else if bs.length < 64 then .inl 64
  else
    match imageHeader (plain (bs.take 64)) with
    | none => .inr (none, cwBadOp)
    | some (st, fm, rk) =>
      let n := imageLen st rk * (elemBits (tileTy fm) / 8)
      if bs.length < 64 + n then .inl n
      else
        let (t, bad) := imageTile st fm rk (bs.drop 64)
        .inr (some t, if bad then cwPoison else 0)

/-- A translation fault stalls an entry and posts a record (R27). -/
def State.tileStall (s : State) (pair : Nat) (e : WEntry) (va kind : Nat) : State :=
  let (i, s) := s.engineFault e.ctx va kind e.team (s.group e.group).home
  s.modEntry pair e.id fun e => { e with stalled := some i }

/-- A to.ld reads on: its header, then its data, each once what was asked of a peer has come; at the end it has started.
A translation fault stalls it; any other failed check ends it with FAULT (R330). -/
def State.imageStep (s : State) (pair : Nat) (e : WEntry) (a : Nat) (dr : DramRead) : State :=
  match allCome e.asked with
  | none => s
  | some bs =>
    match imageRead bs with
    | .inr r => s.modEntry pair e.id fun e => { e with started := true, loaded := some r, asked := [] }
    | .inl n =>
      match s.engineGather (clusterOf (2 * pair)) e.ctx (a + bs.length) engineClass dr bs.length n (.tile pair e.id) with
      | (s, .ok more) => s.modEntry pair e.id fun e => { e with asked := e.asked ++ more }
      | (s, .error (va, c)) =>
        if c = 4 then s.tileStall pair e va 0
        else s.modEntry pair e.id fun e => { e with started := true, loaded := some (none, cwFault), asked := [] }

/-- TILE_ENTRY_START (R193, R330): an entry begins to execute; a to.ld reads its image as far as it can. -/
def execTileEntryStart (pair entry : Nat) (s : State) : Out :=
  match (s.pair pair).mayStart entry with
  | none => .next s
  | some e =>
    match e.job with
    | .ld a =>
      .next ((List.range 3).foldl (fun (s : State) _ =>
        match (s.pair pair).window.find? fun e => e.id == entry with
        | some e => if e.started || e.stalled.isSome then s else s.imageStep pair e a .free
        | none => s) s)
    | _ => .next (s.modEntry pair entry fun e => { e with started := true })

/-! ### Committing (R55 to R58, R321, R342) -/

/-- The tile that an entry's operation gives, with its completion flags; none leaves the destination unchanged. -/
def Pair.result (p : Pair) (e : WEntry) : Option Tile × Nat :=
  let t (k : Nat) : Tile := (p.entry k).tile
  let ctl : RankCtl := { ceil := e.ceil, mode := e.mode % 4, fixr := e.mode / 2 ^ 8 % 64, tol := e.tol.toNat }
  let res (r : TileRes) : Option Tile × Nat := match r with
    | some (t, f) => (some t, f * 2 ^ 32)
    | none => (none, cwBadOp)
  match e.job with
  | .ld _ => e.loaded.getD (none, cwFault)
  | .st _ => (none, 0)
  | .join _ => (none, 0)
  | .zero true => (some (.ofAcc (List.replicate 96 (List.replicate 96 0))), 0)
  | .zero false => (some (.ofZero e.ty), 0)
  | .free => (some { fmt := (t e.td).fmt }, 0)
  | .dense => res (tileConvert e.ty ctl .dense (t e.ta))
  | .cmpr => res (tileConvert e.ty ctl .cmpr (t e.ta))
  | .round => if (t e.ta).accepts e.ty then res (tileConvert e.ty ctl .round (t e.ta)) else (none, cwBadOp)
  | .add => res (tileAdd e.ty ctl e.sel (t e.ta) (t e.tb))
  | .mul => res (tileMul e.ty e.sel (t e.ta) (t e.tb))
  | .gemm => res (tileGemm e.ty ctl e.sel (t e.ta) (t e.tb) (t e.tc))
  | .lu => res (tileLu e.ty (t e.ta))
  | .trsm => res (tileTrsm e.ty e.sel (t e.ta) (t e.tb))
  | .tr => (some (tileTr (t e.ta)), 0)
  | .scal a => res (tileScal e.ty a (t e.ta))
  | .badMma => (none, cwBadOp)
  | .mma clr a b k m wa wb idx la lb sa sb =>
    if !clr && (t e.tc).state != 3 then (none, cwBadOp)
    else res (done (fragMul clr (rowsOf 96 (t e.tc).u) a b k m wa wb idx la lb sa sb))

/-- The entry leaves the window: its completion word gains one and its flags (R321), and PEND falls when no other entry
has its destination. -/
def State.tileDone (s : State) (pair : Nat) (e : WEntry) (flags : Nat) : State :=
  let s := s.modScratch64 e.team e.cw fun w =>
    BitVec.ofNat 64 (w.toNat / 2 ^ 32 * 2 ^ 32 + (w.toNat % 2 ^ 32 + 1) % 2 ^ 32) ||| BitVec.ofNat 64 flags
  s.modPair pair fun p =>
    let w := p.window.filter fun x => x.id != e.id
    { p with window := w,
             dir := p.dir.map fun d => if d.1 = e.td then
                 (d.1, { d.2 with pend := w.any fun x => x.writes.contains e.td }) else d }

/-- R57: a result into its destination; false when it cannot get its granules. -/
def State.tilePut (s : State) (pair : Nat) (e : WEntry) (t : Tile) : Option State :=
  let p := s.pair pair
  let d := p.entry e.td
  let new := t.granules
  let quota := (s.ctx e.ctx).tileQuota.toNat
  if d.ngran < new ∧ (quota < p.heldBy e.ctx + (new - d.ngran) ∨ p.freeGranules < new - d.ngran) then none
  else
    let p := p.resize e.td new
    some (s.setPair pair { p with dir := SMap.ins p.dir e.td { p.entry e.td with tile := t } })

/-- R342: the commit is held, and the issuing home group is to trap. -/
def State.tileHold (s : State) (pair : Nat) (e : WEntry) : State :=
  (s.modEntry pair e.id fun e => { e with held := true }).modGroup e.group fun x => { x with ttrap := some e.pc }

/-- The chunks of a to.st from chunk `n` on, written in order at home or sent to a peer; a failed check stalls the entry
or leaves it to end with FAULT (R330). -/
def State.storeImage (s : State) (pair : Nat) (e : WEntry) (a : Nat) : List (List Byte) → Nat → State
  | [], n => s.modEntry pair e.id fun e => { e with chunk := n }
  | c :: t, n =>
    match s.engineSend e.ctx (a + 512 * n) engineClass (clean c) (.tile pair e.id) with
    | .ok (s, _) => State.storeImage s pair e a t (n + 1)
    | .error (va, cause) =>
      let s := s.modEntry pair e.id fun e => { e with chunk := n, failed := cause != 4 }
      if cause = 4 then s.tileStall pair e va 1 else s
/-- A to.st leaves once its whole image is written, or a chunk has failed, and a peer has acknowledged what it was sent.
-/
def State.storeDone (s : State) (pair entry chunks : Nat) : State :=
  match (s.pair pair).window.find? fun e => e.id == entry with
  | some e =>
    if (s.requests.any fun w => w.dest == .tile pair entry) || !(e.failed || decide (chunks ≤ e.chunk)) then s
    else s.tileDone pair e (if e.failed then cwFault else 0)
  | none => s

/-- Whether a tq.info that issued before an entry is still to read the slot that the entry's commit would write (R343). -/
def State.queryBefore (s : State) (pair : Nat) (e : WEntry) : Bool :=
  (s.teamGroups e.team).any fun g => (s.group g).ops.any fun o =>
    o.kind == .query && o.sel == 4 && !o.ready && decide (o.id < e.id) &&
      e.writes.contains (((s.pair pair).slot e.team o.bank).getD 0)

/-- One attempt at the commit of an entry that can make it: R57, or the trap of R342. -/
def State.tileCommit (s : State) (pair : Nat) (e : WEntry) : State :=
  let p := s.pair pair
  match e.job with
  | .st a =>
    let img := tileImage (p.entry e.ta).tile
    let n := (img.length + 511) / 512
    if e.failed then s.storeDone pair e.id n
    else (s.storeImage pair e a ((chop 512 n img).drop e.chunk) e.chunk).storeDone pair e.id n
  | _ =>
    match p.result e with
    | (none, flags) => s.tileDone pair e flags
    | (some t, flags) =>
      if e.held then s.tileDone pair e (flags ||| cwAlloc)
      else
        match s.tilePut pair e t with
        | some s => s.tileDone pair e flags
        | none =>
          if (s.ctx e.ctx).tileTrap.getLsbD 0 && !(s.group e.group).exited then s.tileHold pair e
          else s.tileDone pair e (flags ||| cwAlloc)

/-- TILE_COMMIT (R55, R57, R321, R342, R343): the oldest entry of its team, once it has started. A held entry waits for
sy.tret, or reports ALLOC once its home group has exited. -/
def execTileCommit (pair entry : Nat) (_dr : DramRead) (s : State) : Out :=
  let p := s.pair pair
  match p.window.find? fun e => e.id == entry with
  | none => .next s
  | some e =>
    let first := (p.window.find? fun x => x.team == e.team).any fun x => x.id == entry
    let stays := e.held && !(s.group e.group).exited
    if !first || !e.started || e.stalled.isSome || stays || s.queryBefore pair e then .next s
    else .next (s.tileCommit pair e)

/-- On sy.tret the held entries of the returning home groups try their commit again (R342). -/
def State.retryTiles (s : State) (gs : List Nat) : State :=
  s.pairs.foldl (fun s p => (p.2.window.filter fun e => e.held && gs.contains e.group).foldl (fun (s : State) e =>
    (s.modEntry p.1 e.id fun e => { e with held := false }).tileCommit p.1 { e with held := false }) s) s

/-! ### Control registers (R56, R322) -/

/-- A write of RANKCEIL: reserved bits leave it as it was; 48 to 63 store 47. -/
def Ctx.setRankCeil (c : Ctx) (v : Word) : Ctx :=
  if 64 ≤ v.toNat then c else { c with rankCeil := if 48 ≤ v.toNat then 47 else v }
/-- A write of RANKMODE. -/
def Ctx.setRankMode (c : Ctx) (v : Word) : Ctx :=
  let n := v.toNat
  if n / 2 ^ 14 ≠ 0 ∨ n / 4 % 64 ≠ 0 ∨ n % 4 = 3 ∨ n / 2 ^ 8 % 64 = 0 ∨ 47 < n / 2 ^ 8 % 64 then c
  else { c with rankMode := v }
/-- A write of TILEQUOTA (R56). -/
def Ctx.setTileQuota (c : Ctx) (v : Word) : Ctx := { c with tileQuota := if 1536 < v.toNat then 1536 else v }
/-- A write of TILETRAP. -/
def Ctx.setTileTrap (c : Ctx) (v : Word) : Ctx := if 2 ≤ v.toNat then c else { c with tileTrap := v }

/-- RANKCEIL_WRITE (R322). -/
def execRankceilWrite (ctx : Nat) (value : Word) (s : State) : Out := .next (s.modCtx ctx fun c => c.setRankCeil value)
/-- RANKMODE_WRITE (R322). -/
def execRankmodeWrite (ctx : Nat) (value : Word) (s : State) : Out := .next (s.modCtx ctx fun c => c.setRankMode value)
/-- TILEQUOTA_WRITE (R56). -/
def execTilequotaWrite (ctx : Nat) (value : Word) (s : State) : Out := .next (s.modCtx ctx fun c => c.setTileQuota value)

/-! ### tq (R343) -/

/-- A tq form that reads is an operation of the lowest supplying home group, on no counter, whose result goes to a scalar
register (R227, R343). -/
def State.tqRead (s : State) (x : TqArgs) (sel slot : Nat) : Res :=
  if !s.room none x.cf then .wait s
  else
    let o : Op := { id := s.nextUid, kind := .query, ig := s.cur.ig, counted := false, cf := s.flagOf x.cf,
                    outside := (s.ig s.cur).clause.isNone, accepted := true, sel := sel, bank := slot, d := 384 + x.sd,
                    ty := .b32, writes := [384 + x.sd], lanes := [{ lane := 0, addr := 0, size := 4 }] }
    .done { s.modGroup s.lowest fun y => y.addOp o with nextUid := s.nextUid + 1 }

/-- TQ_INFO (R343). -/
def execTqInfo (x : TqArgs) (s : State) : Out :=
  s.finish 12 (
    if (s.lanes s.cur).isEmpty then .done s
    else match s.badSlot [x.ta] with
      | some n => .trap s 5 (BitVec.ofNat 64 n)
      | none => s.tqRead x 4 x.ta)
/-- TQ_GET (R343). -/
def execTqGet (x : TqArgs) (s : State) : Out :=
  s.finish 12 (if (s.lanes s.cur).isEmpty then .done s else s.tqRead x x.sel 0)
/-- TQ_SET (R343, R56, R322). -/
def execTqSet (x : TqArgs) (s : State) : Out :=
  let v : Word := BitVec.ofNat 32 x.imm
  s.finish 12 (
    if (s.lanes s.cur).isEmpty then .done s
    else .done (s.modCtx s.curCtx fun c => match x.sel with
      | 0 => c.setRankCeil v
      | 1 => c.setRankMode v
      | 2 => { c with rankTol := BitVec.ofNat 64 (cvtExact .f64 .f32 x.imm) }
      | 3 => c.setTileTrap v
      | _ => c.setTileQuota v))

end Sys2Proof.Machine
end

