-- ==== Sys2Proof/Machine/Xform.lean ====
section
/-! DEFINITION. The transform forms xf and the transform queue (spec/11_instr_scalar_vector.md R287 to R290). -/

namespace Sys2Proof.Machine

/-- Codebook entry `k` of home group `g`: the f16 bits (R288). -/
def State.book (s : State) (g b k : Nat) : Nat :=
  (s.readS g (b - 384 + k / 2)).toNat / 2 ^ (16 * (k % 2)) % 2 ^ 16

/-- The exact distance of two values as a fraction; none when one is infinite. -/
def distQ (a b : FV) : Option (Nat × Nat) :=
  match a, b with
  | .inf _, _ => none
  | _, .inf _ => none
  | x, y =>
    let (p, d) := x.q
    let (q, e) := y.q
    some ((p * e - q * d).natAbs, d * e)
def distLt : Option (Nat × Nat) → Option (Nat × Nat) → Bool
  | some (a, b), some (c, d) => decide (a * d < c * b)
  | some _, none => true
  | none, _ => false

/-- The nearest entry of a codebook to `y`, an f32: the lower one on a tie, never a NaN, 0 when all are (R288). -/
def nearest (y : Nat) (book : List Nat) : Nat :=
  ((book.zipIdx).foldl (fun (acc : Option (Nat × Option (Nat × Nat))) p =>
    if isNaN .f16 p.1 then acc
    else
      let d := distQ (decodeF .f32 y) (decodeF .f16 p.1)
      match acc with
      | none => some (p.2, d)
      | some (_, e) => if distLt d e then some (p.2, d) else acc) none).elim 0 (·.1)

/-- amax of R288 over the active lanes of a block. -/
def State.blockMax (s : State) (g a imm : Nat) (m : LaneMask) (b : Nat) : Nat :=
  (List.range 32).foldl (fun acc i =>
    let l := 32 * b + i
    let v := (s.src g l a).toNat
    if m.getLsbD l && isFiniteF .f32 v then minmaxF true .f32 acc (absF .f32 v) else acc) imm

/-- The index that xf.quant gives `v` (R288). -/
def State.quantIdx (s : State) (g b amax v : Nat) : Nat :=
  let y := if isNaN .f32 v then 0
    else if !isFiniteF .f32 v then (if sgn .f32 v then 0xBF800000 else 0x3F800000)
    else if isZeroF .f32 amax then 0
    else (divF .f32 v amax .rne false).1
  nearest y ((List.range 16).map (s.book g b))

/-- An xf form places one entry with the values it will write (R287). -/
def State.xf (s : State) (x : XfArgs) (f : State → Nat → LaneMask → Nat → List (Nat × Word)) : Out :=
  let ls := s.lanes s.cur
  s.finish 12 (
    if ls.isEmpty then .done s
    else if !s.room none x.cf then .wait s
    else
      let hs := homesOf ls
      let ws := ls.flatMap fun p => (f s (s.gid p.2) (maskOf ls p.2) p.1).map fun w => (s.gid p.2, w.1, p.1, w.2)
      let flags := match s.flagOf x.cf with
        | some c => hs.map fun h => (s.gid h, c)
        | none => []
      let s' := flags.foldl (fun s p => s.modGroup p.1 fun y =>
        { y with cf := SMap.put 0 y.cf p.2 (SMap.look 0 y.cf p.2 + 1) }) s
      .done (s'.modCore (s.group s.lowest).core fun c => { c with xform := c.xform ++
        [.entry { writes := ws, flags := flags, outside := (s.ig s.cur).clause.isNone }] }))

/-- XF_QUANT (R288). -/
def execXfQuant (x : XfArgs) (s : State) : Out :=
  s.xf x fun s g m l =>
    let amax := s.blockMax g x.a x.imm m (l / 32)
    [(x.d, BitVec.ofNat 32 (s.quantIdx g x.b amax (s.src g l x.a).toNat)), (x.d + 1, BitVec.ofNat 32 amax)]
/-- XF_DQ (R289). -/
def execXfDq (x : XfArgs) (s : State) : Out :=
  s.xf x fun s g _ l =>
    let e := cvtExact .f32 .f16 (s.book g x.b ((s.src g l x.a).toNat % 16))
    [(x.d, BitVec.ofNat 32 (mulF .f32 e (s.src g l (x.a + 1)).toNat .rne false).1)]
/-- XF_SIGN (R290). -/
def execXfSign (x : XfArgs) (s : State) : Out :=
  s.xf x fun s g m l =>
    let bit := if x.ty = .f32 ∨ x.ty = .i32 then 31 else 15 + 16 * x.sel
    [(x.d, (List.range 32).foldl (fun w i =>
      let p := l / 32 * 32 + i
      if m.getLsbD p && (s.src g p x.a).getLsbD bit then w ||| BitVec.twoPow 32 i else w) 0)]
/-- XF_PACK (R290). -/
def execXfPack (x : XfArgs) (s : State) : Out :=
  s.xf x fun s g m l =>
    let w := elemBits x.ty
    let n := 32 / w
    [(x.d, BitVec.ofNat 32 ((List.range n).foldl (fun acc i =>
      let p := l / n * n + i
      if m.getLsbD p then acc + (s.src g p x.a).toNat % 2 ^ w * 2 ^ (w * i) else acc) 0))]

/-- A transform entry's result goes to its register. -/
def State.xformLand (s : State) (w : Nat × Nat × Nat × Word) : State := s.landWord w.1 w.2.1 w.2.2.1 w.2.2.2.toNat
/-- Home groups release a flag that a transform entry holds (R229). -/
def State.xformRelease (s : State) (fs : List (Nat × Nat)) : State :=
  fs.foldl (fun s p => s.modGroup p.1 fun y => { y with cf := SMap.put 0 y.cf p.2 (SMap.look 0 y.cf p.2 - 1) }) s
/-- A transform entry's results go to their registers and its flags are released. -/
def State.xformEnd (s : State) (e : XformEntry) : State := (e.writes.foldl State.xformLand s).xformRelease e.flags
/-- A transform entry without its result `i`: it holds the flags of the home groups that have results left. -/
def XformEntry.less (e : XformEntry) (i : Nat) : XformEntry :=
  let ws := e.writes.eraseIdx i
  { e with writes := ws, flags := e.flags.filter fun f => ws.any fun w => w.1 == f.1 }
/-- The flags it no longer holds then: those of the home groups whose own results are all written (R229). -/
def XformEntry.freed (e : XformEntry) (i : Nat) : List (Nat × Nat) :=
  e.flags.filter fun f => !(e.less i).flags.contains f

/-- TRANSFORM_ENTRY_COMPLETE (R231, R287): the oldest entry of a core's queue writes one of its results before the others,
or all that are left; each home group's flag is released with the last result of its own lanes. -/
def execTransformEntryComplete (move : XformMove) (s : State) : Out :=
  let core := move.core
  match (s.core core).xform with
  | .entry e :: rest =>
    (match move.write.bind fun i => e.writes[i]?.map fun w => (i, w) with
    | some (i, w) =>
      let q := if (e.less i).writes.isEmpty then rest else .entry (e.less i) :: rest
      .next (((s.modCore core fun c => { c with xform := q }).xformLand w).xformRelease (e.freed i))
    | none =>
      if move.write.isSome then .next s else .next ((s.modCore core fun c => { c with xform := rest }).xformEnd e))
  | _ => .next s

end Sys2Proof.Machine
end

