-- ==== Sys2Proof/Machine/Gossip.lean ====
section
/-! DEFINITION. Gossip regions (spec/05_memory_beyond_the_core.md R146 to R156, spec/14_instr_gossip_tape_system.md R344
to R348): elements, the gx forms, departures, arrivals, bounces, modes and links. -/

namespace Sys2Proof.Machine

/-! ### Registers (R146 to R149) -/

/-- The base that GXADDRk names: of the next initialisation (R147), and of the range that R345 checks (log 72). -/
def Region.nextBase (r : Region) : Nat := r.addr.toNat * 2 ^ 16
def cfgMode (w : Word) : Nat := w.toNat % 4
def cfgE (w : Word) : Nat := w.toNat / 2 ^ 8 % 64
def cfgLeft (w : Word) : Nat := w.toNat / 2 ^ 16 % 16
def cfgRight (w : Word) : Nat := w.toNat / 2 ^ 20 % 16
def cfgPeriod (w : Word) : Nat := w.toNat / 2 ^ 24
/-- Sticky bits of GXSTAT (R148). -/
def stSat : Nat := 16
def stInv : Nat := 17
def stBnc : Nat := 18
def stDoubt : Nat := 19
def stPsn : Nat := 20
def Region.stick (r : Region) (b : Nat) (on : Bool) : Region :=
  if on then { r with stat := r.stat ||| BitVec.twoPow 32 b } else r
def Region.round (r : Region) : Nat := r.stat.toNat % 2 ^ 16
/-- Steps accepted and not complete (R347). -/
def Region.steps (r : Region) : Nat := r.accepted - r.completed
/-- The link of a departure to the right or to the left. -/
def Region.linkOf (r : Region) (right : Bool) : Nat := if right then cfgRight r.cfg else cfgLeft r.cfg

/-- Whether every page of a span is mapped and of class 3 (R149). -/
def State.allClass3 (s : State) (ctx va n : Nat) : Bool :=
  (List.range ((va + n + 65535) / 65536 - va / 65536)).all fun i =>
    match walk s.ptab (65536 * (va / 65536 + i)) 3 (s.ctx ctx).root false with
    | .inl (e, _) => pte e 6 3 == 3
    | .inr _ => false

/-- A write of GXADDRk (R147). -/
def State.setGxAddr (s : State) (c k : Nat) (v : Word) : State :=
  s.modRegion c k fun r => if r.mode = 0 then { r with addr := v } else r
/-- A write of GXLENk (R147, R149). -/
def State.setGxLen (s : State) (c k : Nat) (v : Word) : State :=
  let r := (s.ctx c).region k
  if r.mode ≠ 0 then s
  else if v = 0 then s.modRegion c k fun r => { r with len := 0, initing := false }
  else if 0x08000000 < v.toNat ∨ !s.allClass3 c r.nextBase (32 * v.toNat) then s
  else s.modRegion c k fun r => { r with len := v, base := r.nextBase, initing := true }
/-- The effective MODE becomes the register's. One that changes begins at the first element, with no arrival held (log
73). -/
def Region.takeMode (r : Region) : Region :=
  if r.mode = cfgMode r.cfg then r
  else { r with mode := cfgMode r.cfg, next := 0, sweeping := false, arrived := [], early := [] }
/-- A write of GXCFGk (R147); a change of MODE takes effect at once when nothing is in flight. -/
def Region.setCfg (r : Region) (v : Word) : Region :=
  let n := v.toNat
  let bad := decide (48 < cfgE v) || cfgMode v == 3 || n / 2 ^ 14 % 4 != 0 || n / 4 % 64 != 0
  let moves := cfgE v != cfgE r.cfg || cfgLeft v != cfgLeft r.cfg || cfgRight v != cfgRight r.cfg
  if bad || (moves && r.mode != 0) then r
  else if r.flight.isEmpty then ({ r with cfg := v } : Region).takeMode else { r with cfg := v }
/-- A write of GXSTATk: bits 20 to 16 are cleared by writing 1 (R148). -/
def Region.setStat (r : Region) (v : Word) : Region := { r with stat := r.stat &&& ~~~(v &&& 0x001F0000#32) }

/-- GXCFG_WRITE (R147). -/
def execGxcfgWrite (ctx rgn : Nat) (value : Word) (s : State) : Out :=
  .next (s.modRegion ctx rgn fun r => r.setCfg value)
/-- GXLEN_WRITE (R147, R149). -/
def execGxlenWrite (ctx rgn : Nat) (value : Word) (s : State) : Out := .next (s.setGxLen ctx rgn value)
/-- GXSTAT_WRITE (R148). -/
def execGxstatWrite (ctx rgn : Nat) (value : Word) (s : State) : Out :=
  .next (s.modRegion ctx rgn fun r => r.setStat value)

/-- GOSSIP_MODE_EFFECT (R147). -/
def execGossipModeEffect (ctx rgn : Nat) (s : State) : Out :=
  let r := (s.ctx ctx).region rgn
  if r.flight.isEmpty && r.mode != cfgMode r.cfg then .next (s.modRegion ctx rgn Region.takeMode)
  else .next s

/-! ### Elements (R150) -/

structure GElem where
  s : DWord
  w : DWord
  lastL : Word
  lastR : Word
  haveL : Bool
  haveR : Bool
  psn : Bool
  /-- Its bytes were read poisoned while PSN was 0: it becomes poisoned now (R133). -/
  bad : Bool := false
  deriving DecidableEq, Repr

/-- Whether an element read as `e` becomes poisoned by the action that leaves it as `e'` (R148's sticky PSN). -/
def GElem.becomes (e e' : GElem) : Bool := e'.psn && (e.bad || !e.psn)

def GElem.ofNat (n : Nat) : GElem :=
  { s := BitVec.ofNat 64 n, w := BitVec.ofNat 64 (n / 2 ^ 64), lastL := BitVec.ofNat 32 (n / 2 ^ 128),
    lastR := BitVec.ofNat 32 (n / 2 ^ 160), haveL := n / 2 ^ 192 % 2 == 1, haveR := n / 2 ^ 193 % 2 == 1,
    psn := n / 2 ^ 194 % 2 == 1 }
def GElem.toNat (e : GElem) : Nat :=
  e.s.toNat + e.w.toNat * 2 ^ 64 + e.lastL.toNat * 2 ^ 128 + e.lastR.toNat * 2 ^ 160 +
    (if e.haveL then 2 ^ 192 else 0) + (if e.haveR then 2 ^ 193 else 0) + (if e.psn then 2 ^ 194 else 0)

/-- The element at a place of class 3, as its port reads it: poisoned bytes set PSN (R133). -/
def State.readElem (s : State) (ctx key : Nat) : State × GElem :=
  let (s, bs, bad) := (List.range 32).foldl (fun (acc : State × List Byte × Bool) i =>
    let (s, b, p) := acc.1.readHome ctx (key + i) .free
    (s, acc.2.1 ++ [b], acc.2.2 || p)) (s, [], false)
  let e := GElem.ofNat (ofLE bs)
  (s, { e with psn := e.psn || bad, bad := bad && !e.psn })
def State.writeElem (s : State) (ctx key : Nat) (e : GElem) : State :=
  s.homeWrite ctx none (((leBytes 32 e.toNat).zipIdx).map fun b => (key + b.2, b.1))
/-- Where an element of a region lies, or the cause of the failed check. -/
def State.elemAt (s : State) (ctx k i : Nat) : Chk :=
  s.check ctx .both (onlyClass 3) false (((s.ctx ctx).region k).base + 32 * i)

/-- GOSSIP_INIT_COMPLETE (R149): s = 0, w = 1.0, every other field zero, ROUND = 0. An element whose page no longer passes
its check is left as it was, with no record of it, and the initialisation ends all the same: the model's choice (log 85).
-/
def execGossipInitComplete (ctx rgn : Nat) (s : State) : Out :=
  let r := (s.ctx ctx).region rgn
  if r.initing then
    let e : GElem := { s := 0, w := 0x1000000000000, lastL := 0, lastR := 0, haveL := false, haveR := false, psn := false }
    let s := (List.range r.len.toNat).foldl (fun s i => match s.elemAt ctx rgn i with
      | .ok t => s.writeElem ctx t.loc.key e
      | .bad _ => s) s
    .next (s.modRegion ctx rgn fun r => { r with initing := false, stat := r.stat &&& 0xFFFF0000#32, next := 0 })
  else .next s

/-! ### Halving, arrival, bounce and injection (R151) -/

/-- arrive: the received half from the left or the right; with whether it saturated. -/
def GElem.arrive (e : GElem) (scale : Nat) (hs hw : DWord) (psn fromLeft : Bool) : GElem × Bool :=
  let (v, sat) := satI64 (e.s.toInt + hs.toInt)
  let e := { e with s := v, w := e.w + hw, psn := e.psn || psn }
  let x : Word := BitVec.ofNat 32 (est scale hs hw)
  (if hw = 0 then e else if fromLeft then { e with lastL := x, haveL := true } else { e with lastR := x, haveR := true },
    sat)
/-- bounce: a sum that saturates marks nothing. -/
def GElem.bounce (e : GElem) (hs hw : DWord) (psn : Bool) : GElem :=
  { e with s := (satI64 (e.s.toInt + hs.toInt)).1, w := e.w + hw, psn := e.psn || psn }
/-- depart: what stays, and the half that leaves. -/
def GElem.depart (e : GElem) : GElem × DWord × DWord :=
  let hs := e.s.sshiftRight 1
  let hw := e.w >>> 1
  ({ e with s := e.s - hs, w := e.w - hw }, hs, hw)
/-- inject: the element, SAT and INV. -/
def GElem.inject (e : GElem) (scale : Nat) (x : Nat) : GElem × Bool × Bool :=
  let add (q : Int) : GElem × Bool × Bool :=
    let (q, c) := satI64 q
    let (v, d) := satI64 (e.s.toInt + q.toInt)
    ({ e with s := v }, c || d, false)
  match decodeF .f32 x with
  | .nan => (e, false, true)
  | .inf n => add (if n then -(2 ^ 64) else 2 ^ 64)
  | .zero _ => add 0
  | .fin n a d => add (roundToInt n (a * 2 ^ scale) d .rne).1

/-! ### The gx forms (R345 to R348) -/

/-- The element address of an active lane. -/
def State.gxAddr (s : State) (x : GxArgs) (p : Nat × Nat) : DWord :=
  s.readS64 (s.gid p.2) x.bp + sext24 x.off + BitVec.ofNat 64 (32 * p.1)
def State.gxRegion (s : State) (x : GxArgs) : Region := (s.ctx s.curCtx).region x.rgn

/-- The checks of R345; an instruction that finds an initialisation in progress waits. -/
def State.gxFail (s : State) (x : GxArgs) (need : Need) (kind : Nat) : Option Res :=
  let r := s.gxRegion x
  let bad : Option Res := (s.lanes s.cur).findSome? fun p =>
    let a := s.gxAddr x p
    if a.toNat % 32 ≠ 0 then some (.trap s 3 a)
    else match s.check s.curCtx need (onlyClass 3) false a.toNat with
      | .bad 4 => some (.fault a.toNat kind)
      | .bad c => some (.trap s c a)
      | .ok _ => none
  match bad with
  | some e => some e
  | none =>
    if (s.lanes s.cur).isEmpty then none
    else if r.len = 0 then some (.trap s 5 (BitVec.ofNat 64 x.rgn))
    else
      match (s.lanes s.cur).find? fun p =>
        let a := (s.gxAddr x p).toNat
        decide (a < r.nextBase ∨ r.nextBase + 32 * r.len.toNat ≤ a) with
      | some p => some (.trap s 5 (s.gxAddr x p))
      | none => if r.initing then some (.wait s) else none

/-- The lanes of a gx form in the order of R346: ascending home group, then ascending lane. -/
def State.gxLanes (s : State) : List (Nat × Nat) :=
  let ls := s.lanes s.cur
  (homesOf ls).flatMap fun h => ls.filter fun p => p.2 == h

/-- The element that a lane names; its checks have passed. -/
def State.gxElem (s : State) (x : GxArgs) (p : Nat × Nat) : State × Nat × GElem :=
  match s.check s.curCtx .rd (fun _ => true) false (s.gxAddr x p).toNat with
  | .ok t =>
    let (s, e) := s.readElem s.curCtx t.loc.key
    (s, t.loc.key, e)
  | .bad _ => (s, 0, GElem.ofNat 0)

/-- Where the element of a lane of gx.add lies: WR is enough. -/
def State.gxPlace (s : State) (x : GxArgs) (p : Nat × Nat) : Nat :=
  match s.check s.curCtx .wr (fun _ => true) false (s.gxAddr x p).toNat with
  | .ok t => t.loc.key
  | .bad _ => 0

/-- GX_ADD (R346, R151). -/
def execGxAdd (x : GxArgs) (s : State) : Out :=
  s.finish 12 (
    if !s.room (some x.ac) 0 then .wait s
    else match s.gxFail x .wr 1 with
      | some r => r
      | none => .done (s.gxLanes.foldl (fun s p =>
          let key := s.gxPlace x p
          let (s, e) := s.readElem s.curCtx key
          let (e', sat, inv) := e.inject (cfgE (s.gxRegion x).cfg) (s.src (s.gid p.2) p.1 x.a).toNat
          (s.writeElem s.curCtx key e').modRegion s.curCtx x.rgn fun r => ((r.stick stSat sat).stick stInv inv).stick stPsn e.bad) s))

/-- The element of each lane as its port reads it; one whose bytes are poisoned becomes poisoned (R133, R150). -/
def State.gxSee (s : State) (x : GxArgs) : State × List ((Nat × Nat) × GElem) :=
  s.gxLanes.foldl (fun (acc : State × List ((Nat × Nat) × GElem)) p =>
    let (s, key, e) := acc.1.gxElem x p
    let s := if e.bad then (s.writeElem s.curCtx key e).modRegion s.curCtx x.rgn fun r => r.stick stPsn true else s
    (s, acc.2 ++ [(p, e)])) (s, [])

/-- A gx form that reads: a poisoned element is a precise trap at the lowest of their addresses; else each lane's value
goes to register D (R346, R376). -/
def State.gxReads (s : State) (x : GxArgs) (f : State → Nat × Nat → GElem → Nat) : Out :=
  s.finish 12 (
    if !s.room (some x.ac) x.cf then .wait s
    else match s.gxFail x .rd 0 with
      | some r => r
      | none =>
        let (u, es) := s.gxSee x
        match (es.filter fun q => q.2.psn).map fun q => (s.gxAddr x q.1).toNat with
        | a :: t => .trap u 7 (BitVec.ofNat 64 (t.foldl min a))
        | [] =>
          let t := es.foldl (fun t q => t.writeLane (s.gid q.1.2) x.d q.1.1 (BitVec.ofNat 32 (f s q.1 q.2))) u
          .done (u.lateAll t (some x.ac) x.cf x.d))

/-- GX_READ (R346). -/
def execGxRead (x : GxArgs) (s : State) : Out :=
  let sc := cfgE (s.gxRegion x).cfg
  s.gxReads x fun _ _ e => est sc e.s e.w

/-- Whether two finite f32 values differ by at most `tol` (R346). -/
def within (a b tol : Nat) : Bool :=
  match decodeF .f32 tol with
  | .nan => false
  | .inf n => !n
  | .zero _ => distQ (decodeF .f32 a) (decodeF .f32 b) |>.any fun d => d.1 == 0
  | .fin n p q => !n && (distQ (decodeF .f32 a) (decodeF .f32 b) |>.any fun d => decide (d.1 * q ≤ p * d.2))
/-- GX_SPREAD (R346). -/
def execGxSpread (x : GxArgs) (s : State) : Out :=
  let sc := cfgE (s.gxRegion x).cfg
  s.gxReads x fun s p e =>
    let v := est sc e.s e.w
    let tol := (s.src (s.gid p.2) p.1 x.a).toNat
    (if e.haveR && within v e.lastR.toNat tol then 1 else 0) + (if e.haveL && within v e.lastL.toNat tol then 2 else 0)

/-- GX_STEP (R347, R155). -/
def execGxStep (x : GxArgs) (s : State) : Out :=
  let r := s.gxRegion x
  s.finish 12 (
    if (s.lanes s.cur).isEmpty then .done s
    else if cfgMode r.cfg ≠ 2 ∨ r.len = 0 then .trap s 5 (BitVec.ofNat 64 x.rgn)
    else if r.initing then .wait s
    else
      let n := r.round + r.steps
      let s := s.modLink (r.linkOf (n % 2 == 0)) fun l =>
        { l with queue := l.queue ++ [.step s.curCtx x.rgn (n % 2 ^ 16) s.curTeam] }
      .done (s.modRegion s.curCtx x.rgn fun r => { r with accepted := r.accepted + 1 }))

/-- The gx.ctl operations of a region that are now performed leave (R348). -/
def State.settleCtl (s : State) (c k : Nat) : State :=
  let r := (s.ctx c).region k
  (s.groups.flatMap fun p => if s.groupCtx p.1 = c then
      (p.2.ops.filter fun o => o.kind == .gxctl k && o.lanes.all r.ctlDone).map fun o => (p.1, o.id)
    else []).foldl (fun s q => s.endOpAt q.1 q.2) s

/-- GX_CTL (R348). -/
def execGxCtl (x : GxArgs) (s : State) : Out :=
  s.finish 12 (
    if (s.lanes s.cur).isEmpty then .done s
    else if !s.room (some x.ac) 0 then .wait s
    else if (s.gxRegion x).initing then .wait s
    else
      let r := s.gxRegion x
      let id := s.nextUid
      let o : Op := { id := id, kind := .gxctl x.rgn, ig := s.cur.ig, ac := x.ac,
                      outside := (s.ig s.cur).clause.isNone,
                      lanes := [{ lane := 0, addr := r.accepted, loc := r.seq }] }
      let t := s.eachHome fun s g => s.modGroup g fun y => y.addOp o
      .done (({ t with nextUid := id + 1 } : State).settleCtl s.curCtx x.rgn))

/-! ### Departures (R151, R153 to R155) -/

/-- Whether an entry of a link's queue is the step of a region's round. -/
def LinkEntry.isStep (c k n : Nat) : LinkEntry → Bool
  | .step d j m _ => d == c && j == k && m == n
  | .req _ => false
/-- A round whose departures and arrivals are all over is complete (R155). -/
def State.stepDone (s : State) (c k : Nat) : State :=
  let r := (s.ctx c).region k
  let n := r.round
  let all := r.next == r.len.toNat && (List.range r.len.toNat).all r.arrived.contains
  let past := r.mode == 2 && r.steps != 0 && all && r.flight.all fun f => f.round != n
  let s := if past then
      (s.modLink (r.linkOf (n % 2 == 0)) fun l => { l with queue := l.queue.eraseP (·.isStep c k n) }).modRegion c k fun r =>
        { r with stat := (r.stat &&& 0xFFFF0000#32) ||| BitVec.ofNat 32 ((n + 1) % 2 ^ 16),
                 completed := r.completed + 1, next := 0, arrived := [] }
    else s
  s.settleCtl c k

/-- An arrival is performed at its element; false when its write fails (R151, R153). -/
def State.performArrival (s : State) (c k : Nat) (p : GxPacket) (fromLeft : Bool) : State × Bool :=
  let r := (s.ctx c).region k
  match s.elemAt c k p.elem with
  | .bad _ => ((s.postFault c (.access (r.base + 32 * p.elem) 1 0 0)).2, false)
  | .ok t =>
    let (s, e) := s.readElem c t.loc.key
    let (e', sat) := e.arrive (cfgE r.cfg) p.hs p.hw p.psn fromLeft
    ((s.writeElem c t.loc.key e').modRegion c k fun r =>
      let r := (r.stick stSat sat).stick stPsn (e.becomes e')
      { r with seenR := if p.toRight then p.seq else r.seenR, seenL := if p.toRight then r.seenL else p.seq,
               arrived := if r.mode = 2 then p.elem :: r.arrived else r.arrived }, true)

/-- Which side an arrival is from; none when its link is neither side's (R151). -/
def Region.fromLeft (r : Region) (link : Nat) (p : GxPacket) : Option Bool :=
  let l := cfgLeft r.cfg
  let t := cfgRight r.cfg
  if l = t then (if link = l then some p.toRight else none)
  else if link = l then some true else if link = t then some false else none

/-- The held arrival of the current round at an element whose departure has been made (R155). -/
def State.takeEarly (s : State) (c k elem : Nat) : State :=
  let r := (s.ctx c).region k
  match r.early.find? fun q => q.2.elem == elem && q.2.round == r.round with
  | some q =>
    let s := s.modRegion c k fun r => { r with early := r.early.erase q }
    (s.performArrival c k q.2 ((r.fromLeft q.1 q.2).getD true)).1
  | none => s

/-- One departure of element `i` to a side: its half leaves, or an empty half when its access fails; a link without a
trained partner bounces it at once (R153). -/
def State.departElem (s : State) (c k i : Nat) (right : Bool) : State :=
  let r := (s.ctx c).region k
  let trained := (s.link (r.linkOf right)).trained
  let fly (s : State) (hs hw : DWord) (psn : Bool) : State :=
    s.modRegion c k fun r =>
      if trained then { r with seq := r.seq + 1, flight := r.flight ++
          [{ seq := r.seq, elem := i, hs := hs, hw := hw, psn := psn, right := right, round := r.round }] }
      else r.stick stBnc true
  let s := match s.elemAt c k i with
    | .ok t =>
      if r.skip then fly s 0 0 false
      else
        let (s, e) := s.readElem c t.loc.key
        let (e', hs, hw) := e.depart
        let e' := if trained then e' else e'.bounce hs hw e.psn
        fly ((s.writeElem c t.loc.key e').modRegion c k fun r => r.stick stPsn e.bad) hs hw e.psn
    | .bad _ => fly s 0 0 false
  s.modRegion c k fun r => { r with next := i + 1, skip := false }

/-- Whether packets held in doubt over a link that has been trained again are still to bounce: until they have, no other
gossip packet crosses the link (R153). -/
def State.linkOwes (s : State) (link : Nat) : Bool :=
  (s.link link).trained && s.ctxs.any fun c => c.2.regions.any fun r => r.2.flight.any fun f =>
    f.doubt && r.2.linkOf f.right == link

/-- Whether a region's departures may go on: its context runs and has its key, it is there, and it is neither being
initialised nor stalled (R46, R149, R153, R156). -/
def State.regionLive (s : State) (c k : Nat) : Bool :=
  let r := (s.ctx c).region k
  (s.ctx c).run == .running && !(s.ctx c).keyless && r.len != 0 && !r.initing && r.stalled.isNone

/-- The side of the next departure of a region, if it has one to make. -/
def State.nextSide (s : State) (c k : Nat) : Option Bool :=
  let r := (s.ctx c).region k
  let side := if !s.regionLive c k || r.len.toNat ≤ r.next then none
    else if r.mode = 1 then (if r.sweeping then some (r.sweeps % 2 == 1) else none)
    else if r.mode = 2 ∧ r.steps ≠ 0 then
      let right := r.round % 2 == 0
      if (s.link (r.linkOf right)).queue.head?.any (·.isStep c k r.round) then some right
      else none
    else none
  side.filter fun right => !s.linkOwes (r.linkOf right)

/-- GOSSIP_DEPARTURE (R151, R153 to R155): the next element departs, after which its held arrival is performed; a sweep
ends with the last element. A translation fault stalls the region's departures. -/
def execGossipDeparture (ctx rgn : Nat) (s : State) : Out :=
  match s.nextSide ctx rgn with
  | none => .next s
  | some right =>
    let r := (s.ctx ctx).region rgn
    let i := r.next
    let go : State :=
      let s := s.departElem ctx rgn i right
      let s := if r.mode = 2 then s.takeEarly ctx rgn i else s
      let s := s.modRegion ctx rgn fun r =>
        if r.mode = 1 && r.next == r.len.toNat then { r with sweeping := false, next := 0 } else r
      s.stepDone ctx rgn
    match s.elemAt ctx rgn i with
    | .bad 4 =>
      if r.skip then .next go
      else
        let (f, s) := s.postFault ctx (.access (r.base + 32 * i) 0 0 0)
        .next (s.modRegion ctx rgn fun r => { r with stalled := some f })
    | _ => .next go

/-- GOSSIP_SWEEP (R154): a sweep starts no sooner than PERIOD microseconds after the last; the clock counts 1,000 of its
steps in one. The first sweep is to the right. -/
def execGossipSweep (ctx rgn : Nat) (s : State) : Out :=
  let r := (s.ctx ctx).region rgn
  let now := s.clock.toNat
  let due := match r.lastSweep with
    | none => true
    | some t => decide (t + 1000 * cfgPeriod r.cfg ≤ now)
  .next (if s.regionLive ctx rgn && r.mode == 1 && !r.sweeping && due then
      s.modRegion ctx rgn fun r => { r with sweeping := true, sweeps := r.sweeps + 1, lastSweep := some now, next := 0 }
    else s)

/-! ### Arrivals, acknowledgements and bounces (R151, R153, R155) -/

/-- GOSSIP_ARRIVAL (R151, R153, R155): a packet from a neighbour is refused, held until its round, or performed. A region
that is being initialised, or whose context is keyless, is taken to hold no region for it (log 74). -/
def execGossipArrival (ctx rgn link : Nat) (p : GxPacket) (s : State) : Out :=
  let r := (s.ctx ctx).region rgn
  match r.fromLeft link p with
  | none => .next s
  | some left =>
    if r.len = 0 ∨ r.initing ∨ (s.ctx ctx).keyless ∨ s.linkOwes link ∨ p.mode ≠ r.mode ∨ r.len.toNat ≤ p.elem then .next s
    else if r.mode = 2 ∧ !(r.steps != 0 && p.round == r.round && decide (p.elem < r.next)) then
      .next (s.modRegion ctx rgn fun r => { r with early := r.early ++ [(link, p)] })
    else .next ((s.performArrival ctx rgn p left).1.stepDone ctx rgn)

/-- The half of a bounced packet returns to its element; false when the element cannot be written now. -/
def State.performBounce (s : State) (c k : Nat) (f : GxFlight) : Option State :=
  match s.elemAt c k f.elem with
  | .ok t =>
    let (s, e) := s.readElem c t.loc.key
    let e' := e.bounce f.hs f.hw f.psn
    some ((s.writeElem c t.loc.key e').modRegion c k fun r =>
      let r := (r.stick stBnc true).stick stPsn (e.becomes e')
      { r with flight := r.flight.filter fun g => g.seq != f.seq })
  | .bad _ =>
    if f.hs = 0 ∧ f.hw = 0 then
      some (s.modRegion c k fun r => { r.stick stBnc true with flight := r.flight.filter fun g => g.seq != f.seq })
    else none

/-- GOSSIP_BOUNCE (R153): also of a packet in doubt whose bounce failed when its link was trained again. -/
def execGossipBounce (ctx rgn seq : Nat) (s : State) : Out :=
  match ((s.ctx ctx).region rgn).flight.find? fun f => f.seq == seq && (!f.doubt || (s.link ((s.ctx ctx).region rgn |>.linkOf f.right)).trained) with
  | some f => match s.performBounce ctx rgn f with
    | some s => .next (s.stepDone ctx rgn)
    | none => .next s
  | none => .next s

/-- GOSSIP_ACK (R153). -/
def execGossipAck (ctx rgn seq : Nat) (s : State) : Out :=
  if ((s.ctx ctx).region rgn).flight.any fun f => f.seq == seq && !f.doubt then
    .next ((s.modRegion ctx rgn fun r => { r with flight := r.flight.filter fun f => f.seq != seq }).stepDone ctx rgn)
  else .next s

/-! ### Links (R153) -/

/-- Every region of every context. -/
def State.allRegions (s : State) : List (Nat × Nat) :=
  s.ctxs.flatMap fun c => c.2.regions.map fun r => (c.1, r.1)

/-- LINK_FAILURE (R153): packets that have left over the link and are not acknowledged are held in doubt. -/
def execLinkFailure (link : Nat) (s : State) : Out :=
  let s := s.modLink link fun l => { l with trained := false }
  .next (s.allRegions.foldl (fun s q => s.modRegion q.1 q.2 fun r =>
    let past (f : GxFlight) : Bool := r.linkOf f.right == link
    { r.stick stDoubt (r.flight.any past) with
      flight := r.flight.map fun f => if past f then { f with doubt := true } else f }) s)

/-- LINK_RETRAIN (R153): the packets beyond the last arrival that the partner performed bounce, all of them when the
partner was reset; the others were performed. The partner bounces likewise what arrived here and is still held for its
round. -/
def execLinkRetrain (link : Nat) (last : List (Nat × Nat × Nat)) (partnerReset : Bool) (s : State) : Out :=
  let s := s.modLink link fun l => { l with trained := true }
  .next (s.allRegions.foldl (fun s q =>
    let s := s.modRegion q.1 q.2 fun r => { r with early := r.early.filter fun p => p.1 != link }
    let r := (s.ctx q.1).region q.2
    let seen (f : GxFlight) : Nat := if partnerReset then 0
      else ((last.find? fun e => e.1 == q.1 && e.2.1 == 2 * q.2 + (if f.right then 1 else 0)).map (·.2.2)).getD 0
    let doubt := r.flight.filter fun f => f.doubt && r.linkOf f.right == link
    let s := doubt.foldl (fun s f =>
      if f.seq ≤ seen f then
        s.modRegion q.1 q.2 fun r => { r with flight := r.flight.filter fun g => g.seq != f.seq }
      else (s.performBounce q.1 q.2 f).getD s) s
    s.stepDone q.1 q.2) s)

end Sys2Proof.Machine
end

