-- ==== Sys2Proof/Machine/Firmware.lean ====
section
/-! DEFINITION. What firmware gives out (spec/01_address_spaces.md R14 to R17, R43, spec/05_memory_beyond_the_core.md R124):
the page tables, the memory that it reserves for tables and save areas, and the frames that it takes itself. -/

namespace Sys2Proof.Machine

/-! ### Tables (R15 to R17) -/

/-- Bytes of a table of a level (R15). -/
def tableSize : Nat → Nat
  | 0 => 256
  | _ => 4096
def State.setPte (s : State) (a : Nat) (e : DWord) : State := { s with ptab := SMap.put 0 s.ptab a e }
/-- The entries of a table that hold a value. -/
def tableAt (ptab : SMap DWord) (lvl tab : Nat) : List (Nat × DWord) :=
  ptab.filter fun p => decide (tab ≤ p.1 ∧ p.1 < tab + tableSize lvl)
def isValid (e : DWord) : Bool := pte e 0 1 == 1
def isLeaf (e : DWord) : Bool := pte e 0 1 == 1 && pte e 1 1 == 1
def isPointer (e : DWord) : Bool := pte e 0 1 == 1 && pte e 1 1 == 0
/-- The table that a pointer names (R16). -/
def nextTable (e : DWord) : Nat := pte e 8 44 * 256
/-- The valid leaves in and below a table: entry address, level and leaf. -/
def leaves (ptab : SMap DWord) : Nat → Nat → List (Nat × Nat × DWord)
  | 0, tab => ((tableAt ptab 0 tab).filter fun p => isLeaf p.2).map fun p => (p.1, 0, p.2)
  | n + 1, tab => (tableAt ptab (n + 1) tab).flatMap fun p =>
      if isLeaf p.2 then [(p.1, n + 1, p.2)] else if isPointer p.2 then leaves ptab n (nextTable p.2) else []
/-- A table and those below it. -/
def tables (ptab : SMap DWord) : Nat → Nat → List Nat
  | 0, tab => [tab]
  | n + 1, tab => tab :: (tableAt ptab (n + 1) tab).flatMap fun p =>
      if isPointer p.2 then tables ptab n (nextTable p.2) else []

/-! ### Room (R43, R124) -/

def overlaps (a n b m : Nat) : Bool := decide (a < b + m ∧ b < a + n)
/-- The lowest multiple of `align` from `lo` on where `n` bytes meet nothing in use and end by `hi`; it is the first from
`lo` or from the end of a part in use. -/
def firstFit (used : List (Nat × Nat)) (n align lo hi : Nat) : Option Nat :=
  let fits (a : Nat) : Bool := decide (lo ≤ a ∧ a + n ≤ hi) && used.all fun u => !overlaps a n u.1 u.2
  (((lo :: used.map fun u => u.1 + u.2).map (roundUp · align)).filter fits).min?

/-- What firmware's reserved memory holds: the tables of the contexts, each in 4,096 bytes, and their save areas. -/
def State.fwUsed (s : State) : List (Nat × Nat) :=
  s.ctxs.flatMap fun c => ((tables s.ptab 3 c.2.root).map fun t => (t, 4096)) ++
    (if c.2.area.2 = 0 then [] else [(c.2.area.1, roundUp c.2.area.2 4096)])
/-- Where `n` bytes have room in firmware's reserved memory (R124; log 20). -/
def State.fwRoom (s : State) (n : Nat) : Option Nat := firstFit s.fwUsed n 4096 Config.fwBase Config.memBytes
/-- An empty table taken there. -/
def State.newTable (s : State) : Option (Nat × State) :=
  (s.fwRoom 4096).map fun t => (t, { s with ptab := s.ptab.filter fun p => !decide (t ≤ p.1 ∧ p.1 < t + 4096) })

/-- The device memory that is assigned, as an extent, or mapped into a context. -/
def State.framesUsed (s : State) : List (Nat × Nat) :=
  (s.extents.map fun e => (e.base, e.len)) ++
    s.ctxs.flatMap fun c => ((leaves s.ptab 3 c.2.root).filter fun l => decide (pte l.2.2 6 3 ≤ 4)).map fun l =>
      (pte l.2.2 16 36 * 65536, leafSize l.2.1)
/-- A free frame of a size, the lowest (log 20); none where device memory has none. -/
def State.freeFrame (s : State) (size : Nat) : Option Nat := firstFit s.framesUsed size size 0 Config.fwBase

end Sys2Proof.Machine
end

