-- ==== Sys2Proof/Machine/Xlane.lean ====
section
/-! DEFINITION. The cross-lane forms xl (spec/11_instr_scalar_vector.md R279 to R283, spec/06_execution_model.md R173) and
the step in which the issue groups of a path on one core execute one (R280). -/

namespace Sys2Proof.Machine

/-! ### The common step (R280) -/

/-- The issue groups of the issuing role on the issuing core. -/
def State.coreIgs (s : State) : List Ig :=
  let k := s.igCore s.cur
  (s.role s.cur.role).igs.filter fun g => s.igCore { role := s.cur.role, ig := g.uid } == k

/-- Whether an issue group waits where R280 asks, or has no active lane; the issuing one stands at its xl. -/
def State.meetsXl (s : State) (g : Ig) : Bool :=
  g.uid == s.cur.ig || (s.lanes { role := s.cur.role, ig := g.uid }).isEmpty || (match g.wait with
    | .xl => true
    | .brd _ => true
    | .rpc => true
    | .bar _ _ _ => true
    | _ => false)

/-- The issue groups that execute together: those that wait at the issuing one's address; none while some issue group of
the path on the core is still on its way, or an xl at a lower address is waited at. -/
def State.xlParty (s : State) : Option (List IgRef) :=
  let gs := s.coreIgs
  let pc := (s.ig s.cur).pc
  let at_ (g : Ig) : Bool := g.uid == s.cur.ig || g.wait = .xl
  let waits := gs.filter fun g => at_ g && !(s.lanes { role := s.cur.role, ig := g.uid }).isEmpty
  if (gs.all s.meetsXl) && waits.all fun g => decide (pc ≤ g.pc) then
    some ((waits.filter fun g => g.pc == pc).map fun g => { role := s.cur.role, ig := g.uid })
  else none

/-- The issuing group waits for the others at its xl. -/
def State.awaitXl (s : State) : State := s.modIg s.cur fun g => { g with wait := .xl }

/-- Every issue group of a party moves past an instruction of `len` bytes. -/
def State.passAll (s : State) (len : Nat) (party : List IgRef) : State :=
  let cur := s.cur
  { party.foldl (fun s r => State.next { s with cur := r } len) s with cur := cur }

/-! ### Sources (R279) -/

/-- Whether a thread has exited, or was never there. -/
def State.gone (s : State) (g l : Nat) : Bool :=
  let x := s.group g
  let r := s.role (teamRole x.team x.role)
  let n := 96 * x.home + l
  r.exited.getLsbD n || !r.threads.getLsbD n

/-- value(X, p) in home group `g` for the members `mem` (R279). -/
def State.laneValue (s : State) (g : Nat) (mem : LaneMask) (r p : Nat) : Word :=
  if mem.getLsbD p && !s.gone g p then s.src g p r else 0

/-- Whether a write of the vector register `r` is still to come to a member lane of `g`, of `mem`, that has not exited and
is not among the active lanes `act` of the step (R279). -/
def State.pendingElsewhere (s : State) (g r : Nat) (mem act : LaneMask) : Bool :=
  let waits (l : Nat) := mem.getLsbD l && !act.getLsbD l && !s.gone g l
  decide (r < 384) &&
    (((s.group g).ops.any fun o => o.writes.contains r && o.lanes.any fun a => waits a.lane) ||
      ((s.core (s.group g).core).xform.any fun q => match q with
        | .entry e => e.writes.any fun w => w.1 == g && w.2.1 == r && waits w.2.2.1
        | .join _ => false))

/-- An xl form: `mem` gives the member lanes, `sel` the lanes written and `f` their values, in each home group, from its
active lanes in this step. -/
def State.xl (s : State) (x : XlArgs) (mem : State → Nat → LaneMask) (sel : State → Nat → LaneMask → LaneMask)
    (f : State → Nat → LaneMask → Nat → Flagged) : Out :=
  if (s.lanes s.cur).isEmpty then s.finish 8 (.done s)
  else
    match s.xlParty with
    | none => .next s.awaitXl
    | some party =>
      let ls := party.flatMap s.lanes
      let hs := homesOf ls
      let full (h : Nat) : Bool := match s.flagOf x.cf with
        | some f => decide (63 ≤ SMap.look 0 (s.group (s.gid h)).cf f)
        | none => false
      if hs.any fun h => s.pendingElsewhere (s.gid h) x.a (mem s (s.gid h)) (maskOf ls h) || full h then .next s.awaitXl
      else
        let t := hs.foldl (fun t h =>
          let g := s.gid h
          let m := maskOf ls h
          s.late (t.modGroup g fun y => y.setLanes x.d false (sel s g m) (f s g m)) none x.cf g [x.d] (sel s g m)) s
        .next (t.passAll 8 party)

/-- An xl form with a member mask that writes every active lane. -/
def State.xlAll (s : State) (x : XlArgs) (f : State → Nat → LaneMask → Nat → Flagged) : Out :=
  s.xl x (fun s g => s.triple g x.sm) (fun _ _ m => m) f

/-! ### The operations (R281 to R283) -/

/-- XL_SHFL (R281). -/
def execXlShfl (x : XlArgs) (s : State) : Out :=
  s.xlAll x fun s g _ l =>
    let p := (s.src g l x.b).toNat
    ((if p < 96 then s.laneValue g (s.triple g x.sm) x.a p else s.src g l x.a).toNat, 0)

/-- The source lane of shflx (R281). -/
def shflxLane (mode l k : Nat) : Int :=
  match mode with
  | 0 => l ^^^ k
  | 1 => (l : Int) - k
  | 2 => (l : Int) + k
  | _ => ((l + k) % 96 : Nat)

/-- XL_SHFLX (R281). -/
def execXlShflx (x : XlArgs) (s : State) : Out :=
  s.xlAll x fun s g _ l =>
    let p := shflxLane x.sel l x.b
    ((if 0 ≤ p ∧ p < 96 then s.laneValue g (s.triple g x.sm) x.a p.toNat else s.src g l x.a).toNat, 0)

/-- XL_BFLY (R283). -/
def execXlBfly (x : XlArgs) (s : State) : Out :=
  s.xlAll x fun s g _ l =>
    let m := 2 ^ (x.sel % 8)
    let bit := l / m % 2 == 1
    let take := if x.sel / 8 % 2 = 0 then bit else !bit
    ((if take then s.laneValue g (s.triple g x.sm) x.a (l ^^^ m) else s.src g l x.b).toNat, 0)

/-- XL_VOTE (R281). -/
def execXlVote (x : XlArgs) (s : State) : Out :=
  s.xlAll x fun s g m l =>
    let voters := (List.range 96).filter fun p => m.getLsbD p && (s.triple g x.sm).getLsbD p
    let yes := voters.filter fun p => s.src g p x.a != 0
    (match x.sel with
      | 0 => if yes.isEmpty then 0 else 1
      | 1 => if yes.length = voters.length then 1 else 0
      | 2 => yes.length
      | _ => yes.foldl (fun w p => if p / 32 = l / 32 then w + 2 ^ (p % 32) else w) 0, 0)

/-- XL_RDLN (R281). -/
def execXlRdln (x : XlArgs) (s : State) : Out :=
  s.xl x (fun _ _ => BitVec.allOnes 96) (fun _ _ m => m) fun s g _ _ =>
    let k := (s.readS g (x.b - 384)).toNat
    ((if k < 96 then s.laneValue g (BitVec.allOnes 96) x.a k else 0).toNat, 0)

/-- XL_WRLN (R281). -/
def execXlWrln (x : XlArgs) (s : State) : Out :=
  s.xl x (fun _ _ => 0) (fun s g m => m &&& BitVec.twoPow 96 (s.readS g (x.b - 384)).toNat) fun s g _ _ =>
    ((s.readS g (x.a - 384)).toNat, 0)

/-- A combination of R282 and its flags. -/
def combine (op : Nat) (t : Ty) (a b : Nat) : Flagged :=
  match op with
  | 0 => if t = .f32 then addF .f32 a b .rne false else ((a + b) % 2 ^ 32, 0)
  | 1 => (if t = .f32 then minmaxF false t a b else if intVal t b < intVal t a then b else a, 0)
  | 2 => (if t = .f32 then minmaxF true t a b else if intVal t a < intVal t b then b else a, 0)
  | 3 => (a &&& b, 0)
  | 4 => (a ||| b, 0)
  | _ => (a ^^^ b, 0)
/-- The identity of a combination (R282). -/
def combineUnit (op : Nat) (t : Ty) : Nat :=
  match op with
  | 1 => if t = .f32 then infOf .f32 false else wrapInt t (intMax t)
  | 2 => if t = .f32 then infOf .f32 true else wrapInt t (intMin t)
  | 3 => 0xFFFFFFFF
  | _ => 0
/-- The combination of some values in order; the identity only when there is none. -/
def combineAll (op : Nat) (t : Ty) : List Nat → Flagged
  | [] => (combineUnit op t, 0)
  | v :: vs => vs.foldl (fun acc w => let r := combine op t acc.1 w; (r.1, acc.2 ||| r.2)) (v, 0)
/-- The values of the members below lane `n`, ascending. -/
def State.memberVals (s : State) (g sm r n : Nat) : List Nat :=
  ((List.range n).filter fun p => (s.triple g sm).getLsbD p).map fun p => (s.laneValue g (s.triple g sm) r p).toNat

/-- XL_SCAN (R282): the flags are those of the additions that make active lanes' results (log 22). -/
def execXlScan (x : XlArgs) (s : State) : Out :=
  s.xlAll x fun s g _ l =>
    combineAll (x.sel % 8) x.ty (s.memberVals g x.sm x.a (if 8 ≤ x.sel then l else l + 1))
/-- XL_RED (R282). -/
def execXlRed (x : XlArgs) (s : State) : Out :=
  s.xlAll x fun s g _ _ => combineAll x.sel x.ty (s.memberVals g x.sm x.a 96)

end Sys2Proof.Machine
end

