-- ==== Sys2Proof/Machine/TapeOps.lean ====
section
/-! DEFINITION. The tape forms ta and the order gates' arming (spec/14_instr_gossip_tape_system.md R355 to R363), and the
registers of R349 and R350. -/

namespace Sys2Proof.Machine

/-! ### Registers (R349, R350) -/

/-- A word of a 64-bit tape register replaced; bit 0 of the result reads zero for an address. -/
def putHalf (v : DWord) (hi : Bool) (w : Word) (addr : Bool) : DWord :=
  let r : DWord := if hi then w ++ v.truncate 32 else (v.extractLsb' 32 32) ++ w
  if addr then r &&& ~~~1#64 else r
/-- A write of TAPEBASE or TAPEBASEHI also sets TAPEPOS (R349). -/
def Group.setTapeBase (x : Group) (hi : Bool) (w : Word) : Group :=
  let b := putHalf x.tapeBase hi w true
  { x with tapeBase := b, tapePos := b }
/-- A write of TAPECTL (R350). -/
def Group.setTapeCtl (x : Group) (w : Word) : Group :=
  if w &&& 0xFF80FFCC#32 ≠ 0 then x
  else
    let keep := x.tapeCtl &&& 0x007F0000#32
    let err := if w.getLsbD 5 then 0#32 else x.tapeCtl &&& 0x20#32
    { x with tapeCtl := keep ||| err ||| (w &&& 0x13#32) }

/-- TAPEBASE_WRITE (R349). -/
def execTapebaseWrite (g : Nat) (hi : Bool) (value : Word) (s : State) : Out :=
  .next (s.modGroup g fun x => x.setTapeBase hi value)
/-- Every earlier tape entry of a home group has been performed (R350, R356). -/
def Group.tapeIdle (x : Group) : Bool := x.tapeQ.isEmpty && x.tapeStall.isNone
/-- TAPECTL_WRITE (R350): it takes effect once every earlier tape entry has been performed. -/
def execTapectlWrite (g : Nat) (value : Word) (s : State) : Out :=
  .next (if (s.group g).tapeIdle then s.modGroup g fun x => x.setTapeCtl value else s)

/-! ### The queue (R363) -/

/-- Whether the host has answered a fault record with a mapping (R27). -/
def State.answered (s : State) (ctx fault : Nat) : Bool :=
  match findKey (s.ctx ctx).ring fault with
  | some (_, a) => a
  | none => false

/-- Bytes of a tape written at home, each checked for class 4; the cause of the first failure (R363). -/
def State.tapeWrite (s : State) (g va : Nat) : List Byte → Except (Nat × Nat) State
  | [] => .ok s
  | b :: t =>
    match s.tapeAt g .wr va with
    | .bad c => .error (va, c)
    | .ok x =>
      match State.tapeWrite s g (va + 1) t with
      | .ok s => .ok (s.homeWrite (s.groupCtx g) none [(x.loc.key, b)])
      | e => e

/-- TAPE_ENTRY_PERFORM (R363, R27): the oldest append of a home group's queue, or the end of a stall that a mapping has
answered. -/
def execTapeEntryPerform (g : Nat) (s : State) : Out :=
  let x := s.group g
  match x.tapeStall with
  | some i => .next (if s.answered (s.groupCtx g) i then s.modGroup g fun x => { x with tapeStall := none } else s)
  | none =>
    match x.tapeQ with
    | .write a bs :: rest =>
      (match s.tapeWrite g a bs with
      | .ok s => .next (s.modGroup g fun x => { x with tapeQ := rest })
      | .error (va, c) =>
        let s := s.tapeFailed g c va 1
        .next (if c = 4 then s else s.modGroup g fun x => { x with tapeQ := rest }))
    | [] => .next s

/-! ### The common step (R355) -/

/-- The active lanes of home group `h` on the whole path. -/
def State.pathMask (s : State) (h : Nat) : LaneMask := homeMask (s.role s.cur.role).active h
/-- Whether each supplying home group's lanes on the path all lie in the issuing group. -/
def State.wholeHere (s : State) : Bool :=
  let ls := s.lanes s.cur
  (homesOf ls).all fun h => s.pathMask h == maskOf ls h

/-- What one home group's part of a ta form comes to. -/
inductive TaRes where
  | ok (s : State)
  | wait (s : State)
  | trap (code : Nat) (addr : DWord)

/-- The parts of some home groups in turn, from the state `s0` before any; one that waits or traps leaves the others
undone. -/
def taEach (s0 s : State) (f : State → Nat → TaRes) : List Nat → TaRes
  | [] => .ok s
  | h :: t => match f s (s.gid h) with
    | .ok s' => taEach s0 s' f t
    | _ => f s0 (s0.gid h)

/-- A ta form that acts once for each home group: alone, or as an xl does when a home group's lanes lie in more than one
issue group of the path. A trap leaves every home group as it was. -/
def State.ta (s : State) (f : State → Nat → TaRes) : Out :=
  if (s.lanes s.cur).isEmpty then s.finish 8 (.done s)
  else
    match (if s.wholeHere then some [s.cur] else s.xlParty) with
    | none => .next s.awaitXl
    | some party =>
      match taEach s s f (homesOf (party.flatMap s.lanes)) with
      | .ok t => .next (t.passAll 8 party)
      | .wait t => .next t.stall
      | .trap c a => s.finish 8 (.trap s c a)

/-- An append in record mode; a tape that is full traps (R354). -/
def State.taAppend (s : State) (g : Nat) (us : List Nat) : TaRes :=
  let x := s.group g
  if x.tapeFits (2 * us.length) then .ok (s.setGroup g (x.append us)) else .trap 11 x.tapePos

/-- TA_REC (R352, R356). -/
def execTaRec (x : TaArgs) (s : State) : Out :=
  s.ta fun s g =>
    let y := s.group g
    if y.tapeMode = 1 then s.taAppend g (recUnits x.a x.n (s.pathMask y.home) fun r l => (y.lane r l).toNat) else .ok s

/-! ### Reading (R351, R356, R357) -/

/-- What a scan of the tape comes to. -/
inductive Scan where
  | at_ (a : Nat)
  | diverge (a : Nat)
  | fault (code va : Nat)

/-- A unit of the tape. -/
def State.tapeUnit (s : State) (g a : Nat) : State × (Nat ⊕ (Nat × Nat)) :=
  match s.tapeRead g a 2 with
  | (s, .inl bs) => (s, .inl (ofLE bs))
  | (s, .inr e) => (s, .inr e)

/-- The values and the bytes of a token by its header; none when the header breaks R351. -/
def tokenSize (h : Nat) : Option (Nat × Nat) :=
  let count := h / 2 ^ 6 % 64
  let run := h % 64
  match h / 2 ^ 12 with
  | 4 => if 1 ≤ count ∧ count ≤ 32 ∧ run = 0 then some (count, 2 + 4 * count) else none
  | 5 => if count = 0 ∧ 1 ≤ run ∧ run ≤ 32 then some (run, 2) else none
  | 6 => if count = 1 ∧ 2 ≤ run ∧ run ≤ 32 then some (run, 6) else none
  | _ => none

/-- Past the tokens that cover `n` values from address `a`, of the entry at `e`, none of which may reach past `limit`. -/
def State.scanBeat (s : State) (g limit e : Nat) : Nat → Nat → Nat → State × Scan
  | 0, a, _ => (s, .at_ a)
  | k + 1, a, n =>
    if n = 0 then (s, .at_ a)
    else if limit < a + 2 then (s, .diverge e)
    else
      match s.tapeUnit g a with
      | (s, .inr (va, c)) => (s, .fault c va)
      | (s, .inl h) =>
        match tokenSize h with
        | some (v, z) => if n < v then (s, .diverge a) else State.scanBeat s g limit e k (a + z) (n - v)
        | none => (s, .diverge a)

/-- Past the tokens of `n` beats (register by register). -/
def State.scanBeats (s : State) (g limit e : Nat) (m : LaneMask) : Nat → Nat → Nat → State × Scan
  | 0, _, a => (s, .at_ a)
  | n + 1, q, a =>
    match s.scanBeat g limit e 33 a (beatVals m (q % 3) id).length with
    | (s, .at_ b) => State.scanBeats s g limit e m n (q + 1) b
    | r => r

/-- The mask that an entry at `a` holds, `off` bytes in. -/
def State.tapeMask (s : State) (g a : Nat) : State × (LaneMask ⊕ (Nat × Nat)) :=
  match s.tapeRead g a 12 with
  | (s, .inl bs) => (s, .inl (BitVec.ofNat 96 (ofLE bs)))
  | (s, .inr e) => (s, .inr e)

/-- Past the entry of header `h` at `a`, which may not reach past `limit`: REC and BRD only (R351, R356). -/
def State.passEntry (s : State) (g limit a h : Nat) : State × Scan :=
  let count := h / 2 ^ 6 % 64
  if h / 2 ^ 12 = 2 ∧ h % 2 ^ 12 = 0 then (s, .at_ (a + 16))
  else if h / 2 ^ 12 = 1 ∧ 1 ≤ count ∧ count ≤ 32 ∧ h % 64 = 0 then
    match s.tapeMask g (a + 4) with
    | (s, .inr (va, c)) => (s, .fault c va)
    | (s, .inl m) =>
      match s.scanBeats g limit a m (3 * count) 0 (a + 16) with
      | (s, .at_ b) => (s, if limit < b + 2 then .diverge a else .at_ (b + 2))
      | r => r
  else (s, .diverge a)

/-- The next MARK from address `a` (R356, mode 11): at most `k` entries on. -/
def State.nextMark (s : State) (g limit : Nat) : Nat → Nat → State × Scan
  | 0, a => (s, .diverge a)
  | k + 1, a =>
    if limit < a + 16 then (s, .diverge a)
    else
      match s.tapeUnit g a with
      | (s, .inr (va, c)) => (s, .fault c va)
      | (s, .inl h) =>
        if h = 3 * 2 ^ 12 then (s, .at_ a)
        else
          match s.passEntry g limit a h with
          | (s, .at_ b) => State.nextMark s g limit k b
          | r => r

/-- A tape access of a reading form that failed: a translation fault makes it wait; any other sets ERR (R27, R363), and
the form, tried again with ERR set, diverges there: it cannot make its comparison (R356, R357). -/
def State.taFault (s : State) (g c va : Nat) : TaRes :=
  if c ≠ 4 ∧ (s.group g).tapeErr then .trap 12 (BitVec.ofNat 64 va) else .wait (s.tapeFailed g c va 0)

/-- The label and hash of a MARK entry's bytes (R353). -/
def markOf (bs : List Byte) : Nat × Nat := (ofLE ((bs.drop 2).take 4), ofLE ((bs.drop 6).take 8))

/-- TA_MARK (R353, R356). -/
def execTaMark (x : TaArgs) (s : State) : Out :=
  s.ta fun s g =>
    let y := s.group g
    let label := s.readS g x.sa
    if y.tapeMode = 1 then s.taAppend g (markUnits label y.tapeHash)
    else if y.tapeMode = 0 then .ok s
    else if !y.tapeIdle then .wait s
    else if y.tapeMode = 2 then
      match s.lastEntry g with
      | (_, .diverge a) => .trap 12 (BitVec.ofNat 64 a)
      | (s, .fault c va) => s.taFault g c va
      | (s, .entry a bs) =>
        if unitAt bs 0 = 3 * 2 ^ 12 ∧ bs.length = 16 ∧ (markOf bs).1 = label.toNat then
          .ok (s.modGroup g fun x => { x with tapePos := BitVec.ofNat 64 a })
        else .trap 12 (BitVec.ofNat 64 a)
    else
      let limit := y.tapeLimit.toNat
      let pos := y.tapePos.toNat
      match s.nextMark g limit ((limit - pos) / 16 + 1) pos with
      | (_, .diverge a) => .trap 12 (BitVec.ofNat 64 a)
      | (s, .fault c va) => s.taFault g c va
      | (s, .at_ a) =>
        match s.tapeRead g a 16 with
        | (s, .inr (va, c)) => s.taFault g c va
        | (s, .inl bs) =>
          if markOf bs = (label.toNat, y.tapeHash.toNat) then
            .ok (s.modGroup g fun x => { x with tapePos := BitVec.ofNat 64 (a + 16) })
          else .trap 12 (BitVec.ofNat 64 a)

/-- The values of a popped entry in its registers (R357). -/
def State.popValues (s : State) (g d n : Nat) (m : LaneMask) (vals : List (List Nat)) : State :=
  (List.range (3 * n)).foldl (fun s q =>
    let lanes := beatVals m (q % 3) id
    (lanes.zip (vals.getD q [])).foldl (fun s p => s.writeLane g (d + q / 3) p.1 (BitVec.ofNat 32 p.2)) s) s

/-- TA_POP (R357). -/
def execTaPop (x : TaArgs) (s : State) : Out :=
  s.ta fun s g =>
    let y := s.group g
    if y.tapeMode ≠ 2 then .trap 5 (y.tapeCtl.setWidth 64)
    else if !y.tapeIdle || (match s.flagOf x.cf with
        | some f => decide (63 ≤ SMap.look 0 y.cf f)
        | none => false) then .wait s
    else
      match s.lastEntry g with
      | (_, .diverge a) => .trap 12 (BitVec.ofNat 64 a)
      | (s, .fault c va) => s.taFault g c va
      | (s, .entry a bs) =>
        let m := s.pathMask y.home
        if unitAt bs 0 ≠ tapeHeader 1 x.n 0 ∨ maskAt bs 2 ≠ m then .trap 12 (BitVec.ofNat 64 a)
        else
          match s.scanBeats g y.tapePos.toNat a m (3 * x.n) 0 (a + 16) with
          | (_, .diverge b) => .trap 12 (BitVec.ofNat 64 b)
          | (s, .fault c va) => s.taFault g c va
          | (s, .at_ _) =>
            let t := s.late (s.popValues g x.a x.n m (recValues bs m x.n)) none x.cf g
              ((List.range x.n).map (x.a + ·)) m
            .ok (t.modGroup g fun x => { x with tapePos := BitVec.ofNat 64 a })

/-- TA_CTL_FLUSH (R356). -/
def execTaCtlFlush (_x : TaArgs) (s : State) : Out :=
  s.ta fun s g => if (s.group g).tapeIdle then .ok s else .wait s
/-- TA_CTL_REWIND (R356). -/
def execTaCtlRewind (_x : TaArgs) (s : State) : Out :=
  s.ta fun s g => .ok (s.modGroup g fun x => { x with tapePos := x.tapeBase })
/-- TA_HASH (R356). -/
def execTaHash (x : TaArgs) (s : State) : Out :=
  s.ta fun s g => .ok (s.modGroup g fun y => { y with tapeHash := s.readS64 g x.sa })

/-! ### Order gates (R360) -/

/-- Puts a gate in a context's table, or takes it away. -/
def State.setGate (s : State) (c g : Nat) (x : Option Gate) : State :=
  s.modCtx c fun y => { y with gates := match x with
    | some x => SMap.ins y.gates g x
    | none => SMap.erase y.gates g }

/-- The checks of an arming (R360). -/
def State.gateFail (s : State) (n : Nat) (w t cap : Nat) : Option Res :=
  let c := s.curCtx
  let b (n : Nat) : DWord := BitVec.ofNat 64 n
  if w % 8 ≠ 0 then some (.trap s 3 (b w))
  else if t % 8 ≠ 0 then some (.trap s 3 (b t))
  else if 2 ^ 48 ≤ w then some (.trap s 5 (b w))
  else if 2 ^ 48 ≤ t then some (.trap s 5 (b t))
  else if cap = 0 ∨ 2 ^ 28 < cap then some (.trap s 5 (b cap))
  else if (s.ctx c).gates.any fun g => g.1 != n && g.2.word == w then some (.trap s 5 (b w))
  else
    match s.check c .both wordClass false w with
    | .bad 4 => some (.fault w 2)
    | .bad e => some (.trap s e (b w))
    | .ok _ =>
      match s.spanFail c .both tapePages t (8 + 4 * cap) with
      | some (a, 4) => some (.fault a 1)
      | some (a, e) => some (.trap s e (b a))
      | none => none

/-- Arming in record mode writes the header as zero; in play mode it reads the header and finds the first chunk that owes
a step (R360, R362). -/
def State.arm (s : State) (x : TaArgs) (play : Bool) : Out :=
  let g := s.lowest
  let w := (s.readS64 g x.sa).toNat
  let t := (s.readS64 g (x.sa + 2)).toNat
  let cap := (s.readS g (x.sa + 4)).toNat
  let c := s.curCtx
  s.finish 8 (
    if (s.lanes s.cur).isEmpty then .done s
    else match s.gateFail x.n w t cap with
      | some r => r
      | none =>
        let loc := match s.check c .both wordClass false w with
          | .ok t => t.loc.key
          | .bad _ => 0
        let base : Gate := { word := w, loc := loc, tape := t, cap := cap, play := play }
        if !play then .done ((s.gateWrite c t (gateHeader 0 false false)).1.setGate c x.n (some base))
        else
          match (List.range 8).find? fun i => match s.check c .both tapePages false (t + i) with
            | .ok p => (s.readHome c p.loc.key .free).2.2
            | .bad _ => false with
          | some i => .trap s 7 (BitVec.ofNat 64 (t + i))
          | none =>
            match s.gateRead c t 8 with
            | (s, .inr _) => .done s
            | (s, .inl bs) =>
              let count := ofLE (bs.take 4)
              let ovf := ofLE bs / 2 ^ 32 % 2 == 1
              let n := min count cap
              let s := s.setGate c x.n (some { base with chunks := n, count := count, ovf := ovf })
              .done (s.gateSeek c x.n (s.team s.curTeam).num (s.group g).home n))

/-- TA_GATE_OFF (R360). -/
def execTaGateOff (x : TaArgs) (s : State) : Out :=
  s.finish 8 (if (s.lanes s.cur).isEmpty then .done s else .done (s.setGate s.curCtx x.n none))
/-- TA_GATE_REC (R360, R361). -/
def execTaGateRec (x : TaArgs) (s : State) : Out := s.arm x false
/-- TA_GATE_PLAY (R360, R362). -/
def execTaGatePlay (x : TaArgs) (s : State) : Out := s.arm x true

end Sys2Proof.Machine
end

