-- ==== Sys2Proof/Machine/Launch.lean ====
section
/-! DEFINITION. From launch to residence (spec/07_scheduling.md R185 to R189): the ls forms
(spec/14_instr_gossip_tape_system.md R365 to R368), the dispatcher, the records of a kernel
(spec/10_assembly_and_objects.md R250 to R252), placement, spawned groups (spec/06_execution_model.md R178, R179), the end
of a team, and what returns then (spec/02_storage_on_chip.md R51, R54, R77). -/

namespace Sys2Proof.Machine

/-! ### What a kernel record asks for (R48, R75, R76, R160, R250) -/

def KRole.granules (r : KRole) : Nat := (r.regs + 7) / 8
/-- G: the groups of a team. -/
def KRec.size (k : KRec) : Nat := (k.roles.map (·.groups)).sum
/-- The role of each home group, in order (R160), and the granules of each (R48). -/
def KRec.rolesOf (k : KRec) : List Nat := (k.roles.zipIdx).flatMap fun p => List.replicate p.1.groups p.2
def KRec.grans (k : KRec) : List Nat := k.roles.flatMap fun r => List.replicate r.groups r.granules
/-- The scratch of a team: the shares, each rounded up to 256 bytes, rounded up to whole granules (R75, R76). -/
def KRec.scratch (k : KRec) : Nat := roundUp (k.roles.map fun r => roundUp r.share 256).sum 4096
/-- The limits of R250, and the rounded scratch of R75. -/
def KRec.limits (k : KRec) : Bool :=
  k.ok && decide (1 ≤ k.roles.length ∧ k.roles.length ≤ 4 ∧ k.size ≤ 32 ∧ k.tiles ≤ 256 ∧ k.args ≤ 4096) &&
    (k.roles.all fun r => decide (1 ≤ r.groups ∧ r.groups ≤ 32 ∧ 8 ≤ r.regs ∧ r.regs ≤ 384 ∧ r.regs % 8 = 0 ∧
      r.share ≤ 8388608)) && decide (k.scratch ≤ 8388608)

/-! ### Room (R188) -/

/-- What is taken: group slots and granules by core, scratch granules by cluster, directory entries by pair; the groups
resident on each core; and the scratch granules a cluster has. -/
structure Room where
  load : SMap Nat := []
  slots : SMap Nat := []
  grans : SMap Nat := []
  scratch : SMap Nat := []
  dirs : SMap Nat := []
  banks : SMap Nat := []
  deriving DecidableEq, Repr, Inhabited

/-- The scratch granules of a cluster as (bank, index): those of banks that accept allocations (R69, R75). -/
def Cluster.scratchBanks (c : Cluster) : List Nat :=
  (List.range Config.nBank).filter fun b => (c.bank b).mode == 2 && !(c.bank b).zero
/-- The granules a cluster's allocations hold (R67, R77). -/
def State.scratchHeld (s : State) (c : Nat) : List (Nat × Nat) :=
  s.allocs.flatMap fun p => if p.2.cluster = c then p.2.granules else []
/-- The free list of a cluster, in ascending bank order, then ascending within a bank (R75). -/
def State.scratchFree (s : State) (c : Nat) : List (Nat × Nat) :=
  let held := s.scratchHeld c
  (s.cluster c).scratchBanks.flatMap fun b => ((List.range 64).map fun i => (b, i)).filter fun g => !held.contains g

/-- The banks of a cluster that hold scratch once none is being drained or cleared (R69). -/
def Cluster.scratchTotal (c : Cluster) : Nat :=
  ((List.range Config.nBank).filter fun b =>
    if (c.bank b).busy then (c.bank b).ctl.toNat % 4 == 2 else (c.bank b).mode == 2).length
/-- An idle device (R187). -/
def State.idleRoom (s : State) : Room := { banks := s.clusters.map fun p => (p.1, 64 * p.2.scratchTotal) }
/-- The groups resident on each core. -/
def State.slotsUsed (s : State) : SMap Nat :=
  s.groups.foldl (fun m p => if p.2.resident && !p.2.exited then SMap.ins m p.2.core (SMap.look 0 m p.2.core + 1) else m) []
/-- The core of each home group at a place (R159). -/
def Placement.split (p : Placement) (n : Nat) : List Nat :=
  match p with
  | .core c => List.replicate n c
  | .pair p => (List.range n).map fun h => if h < (n + 1) / 2 then 2 * p else 2 * p + 1
def Placement.pairNo : Placement → Nat
  | .core c => pairOf c
  | .pair p => p
def Placement.clusterNo : Placement → Nat
  | .core c => clusterOf c
  | .pair p => clusterOf (2 * p)

/-- What a team needs: the granules of each resident home group (none for one that has exited), scratch granules and
directory entries (R188). -/
structure Demand where
  groups : List (Option Nat)
  scratch : Nat
  tiles : Nat
  deriving DecidableEq, Repr, Inhabited

def KRec.demand (k : KRec) : Demand :=
  { groups := k.grans.map some, scratch := k.scratch / 4096, tiles := k.tiles }

/-- A team's demand at a place, taken from the room. -/
def Room.take (m : Room) (d : Demand) (p : Placement) : Room :=
  let add (x : SMap Nat) (i n : Nat) : SMap Nat := SMap.ins x i (SMap.look 0 x i + n)
  let groups := (p.split d.groups.length).zip d.groups
  let count (x : SMap Nat) : SMap Nat := groups.foldl (fun x q => if q.2.isSome then add x q.1 1 else x) x
  { m with
    load := count m.load,
    slots := count m.slots,
    grans := groups.foldl (fun x q => add x q.1 (q.2.getD 0)) m.grans,
    scratch := add m.scratch p.clusterNo d.scratch,
    dirs := add m.dirs p.pairNo d.tiles }
/-- Whether a team fits at a place (R188). -/
def Room.fits (m : Room) (d : Demand) (p : Placement) : Bool :=
  let n := m.take d p
  (p.cores.all fun c => decide (SMap.look 0 n.slots c ≤ Config.groupSlots ∧ SMap.look 0 n.grans c ≤ Config.poolGranules)) &&
    decide (SMap.look 0 n.scratch p.clusterNo ≤ SMap.look 0 m.banks p.clusterNo ∧
      SMap.look 0 n.dirs p.pairNo ≤ Config.dirEntries)
/-- The groups resident at a place. -/
def Room.loadAt (m : Room) (p : Placement) : Nat := (p.cores.map (SMap.look 0 m.load)).sum
/-- The first of some places with the least load. -/
def Room.least (m : Room) : List Placement → Option Placement
  | [] => none
  | p :: t => match Room.least m t with
    | some q => if m.loadAt q < m.loadAt p then some q else some p
    | none => some p
/-- Every core and every pair, as places. -/
def everyCore : List Placement := (List.range Config.nCore).map Placement.core
def everyPair : List Placement := (List.range (Config.nCore / 2)).map Placement.pair
/-- The place of a team (R188); none if it fits nowhere. -/
def Room.choose (m : Room) (d : Demand) : Option Placement :=
  let pairs := everyPair.filter (m.fits d)
  if d.groups.length ≤ 16 then
    match m.least (everyCore.filter (m.fits d)) with
    | some p => some p
    | none => m.least pairs
  else m.least pairs
/-- Places for the teams of a grid, as many of `n` as fit. -/
def Room.plan (m : Room) (d : Demand) : Nat → List Placement
  | 0 => []
  | n + 1 => match m.choose d with
    | some p => p :: Room.plan (m.take d p) d n
    | none => []
/-- More teams than can ever be resident together. -/
def teamBound : Nat := Config.nCore * Config.groupSlots + 1
/-- Whether all of `n` teams fit together (R187). -/
def Room.fitsAll (m : Room) (d : Demand) (n : Nat) : Bool :=
  decide (n < teamBound ∧ (m.plan d (min n teamBound)).length = n)

/-- The device as it is, with what is reserved for a cooperative grid (R187; log 76): no group is resident at a reserved
place yet (R188). -/
def State.taken (s : State) : Room :=
  s.grids.foldl (fun m g => g.2.reserve.foldl (fun m p => { m.take g.2.krec.demand p with load := m.load }) m)
    { load := s.slotsUsed, slots := s.slotsUsed,
      grans := s.cores.map fun p => (p.1, Config.poolGranules - p.2.free),
      scratch := s.clusters.map fun p => (p.1, ((s.scratchHeld p.1).filter fun g => p.2.scratchBanks.contains g.1).length),
      dirs := s.pairs.map fun p => (p.1, p.2.dir.length),
      banks := s.clusters.map fun p => (p.1, 64 * p.2.scratchBanks.length) }

/-! ### A team comes to be resident -/

/-- The threads of a team by role (R160). -/
def KRec.threads (k : KRec) (r : Nat) : ThreadMask :=
  (k.rolesOf.zipIdx).foldl (fun m p => if p.1 = r then m ||| (BitVec.ofNat 3072 (2 ^ 96 - 1) <<< (96 * p.2)) else m) 0

/-- The tape registers of a group at launch (R252). -/
def Group.setTape (x : Group) (num size : Nat) (tape : Option (DWord × Word × Word)) : Group :=
  match tape with
  | none => x
  | some (base, bytes, ctl) =>
    let b : DWord := (base + BitVec.ofNat 64 ((num * size + x.home) * bytes.toNat)) &&& ~~~1#64
    ({ x with tapeBase := b, tapePos := b, tapeLimit := (b + bytes.setWidth 64) &&& ~~~1#64 } : Group).setTapeCtl ctl

/-- A team of kernel `k` becomes resident at a place (R48, R50, R54, R75, R165, R367): its scratch, directory entries and
groups, whose registers hold what `init` gives, with `dead` its threads that have exited from launch (R179). Its name is
the first one not used. -/
def State.openTeam (s : State) (ctx grid num : Nat) (k : KRec) (place : Placement) (first : Bool)
    (init : Group → Group) (dead : ThreadMask) : State :=
  let t := s.nextUid
  let n := k.size
  let pool := s.scratchFree place.clusterNo
  let alloc : Alloc := { cluster := place.clusterNo, granules := pool.take (k.scratch / 4096), size := k.scratch }
  let team : Team := { ctx := ctx, grid := grid, num := num, place := place, krec := k, alloc := t, groups := n,
                       firstIssue := !first }
  let s := { (s.setTeam t team).setAlloc t alloc with nextUid := t + 1 }
  let dir := (s.pair place.pairNo).dir
  let free := (List.range Config.dirEntries).filter fun i => !SMap.has dir i
  let s := s.modPair place.pairNo fun p => { p with
    dir := (free.take k.tiles).zipIdx.foldl (fun d e => SMap.ins d e.1 { ctx := ctx, team := t, tslot := e.2 }) p.dir }
  let homes := ((place.split n).zip (k.grans.zip k.rolesOf)).zipIdx
  let s := homes.foldl (fun s q =>
    let (((c, g, r), h) : (Nat × Nat × Nat) × Nat) := q
    let x : Group := { team := t, home := h, role := r, core := c, gran := g }
    (s.setGroup (teamGroup t h) (init (x.setTape num n k.tape))).modCore c fun y => { y with free := y.free - g }) s
  (List.range k.roles.length).foldl (fun s r =>
    let m := k.threads r
    let role : Role := { threads := m, exited := m &&& dead,
                         entries := [{ kind := .path, pc := k.entry, rpc := none, mask := m &&& ~~~dead }] }
    (s.setRole (teamRole t r) role).becomeCurrent (teamRole t r)) s

/-- Scalar registers that a launched group holds (R367). -/
def Group.setLaunch (x : Group) (arg : DWord) (count : Nat) : Group :=
  { x with s := SMap.put 0 (SMap.put 0 (SMap.put 0 x.s 0 (arg.truncate 32)) 1 (arg.extractLsb' 32 32)) 2
                  (BitVec.ofNat 32 count) }

/-! ### The launch status word (R366) -/

/-- Whether a team exists that has not ended. -/
def State.teamLives (s : State) (t : Nat) : Bool :=
  match findKey s.teams t with
  | some x => !x.ended
  | none => false
/-- The launch status word of a grid, unless its launching team has ended. -/
def State.launchStatus (s : State) (g : Grid) (st : Nat) : State :=
  match g.status with
  | some (t, off) =>
    if s.teamLives t then s.modScratch t fun a => a.write off (leBytes 8 (st * 2 ^ 60 + g.seq % 2 ^ 32)) else s
  | none => s

/-! ### ls.launch (R365) -/

/-- The kernel record that an entry address names. -/
def Ctx.kernel (c : Ctx) (entry : DWord) : Option KRec := c.images.find? fun k => k.entry == entry
/-- Grids of a launch queue that are not yet fully placed (R185). -/
def Ctx.queue (c : Ctx) (q : Nat) : List Nat := SMap.look [] c.queues q
def queueLen : Nat := 64

/-- A grid enters a launch queue (R185). -/
def State.enqueue (s : State) (g : Grid) : State :=
  let (id, s) := s.fresh
  let seq := s.launchSeq + 1
  let s := { s.setGrid id { g with seq := seq } with launchSeq := seq }
  s.modCtx g.ctx fun c => { c with queues := SMap.ins c.queues g.q (c.queue g.q ++ [id]) }

/-- LS_LAUNCH (R216, R365, R366): once per issue group, with the registers of the lowest supplying home group. -/
def execLsLaunch (x : LsArgs) (s : State) : Out :=
  let g := s.lowest
  let entry := s.readS64 g x.sa
  let count := s.readS g x.sb
  let arg := s.readS64 g x.sx
  let c := s.ctx s.curCtx
  let off := BitVec.ofNat 64 x.imm
  let noWord : Bool := x.imm == 0xFFFFFFFF
  s.finish 12 (
    if (s.lanes s.cur).isEmpty then .done s
    else if entry.toNat % 4 ≠ 0 then .trap s 3 entry
    else match c.kernel entry with
    | none => .trap s 5 entry
    | some k =>
      if count = 0 then .trap s 5 0
      else if x.coop != k.coop then .trap s 5 (if x.coop then 1 else 0)
      else if 2 ^ 48 ≤ arg.toNat then .trap s 5 arg
      else if !noWord && x.imm % 8 != 0 then .trap s 3 off
      else if !noWord && decide ((s.scratchOf s.curTeam).size < x.imm + 8) then .trap s 5 off
      else if queueLen ≤ (c.queue x.q).length then .wait s
      else
        let grid : Grid := { ctx := s.curCtx, q := x.q, krec := k, count := count.toNat, arg := arg,
                             status := if noWord then none else some (s.curTeam, x.imm) }
        let id := s.nextUid
        let t := s.enqueue grid
        .done (t.launchStatus (t.grid id) 0))

/-! ### ls.spawn (R178, R368) -/

/-- The bin of a core with a key, or else the lowest-numbered empty one; none when all are held by other keys. -/
def Core.binFor (c : Core) (ctx : Nat) (entry : DWord) : Option Nat :=
  match c.bins.find? fun b => b.2.ctx == ctx && b.2.entry == entry with
  | some b => some b.1
  | none => (List.range 16).find? fun i => !SMap.has c.bins i
/-- A thread enters its bin. -/
def Core.spawn (c : Core) (ctx : Nat) (entry : DWord) (t : Spawn) : Option Core :=
  (c.binFor ctx entry).map fun i =>
    let b : Bin := (findKey c.bins i).getD { ctx := ctx, entry := entry, threads := [] }
    { c with bins := SMap.ins c.bins i { b with threads := b.threads ++ [t] } }
/-- The active threads of the issuing group in ascending thread order, as (lane, home group). -/
def State.threadOrder (s : State) : List (Nat × Nat) :=
  let ls := s.lanes s.cur
  (homesOf ls).flatMap fun h => ls.filter fun p => p.2 == h

/-- LS_SPAWN (R178, R216, R368); each thread takes its entry address from its own home group. Where some thread finds no
bin, none of the instruction's threads enters and it waits whole: R178 does not say, and this is the model's choice (log
87). -/
def execLsSpawn (x : LsArgs) (s : State) : Out :=
  let ls := s.threadOrder
  let entry (h : Nat) : DWord := s.readS64 (s.gid h) x.sa
  let c := s.ctx s.curCtx
  let core := s.igCore s.cur
  s.finish 12 (
    match (homesOf ls).find? fun h => (entry h).toNat % 4 != 0 || (c.kernel (entry h)).isNone with
    | some h => .trap s (if (entry h).toNat % 4 ≠ 0 then 3 else 5) (entry h)
    | none =>
      let put := ls.foldl (fun (k : Option Core) p => match k with
        | some k => k.spawn s.curCtx (entry p.2)
            { arg := s.readV (s.gid p.2) x.imm p.1, clock := s.clock.toNat, team := s.curTeam }
        | none => none) (some (s.core core))
      match put with
      | some k => .done (s.setCore core k)
      | none => .wait s)

/-! ### Spawn bins launch (R178, R179, R189) -/

/-- SPAWN_TIMER_EXPIRY (R178, R181): a bin whose first thread entered SPAWNTIMER clocks ago is to launch. -/
def execSpawnTimerExpiry (core bin : Nat) (s : State) : Out :=
  .next (match findKey (s.core core).bins bin with
    | some b =>
      let n := (s.ctx b.ctx).spawnTimer.toNat
      let first := (b.threads.head?.map (·.clock)).getD 0
      if (s.ctx b.ctx).run == .running && n != 0 && decide (first + n ≤ s.clock.toNat) then
        s.modCore core fun c => { c with bins := SMap.ins c.bins bin { b with due := true } }
      else s
    | none => s)

/-- The one-group kernel of a spawned group: role 0 of the bin's kernel (R179). -/
def KRec.spawned (k : KRec) : KRec := { k with roles := (k.roles.take 1).map fun r => { r with groups := 1 } }

/-- Whether a bin is to launch before it is full: its time has come, or the team of its first thread has ended. -/
def State.binDue (s : State) (b : Bin) : Bool :=
  b.due || !(s.teamLives ((b.threads.head?.map (·.team)).getD 0))

/-- Whether a bin waits to launch a group: it is full or due, and its context runs and has its key (R46, R178, R189). -/
def State.binWaits (s : State) (b : Bin) : Bool :=
  (s.ctx b.ctx).run == .running && !(s.ctx b.ctx).keyless && (s.binDue b || decide (96 ≤ b.threads.length))

/-- SPAWN_BIN_LAUNCH (R179, R189): the first 96 threads of a bin that is full or due launch as a one-group team on the
bin's core, once it fits there and no claim of the core waits. -/
def execSpawnBinLaunch (core bin : Nat) (s : State) : Out :=
  .next (match findKey (s.core core).bins bin with
    | some b =>
      match (s.ctx b.ctx).kernel b.entry with
      | some k =>
        let k := k.spawned
        let go := b.threads.take 96
        let rest := b.threads.drop 96
        let due := s.binDue b
        if s.binWaits b && (s.core core).claims.isEmpty && s.taken.fits k.demand (.core core) then
          let s := s.modCore core fun c => { c with
            bins := if rest.isEmpty then SMap.erase c.bins bin else SMap.ins c.bins bin { b with threads := rest, due := due } }
          let lanes : LaneMask := BitVec.ofNat 96 (2 ^ go.length - 1)
          let live : ThreadMask := lanes.setWidth 3072
          s.openTeam b.ctx 0 0 k (.core core) false
            (fun x => x.setVec 0 lanes fun l => (go[l]?.map (·.arg)).getD 0) (~~~live)
        else s
      | none => s
    | none => s)

/-! ### The dispatcher (R185 to R188, R252) -/

/-- A bind record as a table entry; none when it names no entry (R251). -/
def bindOf (b : DWord × Nat × DWord) : Option Bind :=
  if b.1.toNat % 64 = 0 ∧ b.1.toNat < 2 ^ 48 ∧ b.2.2.toNat % 8 = 0 ∧ b.2.2.toNat < 2 ^ 48 ∧ 1 ≤ b.2.1 ∧ b.2.1 ≤ 67108863 then
    some { base := b.1.toNat / 64, lines := b.2.1, obj := b.2.2.toNat / 8 }
  else none
/-- The binding table with a kernel's bind records entered; none when a check fails (R252). -/
def Ctx.bindAll (c : Ctx) : List (DWord × Nat × DWord) → Option Ctx
  | [] => some c
  | b :: t => match bindOf b with
    | none => none
    | some e =>
      if c.binds.contains e then Ctx.bindAll c t
      else if c.bindFits e then Ctx.bindAll { c with binds := c.binds ++ [e] } t
      else none
/-- The check of a gossip record (R252). -/
def Ctx.gossipFits (c : Ctx) (g : DWord × Nat × Nat × Word × Nat) : Bool :=
  let (base, count, k, cfg, mode) := g
  let r := c.region k
  decide (base.toNat % 65536 = 0 ∧ base.toNat < 2 ^ 48) &&
    (r.len == 0 || (r.addr.toNat == base.toNat / 65536 && r.len.toNat == count &&
      r.cfg == ((cfg &&& ~~~3#32) ||| BitVec.ofNat 32 mode)))
/-- A gossip record applied to a region that has no elements; answers the MODE to set after the initialisation. -/
def State.applyGossip (s : State) (ctx : Nat) (g : DWord × Nat × Nat × Word × Nat) : State × List (Nat × Nat) :=
  let (base, count, k, cfg, mode) := g
  if ((s.ctx ctx).region k).len ≠ 0 then (s, [])
  else
    let s := s.setGxAddr ctx k (BitVec.ofNat 32 (base.toNat / 65536))
    let s := s.modRegion ctx k fun r => r.setCfg cfg
    (s.setGxLen ctx k (BitVec.ofNat 32 count), [(k, mode)])

/-- A head refused (R187, R250, R252): the grid leaves its queue; the status word, or for a root grid a record, says so.
-/
def State.refuse (s : State) (g : Nat) : State :=
  let x := s.grid g
  let s := s.modCtx x.ctx fun c => { c with queues := SMap.ins c.queues x.q ((c.queue x.q).filter (· != g)) }
  let s := if x.root then (s.postFault x.ctx (.refused x.seq)).2 else s.launchStatus x 3
  { s with grids := SMap.erase s.grids g }

/-- The judgement of a grid that has reached the head of its queue (R187, R250): refused where it could not run on an idle
device. -/
def State.judge (s : State) (g : Nat) : State :=
  let x := s.grid g
  let k := x.krec
  if !k.limits || (k.coop && !s.idleRoom.fitsAll k.demand x.count) then s.refuse g
  else s.modGrid g fun y => { y with judged := true }
/-- The records of a grid's kernel before its first team is placed (R252): refused, or applied. -/
def State.applyRecords (s : State) (g : Nat) : State :=
  let x := s.grid g
  let k := x.krec
  if !(k.gossips.all (s.ctx x.ctx).gossipFits) then s.refuse g
  else
    match (s.ctx x.ctx).bindAll k.binds with
    | none => s.refuse g
    | some c =>
      let (s, modes) := k.gossips.foldl (fun (acc : State × List (Nat × Nat)) r =>
        let (s, m) := acc.1.applyGossip x.ctx r
        (s, acc.2 ++ m)) (s.setCtx x.ctx c, [])
      s.modGrid g fun y => { y with applied := true, modes := modes }

/-- The MODE values still to be set, once every initialisation is complete (R252). -/
def State.setModes (s : State) (g : Nat) : State :=
  let x := s.grid g
  (x.modes.foldl (fun s m => s.modRegion x.ctx m.1 fun r =>
    r.setCfg ((r.cfg &&& ~~~3#32) ||| BitVec.ofNat 32 m.2)) s).modGrid g fun y => { y with modes := [] }
def State.modesDue (s : State) (g : Nat) : Bool :=
  let x := s.grid g
  x.modes.all fun m => !((s.ctx x.ctx).region m.1).initing

/-- A core's granules and slots that the dispatcher may not take: all its granules while a claim waits there, and those of
each spawned group that waits there for granules or a slot (R163, R189). -/
def State.promised (s : State) (m : Room) (core : Nat) (c : Core) : Room :=
  if c.claims.isEmpty then
    c.bins.foldl (fun m b => match (s.ctx b.2.ctx).kernel b.2.entry with
      | some k =>
        let d := k.spawned.demand
        if s.binWaits b.2 && s.taken.fits { d with groups := [] } (.core core) then
          { m.take { d with scratch := 0, tiles := 0 } (.core core) with load := m.load }
        else m
      | none => m) m
  else { m with grans := SMap.ins m.grans core Config.poolGranules }
/-- The device as the dispatcher may use it (R189). -/
def State.spare (s : State) : Room := s.cores.foldl (fun m p => s.promised m p.1 p.2) s.taken

/-- The next team of a grid placed; the grid leaves its queue with its last team. -/
def State.placeNext (s : State) (g : Nat) (p : Placement) : State :=
  let x := s.grid g
  let s := if x.placed = 0 then s.launchStatus x 1 else s
  let s := s.openTeam x.ctx g x.placed x.krec p true (fun y => y.setLaunch x.arg x.count) 0
  let s := s.modGrid g fun y => { y with placed := y.placed + 1 }
  if x.placed + 1 = x.count then
    s.modCtx x.ctx fun c => { c with queues := SMap.ins c.queues x.q ((c.queue x.q).filter (· != g)) }
  else s

/-- A list turned so that what follows the last value served comes first (R186). -/
def turned (last : Option Nat) (l : List Nat) : List Nat :=
  match last with
  | none => l
  | some n => (l.filter fun a => decide (n < a)) ++ l.filter fun a => decide (a ≤ n)

/-- The grid at the head of a queue, if it has a team to place: every team of the queue's earlier grids has ended, and its
initialisations are complete (R185, R252). -/
def State.head (s : State) (ctx q : Nat) : Option Nat :=
  match (s.ctx ctx).queue q with
  | g :: _ =>
    if (s.grids.any fun p => p.2.ctx == ctx && p.2.q == q && p.2.placed == p.2.count && p.2.count != 0) then none
    else if s.modesDue g then some g else none
  | [] => none
/-- The contexts whose queues are served: those that run and have their key (R46, R381). -/
def State.serving (s : State) : List Nat := (s.ctxs.filter fun c => c.2.run == .running && !c.2.keyless).map (·.1)
/-- A grid at the head of its queue that has not been judged. -/
def State.unjudged (s : State) : Option Nat :=
  s.serving.findSome? fun c => (s.ctx c).queues.findSome? fun q => q.2.head?.filter fun g => !(s.grid g).judged
/-- The heads of a priority in the order they are served: contexts in turn, and the queues of each in turn (R186). -/
def State.heads (s : State) (p : Nat) : List Nat :=
  (turned (findKey s.rrCtx p) s.serving).flatMap fun c =>
    (turned (findKey s.rrQueue (4 * c + p)) ((List.range 16).map fun i => 16 * p + i)).filterMap fun q => s.head c q

/-- A grid is served: its queue and context go to the end of the turn (R186). -/
def State.served (s : State) (g p : Nat) : State :=
  let x := s.grid g
  { s with rrCtx := SMap.ins s.rrCtx p x.ctx, rrQueue := SMap.ins s.rrQueue (4 * x.ctx + p) x.q }

/-- Whether a partial reservation keeps the teams of a head of priority `p` from being placed (R187). -/
def State.reservedAgainst (s : State) (p g : Nat) : Bool :=
  s.grids.any fun q => !q.2.reserve.isEmpty && q.1 != g && decide (p ≤ q.2.q / 16)
/-- The places of a list at which teams still fit, one beside the other, and the room that they leave: a bank or a claim
may have taken what was reserved (R68, R163; log 76). -/
def Room.keep (m : Room) (d : Demand) : List Placement → List Placement × Room
  | [] => ([], m)
  | p :: t =>
    if m.fits d p then
      let (ps, n) := Room.keep (m.take d p) d t
      (p :: ps, n)
    else Room.keep m d t
/-- A cooperative head reserves what it can for its teams, in order, and is placed whole once it has a place for each
(R187). -/
def State.reserve (s : State) (p g : Nat) : Option State :=
  let x := s.grid g
  let d := x.krec.demand
  let (kept, m) := (s.modGrid g fun y => { y with reserve := [] }).spare.keep d x.reserve
  let places := kept ++ m.plan d (min x.count teamBound - kept.length)
  if places.length = x.count then
    some (places.foldl (fun s q => s.placeNext g q) ((s.served g p).modGrid g fun y => { y with reserve := [] }))
  else if places = x.reserve then none
  else some (s.modGrid g fun y => { y with reserve := places })
/-- A head's turn: its records first, then the MODE values, then a place for its next team, or for all teams of a
cooperative grid; none when it waits for resources (R187, R252). -/
def State.tryHead (s : State) (p g : Nat) : Option State :=
  let x := s.grid g
  if !x.applied then some (s.applyRecords g)
  else if !x.modes.isEmpty then some (s.setModes g)
  else if s.reservedAgainst p g then none
  else if x.krec.coop then s.reserve p g
  else (s.spare.choose x.krec.demand).map fun q => (s.served g p).placeNext g q

/-- Reservations that grids of a priority below `p` hold in part are given up, so that a head of priority `p` does not
wait for ever for what cannot be placed before it (R186 item 4; log 76). -/
def State.yield (s : State) (p : Nat) : State :=
  { s with grids := s.grids.map fun q => if q.2.q / 16 < p then (q.1, { q.2 with reserve := [] }) else q }
/-- The heads of priorities `p - 1` and below: the first that can act does; a head that waits for resources holds back
lower priorities (R186). -/
def State.dispatch (s : State) : Nat → State
  | 0 => s
  | p + 1 =>
    let hs := s.heads p
    match hs.findSome? (s.tryHead p) with
    | some t => t
    | none => if hs.isEmpty then State.dispatch s p else s.yield p

/-- TEAM_PLACE (R186, R187): a grid that has come to the head of its queue is judged; else the dispatcher serves the
heads. -/
def execTeamPlace (s : State) : Out :=
  .next (match s.unjudged with
    | some g => s.judge g
    | none => s.dispatch 4)

/-! ### The end of a team (R51, R54, R77, R163, R185) -/

/-- Whether an engine still has an entry of a team to perform (R185). -/
def State.engineBusy (s : State) (t : Nat) : Bool :=
  (s.cores.any fun c =>
    (c.2.copy.any fun q => q.2.any fun e => match e with
      | .entry e => e.team == t
      | .join _ => false) ||
    (c.2.xform.any fun e => match e with
      | .entry e => (e.writes.any fun w => (s.group w.1).team == t) || e.flags.any fun f => (s.group f.1).team == t
      | .join _ => false)) ||
  (s.pairs.any fun p => p.2.window.any fun e => e.team == t) ||
  (s.stks.any fun k => k.2.nmu.any fun e => match e with
    | .entry e => e.team == t
    | .join _ => false) ||
  (s.joins.any fun j => j.2.getD 2 0 == t) ||
  (s.links.any fun l => l.2.queue.any fun e => match e with
    | .step _ _ _ u => u == t
    | .req _ => false) ||
  (s.teamGroups t).any fun g => !(s.group g).tapeIdle

/-- Whether a group has exited and no operation is to write its registers (R51). -/
def State.groupDone (s : State) (g : Nat) : Bool :=
  let x := s.group g
  x.exited && !x.returned && x.ops.all (fun o => o.writes.isEmpty) &&
    !((s.core x.core).xform.any fun e => match e with
      | .entry e => e.writes.any fun w => w.1 == g
      | .join _ => false)
/-- A group's granules return to the pool. -/
def State.giveGranules (s : State) (g : Nat) : State :=
  let x := s.group g
  (s.setGroup g { x with returned := true, v := [] }).modCore x.core fun c => { c with free := c.free + x.gran }

/-- GRANULE_RETURN (R51). -/
def execGranuleReturn (g : Nat) (s : State) : Out :=
  .next (if SMap.has s.groups g && (s.group g).resident && s.groupDone g then s.giveGranules g else s)

/-- Whether a team has ended: it has exited, and its operations and engine entries are performed (R185). -/
def State.teamOver (s : State) (t : Nat) : Bool :=
  SMap.has s.teams t && (s.team t).resident && !(s.team t).ended &&
    ((s.teamGroups t).all fun g => (s.group g).exited && (s.group g).ops.isEmpty) && !s.engineBusy t

/-- A team's directory entries and tile granules return to its pair (R54). -/
def Pair.dropTeam (p : Pair) (t : Nat) : Pair :=
  let gone := p.dir.filter fun e => e.2.team == t
  { p with dir := p.dir.filter fun e => e.2.team != t,
           gmap := (gone.flatMap fun e => granList p.gmap e.2.ghead e.2.ngran).foldl SMap.erase p.gmap }

/-- The held operations of a team leave: of a terminated one, those that have come to be held since too (R379). -/
def State.dropHeld (s : State) (t : Nat) : State :=
  (s.teamGroups t).foldl (fun s g => s.modGroup g fun x => x.dropOps ((s.heldOps g).map (·.id))) s

/-- TEAM_END (R185, R379): the release at dev scope, what the team held returns, and its grid counts it. -/
def execTeamEnd (team : Nat) (s : State) : Out :=
  let s := if (s.team team).terminated then s.dropHeld team else s
  .next (if s.teamOver team then
    let x := s.team team
    let s := (x.place.cores).foldl (fun s c => s.drain c x.ctx x.place .dev [none]) s
    let s := (s.teamGroups team).foldl (fun s g => if (s.group g).returned then s else s.giveGranules g) s
    let s := s.modPair x.place.pairNo fun p => p.dropTeam team
    let s := s.modAlloc x.alloc fun a => { a with draining := true }
    let s : State := { s with
      groups := s.groups.filter fun p => p.2.team != team,
      roles := s.roles.filter fun p => roleTeam p.1 != team }
    let s := s.modTeam team fun y => { y with ended := true }
    if x.grid = 0 then s
    else
      let s := s.modGrid x.grid fun g => { g with ended := g.ended + 1 }
      let g := s.grid x.grid
      if g.ended = g.count then { s.launchStatus g 2 with grids := SMap.erase s.grids x.grid } else s
  else s)

/-- SCRATCH_RECLAIM (R77): a draining allocation with nothing inbound is cleared and freed. -/
def execScratchReclaim (alloc : Nat) (s : State) : Out :=
  .next (match findKey s.allocs alloc with
    | some a =>
      if a.draining && a.inb == 0 then
        { s with allocs := SMap.erase s.allocs alloc, teams := s.teams.filter fun p => !(p.2.ended && p.2.alloc == alloc) }
      else s
    | none => s)

/-- The issue group of a claim. -/
def State.claimant (s : State) (c : Claim) : IgRef :=
  { role := teamRole (s.group c.group).team (s.group c.group).role, ig := c.ig }
/-- Whether a claim at the head of its core is served now: in a clock after that in which it issued, when all that issued
with it have entered, its context running and its issue group standing at its ms.rclaim, from the pool's free count
(R163). -/
def State.claimReady (s : State) (core : Nat) (c : Claim) : Bool :=
  decide (c.clock < s.clock.toNat ∧ c.n ≤ (s.core core).free) && (s.ctx (s.groupCtx c.group)).run == .running &&
    (s.ig (s.claimant c)).claim
/-- RCLAIM_SERVED (R163): the oldest claim of a core takes its granules; its issue group goes on once every claim it made
is served. The instruction counts, or meets the path budget, as the first of its claims is served (R180). -/
def execRclaimServed (core : Nat) (s : State) : Out :=
  match (s.core core).claims with
  | [] => .next s
  | c :: rest =>
    let ref := s.claimant c
    if !s.claimReady core c then .next s
    else if c.lead && s.overBudget ref then .next ((s.timeOut ref).settle ref.role)
    else
      let s := s.modCore core fun k => { k with free := k.free - c.n, claims := rest }
      let s : State := { s.modGroup c.group fun y => { y with gran := y.gran + c.n } with cur := ref }
      let s := if c.lead then s.count else s
      if rest.any fun q => q.ig == c.ig then .next s
      else .next (((s.modIg ref fun g => { g.advance 8 with claim := false }).unblock).settle ref.role)

end Sys2Proof.Machine
end

