-- ==== Sys2Proof/Machine/System.lean ====
section
/-! DEFINITION. The control registers and the sy forms (spec/14_instr_gossip_tape_system.md R369 to R375), the replay of
a descheduled group and of an engine entry (spec/01_address_spaces.md R26, R27), the path budget and blocked time
(spec/06_execution_model.md R180, spec/12_instr_memory_sync.md R292), and the banks' drains (spec/02_storage_on_chip.md
R69 to R71). -/

namespace Sys2Proof.Machine

/-! ### Control registers (R370, R371) -/

/-- A half of a 64-bit register. -/
def half (v : DWord) (hi : Bool) : Word := if hi then v.extractLsb' 32 32 else v.truncate 32

/-- What a read of CSR `n` by home group `g` returns: the register that the map of R371 assigns to the number, with the
device's identity in 0x000 to 0x004. -/
def State.readCsr (s : State) (g n : Nat) : Word :=
  let x := s.group g
  let c := s.ctx (s.groupCtx g)
  let t := s.team x.team
  if n = 0x000 then Config.devId
  else if n = 0x001 then Config.devRev
  else if n = 0x002 then s.devnum.setWidth 32
  else if n = 0x003 then BitVec.ofNat 32 Config.nCore
  else if n = 0x004 then Config.clkMhz
  else if n = 0x100 then c.pathBudget
  else if n = 0x101 then c.spawnTimer
  else if n = 0x102 then x.fpflags
  else if n = 0x200 then c.rankCeil
  else if n = 0x201 then c.rankMode
  else if n = 0x202 then half c.rankTol false
  else if n = 0x203 then half c.rankTol true
  else if n = 0x204 then c.tileQuota
  else if n = 0x205 then c.tileTrap
  else if n = 0x300 then half x.tapeBase false
  else if n = 0x301 then half x.tapeBase true
  else if n = 0x302 then half x.tapeLimit false
  else if n = 0x303 then half x.tapeLimit true
  else if n = 0x304 then x.tapeCtl
  else if n = 0x305 then half x.tapePos false
  else if n = 0x306 then half x.tapePos true
  else if n = 0x307 then half x.tapeHash false
  else if n = 0x308 then half x.tapeHash true
  else if 0x400 ≤ n ∧ n ≤ 0x40F then
    let r := c.region ((n - 0x400) / 4)
    (match n % 4 with
      | 0 => r.addr
      | 1 => r.len
      | 2 => r.cfg
      | _ => r.stat)
  else if n = 0x500 then half t.trapvec false
  else if n = 0x505 then half t.trapvec true
  else if n = 0x501 then x.trapCause
  else if n = 0x502 then half x.trapPc false
  else if n = 0x506 then half x.trapPc true
  else if n = 0x503 then x.trapClause
  else if n = 0x504 then half x.trapAddr false
  else if n = 0x507 then half x.trapAddr true
  else if !c.test then 0
  else if n = 0x600 then half c.preemptAt false
  else if n = 0x601 then half c.preemptAt true
  else if n = 0x602 then half c.retired false
  else if n = 0x603 then half c.retired true
  else if n = 0x604 then c.trigCtl
  else 0

/-- A write of CSR `n` by home group `g`, under the register's rule (a trigger armed by a write of TRIGCTL asks for no
hold, R375): a write that sets a reserved bit leaves the register as it was (R370), and so does one to a read-only
register. -/
def State.writeCsr (s : State) (g n : Nat) (v : Word) : State :=
  let ctx := s.groupCtx g
  let k := (n - 0x400) / 4
  if n = 0x100 then s.modCtx ctx fun c => { c with pathBudget := v }
  else if n = 0x101 then s.modCtx ctx fun c => if v.toNat < 2 ^ 20 then { c with spawnTimer := v } else c
  else if n = 0x102 then s.modGroup g fun x => if v.toNat < 16 then { x with fpflags := v } else x
  else if n = 0x200 then s.modCtx ctx fun c => c.setRankCeil v
  else if n = 0x201 then s.modCtx ctx fun c => c.setRankMode v
  else if n = 0x202 ∨ n = 0x203 then s.modCtx ctx fun c => { c with rankTol := putHalf c.rankTol (n == 0x203) v false }
  else if n = 0x204 then s.modCtx ctx fun c => c.setTileQuota v
  else if n = 0x205 then s.modCtx ctx fun c => c.setTileTrap v
  else if n = 0x300 ∨ n = 0x301 then s.modGroup g fun x => x.setTapeBase (n == 0x301) v
  else if n = 0x302 ∨ n = 0x303 then
    s.modGroup g fun x => { x with tapeLimit := putHalf x.tapeLimit (n == 0x303) v true }
  else if n = 0x304 then (if (s.group g).tapeIdle then s.modGroup g fun x => x.setTapeCtl v else s)
  else if n = 0x305 ∨ n = 0x306 then s.modGroup g fun x => { x with tapePos := putHalf x.tapePos (n == 0x306) v true }
  else if n = 0x307 ∨ n = 0x308 then
    s.modGroup g fun x => { x with tapeHash := putHalf x.tapeHash (n == 0x308) v false }
  else if 0x400 ≤ n ∧ n ≤ 0x40F then
    (match n % 4 with
      | 0 => s.setGxAddr ctx k v
      | 1 => s.setGxLen ctx k v
      | 2 => s.modRegion ctx k fun r => r.setCfg v
      | _ => s.modRegion ctx k fun r => r.setStat v)
  else if n = 0x500 ∨ n = 0x505 then
    s.modTeam (s.group g).team fun t => { t with trapvec := putHalf t.trapvec (n == 0x505) v false }
  else if n = 0x502 ∨ n = 0x506 then s.modGroup g fun x => { x with trapPc := putHalf x.trapPc (n == 0x506) v false }
  else if n = 0x503 then s.modGroup g fun x => if v.toNat < 64 then { x with trapClause := v } else x
  else if !(s.ctx ctx).test then s
  else if n = 0x600 ∨ n = 0x601 then
    s.modCtx ctx fun c => { c with preemptAt := putHalf c.preemptAt (n == 0x601) v false }
  else if n = 0x604 then s.modCtx ctx fun c => if v.toNat < 2 then { c with trigCtl := v, hold := false } else c
  else s

/-- The bits of a register that are cleared by writing 1 (R369). -/
def clearedByOne (n : Nat) : Word :=
  if n = 0x304 then 0x20#32
  else if 0x400 ≤ n ∧ n ≤ 0x40F ∧ n % 4 = 3 then 0x001F0000#32
  else 0

/-- The value that sy.csrs or sy.csrc writes (R369). -/
def csrValue (n : Nat) (a new : Word) : Word :=
  let w := clearedByOne n
  (new &&& ~~~w) ||| (a &&& w)

/-- A write form: every supplying home group in ascending order (R370); a write of TAPECTL waits for the earlier tape
entries (R350). -/
def State.csrForm (s : State) (x : SyArgs) (f : Word → Word → Word) : Out :=
  let busy := x.csr == 0x304 && (s.suppliers s.cur).any fun h => !(s.group (s.gid h)).tapeIdle
  s.finish 8 (
    if busy then .wait s
    else .done (s.eachHome fun s g => s.writeCsr g x.csr (f (s.readCsr g x.csr) (s.readS g x.sa))))

/-- SY_CSRR (R369). -/
def execSyCsrr (x : SyArgs) (s : State) : Out :=
  s.simple 8 fun s => s.eachHome fun s g => s.writeS g x.sd (s.readCsr g x.csr)
/-- SY_CSRW (R369). -/
def execSyCsrw (x : SyArgs) (s : State) : Out := s.csrForm x fun _ a => a
/-- SY_CSRS (R369). -/
def execSyCsrs (x : SyArgs) (s : State) : Out := s.csrForm x fun old a => csrValue x.csr a (old ||| a)
/-- SY_CSRC (R369). -/
def execSyCsrc (x : SyArgs) (s : State) : Out := s.csrForm x fun old a => csrValue x.csr a (old &&& ~~~a)

/-- SY_TRAP (R234, R369): the software trap is taken after the instruction; with no active thread there is no trap, which
is the model's choice (log 83). -/
def execSyTrap (x : SyArgs) (s : State) : Out :=
  s.finish 8 (if (s.lanes s.cur).isEmpty then .done s else .trapAfter s 15 (BitVec.ofNat 64 x.imm))

/-- SY_TRET (R374): every home group leaves its handler, and the issue group goes to the resume point of the lowest; a
held tile entry of a returning home group tries again (R342). With no active thread it returns all the same, the home
groups being those of the issue group's slots: the model's choice (log 83). -/
def execSyTret (x : SyArgs) (s : State) : Out :=
  let gs := s.igGroups s.cur
  let low := s.group (gs.headD 0)
  s.finish 8 (
    if gs.any fun g => !(s.group g).act then .trap s 1 (BitVec.ofNat 64 (encode (.syTret x) % 2 ^ 32))
    else if low.trapPc.toNat % 4 ≠ 0 then .trap s 3 low.trapPc
    else
      let t := gs.foldl (fun (s : State) g => s.modGroup g fun y => { y with trapCause := y.trapCause &&& 0x7FFFFFFF#32 }) s
      let off := if low.trapClause.getLsbD 5 then some (low.trapClause.toNat % 32) else none
      .stand ((t.retryTiles gs).modIg s.cur fun g =>
        { g with pc := low.trapPc, clause := none, resume := off, wait := .none }))

/-- SY_CLK (R369): clocks since device reset. -/
def execSyClk (x : SyArgs) (s : State) : Out :=
  s.simple 8 fun s => s.eachHome fun s g => s.writeS64 g x.sd s.clock

/-- SY_RNG (R208, R369). -/
def execSyRng (x : SyArgs) (s : State) : Out :=
  s.simple 8 fun s => s.eachLanes fun s g m =>
    let y := s.group g
    let seed := s.readS64 g x.sa + BitVec.ofNat 64 (96 * y.home)
    s.setGroup g { y with rng := (List.range 96).foldl (fun r l =>
      if m.getLsbD l then SMap.ins r l (seed + BitVec.ofNat 64 l) else r) y.rng }

/-- CSR_WRITE (R370). -/
def execCsrWrite (g csr : Nat) (value : Word) (s : State) : Out := .next (s.writeCsr g csr value)

/-! ### Faults answered (R26, R27, R236) -/

/-- An issue group stands at its resume point: a clause is begun again at its header (R236). -/
def Ig.restart (g : Ig) : Ig :=
  let (pc, c) := g.resumePoint
  { g with pc := pc, clause := none, resume := if c.getLsbD 5 then some (c.toNat % 32) else none, wait := .none,
           acqDone := [], remote := [] }

/-- FAULT_REPLAY (R26, R236): a descheduled issue group whose page the host has mapped issues its instruction again. -/
def execFaultReplay (r : IgRef) (s : State) : Out :=
  let t := s.team (roleTeam r.role)
  .next (match (s.ig r).fault with
    | some i =>
      if t.resident && (s.ctx t.ctx).run == .running && s.answered t.ctx i then
        (s.modIg r fun g => { g.restart with fault := none }).push (.issue r)
      else s
    | none => s)

/-- ENGINE_ENTRY_RESUME (R27): a stalled entry whose page the host has mapped goes on at the chunk that faulted. -/
def execEngineEntryResume (eng : EngineId) (s : State) : Out :=
  .next (match eng with
    | .copy core q =>
      (match s.copyHead core q with
        | some e => (match e.stalled with
          | some (i, _, _) => if s.answered e.ctx i then s.modCopy core q fun e => { e with stalled := none } else s
          | none => s)
        | none => s)
    | .tile pair entry =>
      (match (s.pair pair).window.find? fun e => e.id == entry with
        | some e => (match e.stalled with
          | some i => if s.answered e.ctx i then s.modEntry pair entry fun e => { e with stalled := none } else s
          | none => s)
        | none => s)
    | .nmu k =>
      let s := s.modStack k fun t => { t with nmu := match t.nmu with
        | .entry e :: rest =>
          (match e.stalled with
            | some i => if s.answered e.ctx i then .entry { e with stalled := none } :: rest else t.nmu
            | none => t.nmu)
        | q => q }
      (s.stack k).bufs.foldl (fun s b =>
        match b.2.stalled with
        | some i =>
          if s.answered b.2.ctx i then (s.setBuf k b.1 { b.2 with stalled := none }).takeHeld k b.1 (b.2.held.length + 1)
          else s
        | none => s) s
    | .gossip ctx rgn =>
      (match ((s.ctx ctx).region rgn).stalled with
        | some i => if s.answered ctx i then s.modRegion ctx rgn fun r => { r with stalled := none } else s
        | none => s))

/-! ### Budget and blocked time (R180, R292) -/

/-- PATH_TIMEOUT (R180): the trap at an instruction that has been found to wait, and whose issue would exceed the budget;
an instruction that need not wait is judged as it issues. -/
def execPathTimeout (r : IgRef) (s : State) : Out :=
  let ready := s.canTurn r && (s.dueTrap r).isNone && (s.ig r).declined.isNone && (s.ig r).pending
  .next (if ready && s.overBudget r then s.timeOut r else s)

/-- BLOCKED_TIME_TICK (R292): 1,024 clocks of blocked time count once. -/
def execBlockedTimeTick (role : Nat) (s : State) : Out :=
  .next (match (s.role role).since with
    | some c =>
      if c + 1024 ≤ s.clock.toNat ∧ (s.ctx (s.roleCtx role)).run = .running then
        s.modRole role fun x => { x with since := some (c + 1024), count := x.count + 1 }
      else s
    | none => s)

/-! ### Banks (R69 to R71) -/

/-- The lines of a bank are written down and dropped. -/
def State.drainBank (s : State) (c b : Nat) : State :=
  (((s.cluster c).lines.filter fun l => l.2.bank == b).map (·.1)).foldl
    (fun s l => (s.clusterDown c l).dropClusterLine c l) s

/-- BANK_DRAIN_COMPLETE (R69): every line of the bank has been written home and invalidated, and the requested mode takes
effect; a bank that enters SCRATCH or FIFO is then cleared. -/
def execBankDrainComplete (cluster bank : Nat) (s : State) : Out :=
  .next (if ((s.cluster cluster).bank bank).busy then
    (s.drainBank cluster bank).modBank cluster bank fun b =>
      let m := b.ctl.toNat % 4
      { b with busy := false, mode := m, zero := decide (2 ≤ m), fifo := [] }
  else s)

/-- BANK_CLEAR_COMPLETE (R69). -/
def execBankClearComplete (cluster bank : Nat) (s : State) : Out :=
  .next (if ((s.cluster cluster).bank bank).zero then s.modBank cluster bank fun b => { b with zero := false } else s)

/-- PINCFG_WRITE (R71). The accesses counted so far, with AGE 0 or before the write, count on towards the next ageing
(log 64). -/
def execPincfgWrite (cluster : Nat) (value : DWord) (s : State) : Out :=
  .next (if value &&& 0xFFFFFFFFFFF000F0#64 = 0 then s.modCluster cluster fun c => { c with pincfg := value } else s)

end Sys2Proof.Machine
end

