-- ==== Sys2Proof/Machine/Preempt.lean ====
section
/-! DEFINITION. Pre-emption and resume (spec/15_traps_and_preemption.md R380 to R389): what is cancelled, what is
performed, how the engines stand down, what is saved, the bytes of the save area with their check, and the restore. -/

namespace Sys2Proof.Machine

/-- The state that an event leaves. -/
def eventAfter (o : Out) (s : State) : State :=
  match o with
  | .next t => t
  | _ => s

/-- `f` applied for each of 0 to `n - 1`. -/
def repeatTimes {α : Type} (n : Nat) (f : α → α) (a : α) : α := (List.range n).foldl (fun a _ => f a) a

/-! ### Whose -/

/-- The teams of a context that have not ended. -/
def State.ctxTeams (s : State) (c : Nat) : List Nat :=
  (s.teams.filter fun p => p.2.ctx == c && !p.2.ended).map (·.1)
/-- Their home groups. -/
def State.ctxGroups (s : State) (c : Nat) : List Nat := (s.ctxTeams c).flatMap s.teamGroups

/-! ### Operations cancelled and performed (R381 steps 2 and 3) -/

/-- An operation among others in issue order. -/
def inOrder (o : Op) : List Op → List Op
  | [] => [o]
  | p :: t => if o.id < p.id then o :: p :: t else p :: inOrder o t
/-- Held operations leave their counters and are recorded in issue order. -/
def State.cancelHeld (s : State) (g : Nat) : State :=
  let hs := s.heldOps g
  s.modGroup g fun x => { x.dropOps (hs.map (·.id)) with held := hs.foldl (fun l o => inOrder o l) x.held }

/-- One attempt to perform operation `o` of home group `g`, by every transition that may. -/
def State.tryOp (s : State) (g : Nat) (o : Op) : State :=
  let run (f : State → Out) (s : State) : State := eventAfter (f s) s
  let s := run (execScratchAccessPerform g o.id none) s
  let s := run (execStorePerform g o.id none) s
  let s := run (execLoadPerform g o.id none .free) s
  let s := (distinct (o.lanes.map (·.addr))).foldl (fun s a => run (execAtomicPerform g o.id a .free) s) s
  let s := run (execReleasePerform g o.id .free) s
  let s := run (execAcquirePerform g o.id .free) s
  let s := run (execFifoPushPerform g o.id) s
  run (execFifoPopPerform g o.id) s

/-- A peer's answer that nothing here decides (R39; log 23). -/
def State.freeAnswer (s : State) (w : PeerWait) : PeerAns × State :=
  let n := s.draws
  ({ ok := !Config.peerRefuses n,
     data := (List.range w.acc.size).map fun i => Config.peerByte n w.peer (w.acc.loc % 2 ^ 64 + i) },
   { s with draws := n + 1 })
/-- The requests of a queue from its head to the last of a context. -/
def Link.through (l : Link) (c : Nat) : List PeerWait :=
  let ws := l.queue.filterMap LinkEntry.request
  (ws.reverse.dropWhile fun w => w.ctx != c).reverse
/-- Every request to a peer that a context waits on is answered, with those ahead of it in its link's queue, the oldest
first (R382); the accepted steps among them freeze and are passed by (R156; log 82). -/
def State.answerPeers (s : State) (c : Nat) : State :=
  s.links.foldl (fun s l => (l.2.through c).foldl (fun s w =>
    let (a, s) := s.freeAnswer w
    s.peerAnswer l.1 w a) s) s

/-- The entries of a tile window execute and commit, as far as they can. -/
def State.runWindow (s : State) (p : Nat) : State :=
  repeatTimes (s.pair p).window.length (fun s =>
    (s.pair p).window.foldl (fun s e =>
      let s := eventAfter (execTileEntryStart p e.id s) s
      eventAfter (execTileCommit p e.id .free s) s) s) s
/-- Every tile window. -/
def State.runWindows (s : State) : State := (s.pairs.map (·.1)).foldl (fun s p => s.runWindow p) s

/-- One round of performing everything a context has outstanding; a tq.info needs the commits before it (R343). -/
def State.performRound (c : Nat) (s : State) : State :=
  let s := (s.ctxGroups c).foldl (fun s g => (s.group g).ops.foldl (fun s o => s.tryOp g o) s) s
  let s := if (s.ctxGroups c).any fun g => (s.group g).ops.any fun o => o.kind == .query then s.runWindows else s
  s.answerPeers c
/-- Every outstanding operation of a context is performed; what is held in the end is cancelled too. -/
def State.performAll (s : State) (c : Nat) : State :=
  let n := ((s.ctxGroups c).map fun g => (s.group g).ops.length).sum
  let m := (s.pairs.map fun p => p.2.window.length).sum
  let s := repeatTimes (n + 3 * m + 2) (State.performRound c) s
  (s.ctxGroups c).foldl (fun s g => s.cancelHeld g) s

/-- The poison traps that are due are taken first (R381, R411). -/
def State.takeDue (s : State) (c : Nat) : State :=
  (s.ctxTeams c).foldl (fun s t => (List.range 4).foldl (fun s r =>
    (s.role (teamRole t r)).igs.foldl (fun (s : State) g =>
      let ref : IgRef := { role := teamRole t r, ig := g.uid }
      if s.mayTrap ref then
        match s.dueTrap ref with
        | some (7, a) => ((s.withdraw ref 7).takeTrap ref 7 (s.ig ref).resumePoint a).settle ref.role
        | _ => s
      else s) s) s) s

/-! ### The engines (R381 steps 4 and 5, R382) -/

/-- The joins that can be performed are. -/
def State.runJoins (s : State) : State :=
  s.joins.foldl (fun s j => eventAfter (execQueueJoinPerform j.1 s) s) s
/-- The entries of a context in the transform queue of a core complete in order, whatever joins stand before them, and
its joins leave (R382; log 34). -/
def State.runXform (s : State) (c k : Nat) : State :=
  let mine (q : Queued XformEntry) : Bool := match q with
    | .join id => (match findKey s.joins id with
      | some [_, _, t] => (s.team t).ctx == c
      | _ => false)
    | .entry e => (e.writes.any fun w => s.groupCtx w.1 == c) || e.flags.any fun f => s.groupCtx f.1 == c
  let q := (s.core k).xform
  (q.filter mine).foldl (fun s q => match q with
    | .entry e => s.xformEnd e
    | .join _ => s) (s.modCore k fun x => { x with xform := q.filter fun e => !mine e })
/-- A tape's queue is drained (R363); one round may end a stall that has been answered. -/
def State.runTape (s : State) (g : Nat) : State :=
  repeatTimes ((s.group g).tapeQ.length + 1) (fun s => eventAfter (execTapeEntryPerform g s) s) s
/-- The reduction packets that a context's copies have sent arrive at their landing units (R382); one that is held there
for a later epoch is not landed, and its chunk stays sent (log 75). -/
def State.runPackets (s : State) (c : Nat) : State :=
  let mine (f : PacketFlight) : Bool := match f.sender with
    | some (core, q, id, _) => (SMap.look [] (s.core core).copy q).any fun e => match e with
      | .entry e => e.id == id && e.ctx == c
      | .join _ => false
    | none => false
  let ps := s.packets.filter mine
  ps.foldl (fun s p => s.arrivePacket p) { s with packets := s.packets.filter fun p => !mine p }
/-- The entries at the head of a core's transform queue, up to a join, complete. -/
def State.runHeads (s : State) (k : Nat) : State :=
  repeatTimes (s.core k).xform.length
    (fun s => eventAfter (execTransformEntryComplete { core := k, write := none } s) s) s
/-- Everything that the engines can perform for a context: windows, joins, transform entries, peers' answers and packets,
over and over until nothing is left that they can. -/
def State.runEngines (s : State) (c : Nat) : State :=
  let n := (s.pairs.map fun p => p.2.window.length).sum
  repeatTimes (3 * n + 2) (fun s =>
    let s := s.runWindows.runJoins
    let s := (s.cores.map (·.1)).foldl State.runHeads s
    (s.answerPeers c).runPackets c) s
/-- The engines of a context stand down (R382): once the transform entries behind joins that cannot be performed are
complete too, what waited for them goes on (log 34). -/
def State.standDown (s : State) (c : Nat) : State :=
  let s := s.runEngines c
  let s := (s.cores.map (·.1)).foldl (fun s k => s.runXform c k) s
  let s := s.runEngines c
  (s.ctxGroups c).foldl (fun s g => s.runTape g) s

/-! ### Write-down (R381 step 6) -/

/-- The lines of a level that hold a byte of a context. -/
def Level.linesOf (lv : Level) (c : Nat) : List Nat :=
  distinct ((lv.bytes.filter fun p => p.2.ctx == c).map fun p => p.1 / 64)
/-- Every dirty byte of a context goes down to its home, and its lines become absent. -/
def State.writeDownAll (s : State) (c : Nat) : State :=
  let s := (s.cores.map (·.1)).foldl (fun s k =>
    ((s.core k).level.linesOf c).foldl (fun s l => s.coreDown k l) s) s
  (s.clusters.map (·.1)).foldl (fun s k =>
    ((s.cluster k).level.linesOf c).foldl (fun s l => (s.clusterDown k l).dropClusterLine k l) s) s

/-! ### The save area (R384 to R388) -/

/-- A record: its 16-byte header, its contents, and zeros up to a multiple of 64 bytes (R384). -/
def saveRecord (kind team grp : Nat) (body : List Byte) : List Byte :=
  let len := roundUp (16 + body.length) 64
  leBytes 16 (kind + grp * 2 ^ 16 + team * 2 ^ 32 + len * 2 ^ 64) ++ body ++
    List.replicate (len - 16 - body.length) 0
/-- A 64-bit field. -/
def q64 (n : Nat) : List Byte := leBytes 8 n

/-- A stack entry: 256-bit header, mask, and the meets (R386). -/
def saveEntry (e : Entry) : List Byte :=
  let (k, bk, bn) := match e.kind with
    | .path => (0, 0, 0)
    | .reconv => (1, 0, 0)
    | .parked a b _ => (2, a, b)
  let rpc := (e.rpc.map (·.toNat)).getD (2 ^ 64 - 1)
  leBytes 32 (k + e.meet.length * 2 ^ 48 + bk * 2 ^ 66 + bn * 2 ^ 68 + e.pc.toNat * 2 ^ 128 + rpc * 2 ^ 192) ++
    leBytes 384 e.mask.toNat ++ e.meet.flatMap fun m => q64 m.1.toNat ++ leBytes 384 m.2.toNat

/-- The wait state of an issue group (R387). -/
def Wait.code : Wait → Nat
  | .none => 0
  | .brd _ => 1
  | .rpc => 2
  | .xl => 3
  | .bar _ _ _ => 4
  | .blocked => 5
  | .window => 5
  | .full => 5
/-- An issue-group record (R387). -/
def saveIg (g : Ig) : List Byte :=
  let (pc, c) := g.resumePoint
  let slots := (g.slots.zipIdx).foldl (fun m p => m + p.1.getD 63 * 2 ^ (6 * p.2)) 0
  leBytes 16 (c.toNat % 64 + (if g.claim then 5 else g.wait.code) * 2 ^ 8 + pc.toNat * 2 ^ 64) ++ leBytes 72 slots

/-- A register's block: its tag and its data (R388). -/
def saveBlock (v : Vec) : Nat × List Byte :=
  let w (l : Nat) : Word := v.getD l 0
  let d := w 1 - w 0
  let lanes := List.range 96
  if lanes.all fun l => w l == 0 then (0, [])
  else if lanes.all fun l => w l == w 0 then (1, leBytes 4 (w 0).toNat)
  else if lanes.all fun l => w l == w 0 + BitVec.ofNat 32 l * d then (2, leBytes 4 (w 0).toNat ++ leBytes 4 d.toNat)
  else (3, lanes.flatMap fun l => leBytes 4 (w l).toNat)
/-- The register blocks of a group: the tag array, then the data in register order (R388). -/
def saveRegs (x : Group) : List Byte :=
  let bs := (List.range (8 * x.gran)).map fun r => saveBlock (SMap.look Vec.zero x.v r)
  let tags := ((bs.map (·.1)).zipIdx).foldl (fun m p => m + p.1 * 4 ^ p.2) 0
  leBytes (roundUp (2 * x.gran) 8) tags ++ bs.flatMap (·.2)

/-- A binding-table entry (R32), and a directory entry (R53), as they are laid out. -/
def saveBind (b : Bind) : List Byte := leBytes 16 (1 + b.base * 2 + b.lines * 2 ^ 43 + b.obj * 2 ^ 69)
def saveDir (d : DirEntry) : List Byte :=
  q64 (d.tile.state + d.tile.fmt * 2 ^ 5 + d.tile.rank * 2 ^ 10 + (if d.pend then 2 ^ 16 else 0) + d.ngran * 2 ^ 32 +
    d.ghead * 2 ^ 37 + d.tslot * 2 ^ 48 + d.ctx * 2 ^ 56)

/-- An operand of a copy: its kind, its address, offset, handle or pattern, and the receivers or the peer. -/
def savePlace : Place → List Byte
  | .global a => q64 0 ++ q64 a
  | .scratch o => q64 1 ++ q64 o
  | .landing h p => q64 2 ++ q64 h.toNat ++ q64 (p.getD (2 ^ 64 - 1))
  | .receivers ts o => q64 3 ++ q64 o ++ q64 ts.length ++ ts.flatMap q64
  | .pattern w => q64 4 ++ q64 w.toNat
/-- A list with its length. -/
def saveList {α : Type} (f : α → List Byte) (l : List α) : List Byte := q64 l.length ++ l.flatMap f
/-- What a tile entry does, with the operands captured at issue (R320). -/
def saveJob : TileJob → List Byte
  | .ld a => q64 0 ++ q64 a
  | .st a => q64 1 ++ q64 a
  | .zero acc => q64 2 ++ q64 (if acc then 1 else 0)
  | .free => q64 3
  | .dense => q64 4
  | .cmpr => q64 5
  | .add => q64 6
  | .mul => q64 7
  | .gemm => q64 8
  | .lu => q64 9
  | .trsm => q64 10
  | .tr => q64 11
  | .round => q64 12
  | .scal a => q64 13 ++ q64 a
  | .mma clr a b k m wa wb idx la lb sa sb =>
    q64 14 ++ q64 (if clr then 1 else 0) ++ q64 a.code ++ q64 b.code ++ q64 k ++ q64 m ++ q64 la ++ q64 lb ++
      [wa, wb, idx, sa, sb].flatMap (saveList (saveList q64))
  | .badMma => q64 15
  | .join id => q64 16 ++ q64 id
/-- An uncommitted window entry, with slot numbers in place of directory entries (R385). -/
def saveWindow (slot : Nat → Nat) (e : WEntry) : List Byte :=
  q64 e.pc.toNat ++ q64 e.ty.code ++ q64 e.sel ++ q64 (slot e.td) ++ q64 (slot e.ta) ++ q64 (slot e.tb) ++ q64 (slot e.tc) ++
    q64 e.cw ++ q64 e.ceil ++ q64 e.mode ++ q64 e.tol.toNat ++ q64 (if e.held then 1 else 0) ++ q64 e.chunk ++ saveJob e.job
/-- An unfinished copy entry with its queue and the mask of the chunks landed (R382, R385). -/
def saveCopy (q : Nat) (e : CopyEntry) : List Byte :=
  q64 q ++ savePlace e.src ++ savePlace e.dst ++ q64 e.len ++ q64 e.first ++ q64 (e.map.getD (2 ^ 64 - 1)) ++
    q64 (e.batch.getD (2 ^ 64 - 1)) ++ q64 e.group ++ q64 e.landed.toNat ++ saveList (fun v => q64 v.1 ++ q64 v.2) e.events
/-- A lane's part of an operation: its operands, its place, and how far it has come (R381). -/
def saveLane (l : LaneAcc) : List Byte :=
  q64 l.lane ++ q64 l.addr ++ q64 l.cls ++ q64 (l.loc % 2 ^ 64) ++ q64 (l.loc / 2 ^ 64) ++ q64 (l.peer.getD (2 ^ 64 - 1)) ++
    q64 l.size ++ q64 l.a.toNat ++ q64 l.c.toNat ++ q64 ((if l.done then 1 else 0) + (if l.acked then 2 else 0)) ++
    saveList (fun b => [b]) l.data ++ saveList (fun p => q64 p.1 ++ [p.2]) l.got ++ saveList q64 l.psn ++ saveList q64 l.landed
/-- A held operation with its operands (R381, R385). -/
def saveOp (o : Op) : List Byte :=
  let kind := match o.kind with
    | .load => 0 | .store => 1 | .atomic => 2 | .acqLoad => 3 | .relStore => 4 | .relAdd => 5 | .push => 6 | .pop => 7
    | .gxctl r => 8 + 256 * r
    | .query => 9
  let bit (b : Bool) (n : Nat) : Nat := if b then 2 ^ n else 0
  q64 kind ++ q64 o.bank ++ q64 o.ty.code ++ q64 o.scope.code ++ q64 o.sel ++ q64 o.d ++ q64 o.cnt ++ q64 o.ac ++
    q64 (o.cf.getD 255) ++ q64 o.rc ++
    q64 (bit o.acq 0 + bit o.rel 1 + bit o.cv 2 + bit o.scratch 3 + bit o.counted 4 + bit o.outside 5) ++
    saveList saveLane o.lanes

/-- The context record (R385); a 64-bit field for each value whose width the rule does not give (log 35). -/
def State.saveContext (s : State) (c : Nat) : List Byte :=
  let x := s.ctx c
  let w (v : Word) : List Byte := leBytes 4 v.toNat
  let regions := (List.range 4).flatMap fun k =>
    let r := x.region k
    w r.addr ++ w r.len ++ w r.cfg ++ w r.stat
  saveRecord 1 0 0 (w x.pathBudget ++ w x.spawnTimer ++ w x.rankCeil ++ w x.rankMode ++ q64 x.rankTol.toNat ++
    w x.tileQuota ++ w x.tileTrap ++ regions ++ q64 x.preemptAt.toNat ++ q64 x.retired.toNat ++ w x.trigCtl ++
    ((List.range 256).flatMap fun i => match x.binds[i]? with
      | some b => saveBind b
      | none => List.replicate 16 0) ++
    (List.range 16).flatMap fun i => match findKey x.gates i with
      | some g => q64 g.word ++ q64 g.tape ++ q64 g.cap ++ q64 (if g.play then 2 else 1) ++ q64 g.chunk ++ q64 g.owed
      | none => List.replicate 48 0)
/-- The queues record. -/
def State.saveQueues (s : State) (c : Nat) : List Byte :=
  let x := s.ctx c
  let grid (g : Nat) : List Byte :=
    let y := s.grid g
    q64 y.krec.entry.toNat ++ q64 y.count ++ q64 y.arg.toNat ++ q64 y.seq ++ q64 y.placed ++ q64 y.ended
  let bins := s.cores.flatMap fun k => (k.2.bins.filter fun b => b.2.ctx == c).map fun b => (k.1, b.2)
  let bin (p : Nat × Bin) : List Byte :=
    q64 p.1 ++ q64 p.2.entry.toNat ++ q64 (s.clock.toNat - (p.2.threads.head?.map (·.clock)).getD 0) ++
      q64 p.2.threads.length ++ p.2.threads.flatMap fun t => leBytes 4 t.arg.toNat
  saveRecord 2 0 0 (((List.range 64).flatMap fun q => q64 (x.queue q).length ++ (x.queue q).flatMap grid) ++
    q64 bins.length ++ bins.flatMap bin)
/-- A FIFO bank record. -/
def saveFifo (p : Nat × Nat × List (LaneMask × Vec)) : List Byte :=
  saveRecord 5 0 0 (q64 p.1 ++ q64 p.2.1 ++ q64 p.2.2.length ++ p.2.2.flatMap fun e =>
    ((List.range 96).flatMap fun l => leBytes 4 (e.2.getD l 0).toNat) ++ leBytes 12 e.1.toNat ++ List.replicate 4 0)
/-- A role in a team record: the entry, path and issue-group counts, then the entries bottom first and the issue groups.
-/
def saveRole (x : Role) : List Byte :=
  q64 x.entries.length ++ q64 x.count ++ q64 x.igs.length ++ x.entries.reverse.flatMap saveEntry ++ x.igs.flatMap saveIg
/-- How many threads a mask holds. -/
def threadCount (m : ThreadMask) : Nat := (List.range 3072).foldl (fun n i => if m.getLsbD i then n + 1 else n) 0
/-- A team record (R385). -/
def State.saveTeam (s : State) (t : Nat) : List Byte :=
  let x := s.team t
  let a := s.alloc x.alloc
  let bars (m : SMap ThreadMask) : List Byte := (List.range 8).flatMap fun n => q64 (threadCount (SMap.look 0 m n))
  let (kind, place) := match x.place with
    | .core c => (0, c)
    | .pair p => (1, p)
  let dir := ((s.pair x.place.pairNo).dir.filter fun e => e.2.team == t).map (·.2)
  let win := (s.pair x.place.pairNo).window.filter fun e => e.team == t
  let slot (k : Nat) : Nat := ((s.pair x.place.pairNo).entry k).tslot
  let copies := s.cores.flatMap fun k => k.2.copy.flatMap fun q => q.2.filterMap fun e => match e with
    | .entry e => if e.team = t then some (q.1, e) else none
    | .join _ => none
  let size := a.size
  saveRecord 3 x.num 0 (q64 kind ++ q64 place ++ q64 x.place.clusterNo ++ q64 x.trapvec.toNat ++ q64 a.inb ++
    bars x.bars ++ ((List.range 4).flatMap fun r => bars (s.role (teamRole t r)).bars) ++ q64 x.krec.roles.length ++
    ((List.range x.krec.roles.length).flatMap fun r => saveRole (s.role (teamRole t r))) ++
    q64 dir.length ++ (dir.flatMap fun d => saveDir d ++ tileImage d.tile) ++
    saveList (saveWindow slot) win ++ saveList (fun p => saveCopy p.1 p.2) copies ++
    a.read 0 size ++ (List.range (size / 256)).map fun i => BitVec.ofNat 8 ((List.range 8).foldl (fun m b =>
      if a.poison.contains (8 * i + b) then m + 2 ^ b else m) 0))
/-- The CSRs of a group record (R385): 0x102, 0x300 to 0x308 and 0x501 to 0x507. -/
def groupCsrs : List Nat := 0x102 :: (List.range 9).map (0x300 + ·) ++ (List.range 7).map (0x501 + ·)
/-- A group record (R385). -/
def State.saveGroup (s : State) (t g : Nat) : List Byte :=
  let x := s.group g
  let w (v : Word) : List Byte := leBytes 4 v.toNat
  let claim := (s.core x.core).claims.find? fun c => c.group == g
  let ref := (s.role (teamRole t x.role)).igs.find? fun i => i.fault.isSome && i.homes.contains x.home
  let st := match claim with
    | some c => 2 + 256 * (8 * c.n)
    | none => if ref.isSome then 1 else 0
  saveRecord 4 (s.team t).num x.home (q64 x.gran ++ q64 st ++ ((List.range 128).flatMap fun i => w (s.readS g i)) ++
    (groupCsrs.flatMap fun n => w (s.readCsr g n)) ++
    ((List.range 16).flatMap fun i => q64 (SMap.look 0 x.ac i)) ++ q64 x.cb ++ q64 x.batches.length ++
    (x.batches.flatMap fun b => q64 b.1 ++ q64 b.2) ++ saveList saveOp x.held ++
    ((List.range 96).flatMap fun l => q64 (s.genState g l).toNat) ++ saveRegs x)

/-- The FIFO banks of a context: cluster, bank and entries. -/
def State.ctxFifos (s : State) (c : Nat) : List (Nat × Nat × List (LaneMask × Vec)) :=
  s.clusters.flatMap fun k => (k.2.banks.filter fun b => b.2.mode == 3 && b.2.ctl.toNat / 2 ^ 16 % 256 == c).map
    fun b => (k.1, b.1, b.2.fifo)
/-- The teams of a context in ascending team number, the older first among equals. -/
def State.teamOrder (s : State) (c : Nat) : List Nat :=
  let ts := s.ctxTeams c
  ts.foldl (fun l t =>
    let before := l.takeWhile fun u => decide ((s.team u).num ≤ (s.team t).num)
    before ++ t :: l.drop before.length) []
/-- A save area, record after record (R385). -/
def State.saveArea (s : State) (c : Nat) : List Byte :=
  s.saveContext c ++ s.saveQueues c ++ (s.ctxFifos c).flatMap saveFifo ++
    ((s.teamOrder c).flatMap fun t => s.saveTeam t ++ (s.teamGroups t).flatMap fun g => s.saveGroup t g) ++ saveRecord 6 0 0 []

/-- The save area written in the firmware's memory, under key slot 0 (R384), where firmware has room; none where it has
none (R124; logs 17, 20). -/
def State.writeArea (s : State) (c : Nat) : Option State :=
  let bs := s.saveArea c
  (s.fwRoom bs.length).map fun a =>
    (s.homeWrite 0 none ((bs.zipIdx).map fun b => (a + b.2, b.1))).modCtx c fun x => { x with area := (a, bs.length) }
/-- The save area read back, and whether a byte of it is poisoned. -/
def State.readArea (s : State) (c : Nat) : State × List Byte × Bool :=
  let (a, n) := (s.ctx c).area
  (List.range n).foldl (fun (acc : State × List Byte × Bool) i =>
    let (s, b, p) := acc.1.readHome 0 (a + i) .free
    (s, acc.2.1 ++ [b], acc.2.2 || p)) (s, [], false)

/-! ### The check of a save area (R384, R386, R387) -/

def num (bs : List Byte) (lo n : Nat) : Nat := ofLE ((bs.drop lo).take n)
/-- Bits of a field. -/
def bitsOf (v lo n : Nat) : Nat := v / 2 ^ lo % 2 ^ n

/-- Whether a stack entry's header is one that firmware writes (R386). -/
def entryOk (h : Nat) : Bool :=
  bitsOf h 0 2 != 3 && bitsOf h 66 2 != 3 && (bitsOf h 0 2 == 2 || (bitsOf h 66 2 == 0 && bitsOf h 68 3 == 0)) &&
    bitsOf h 2 46 == 0 && bitsOf h 71 57 == 0
/-- The stack entries at the head of some bytes; the bytes after them. -/
def entriesOk : Nat → List Byte → Option (List Byte)
  | 0, bs => some bs
  | n + 1, bs =>
    let h := num bs 0 32
    if entryOk h then entriesOk n (bs.drop (416 + 392 * bitsOf h 48 18)) else none
/-- Whether an issue-group record is one that firmware writes (R387). -/
def igOk (bs : List Byte) : Bool :=
  let h := num bs 0 16
  let m := num bs 16 72
  decide (bitsOf h 8 4 ≤ 5) && decide (bitsOf h 0 5 ≤ 16) && bitsOf h 6 2 == 0 && bitsOf h 12 52 == 0 &&
    (List.range 96).all fun l => decide (bitsOf m (6 * l) 6 < 32) || bitsOf m (6 * l) 6 == 63
def igsOk : Nat → List Byte → Option (List Byte)
  | 0, bs => some bs
  | n + 1, bs => if igOk bs then igsOk n (bs.drop 88) else none
/-- The roles of a team record. -/
def rolesOk : Nat → List Byte → Bool
  | 0, _ => true
  | n + 1, bs =>
    match entriesOk (num bs 0 8) (bs.drop 24) with
    | some rest => (match igsOk (num bs 16 8) rest with
      | some rest => rolesOk n rest
      | none => false)
    | none => false
/-- The first bytes of a team record's contents, up to its number of roles. -/
def teamPrefix : Nat := 40 + 40 * 8
/-- The records of a save area: known kinds, no reserved bit, and an end record last (R384). -/
def recordsOk : Nat → List Byte → Bool
  | 0, _ => false
  | n + 1, bs =>
    let h := num bs 0 16
    let kind := bitsOf h 0 8
    let len := bitsOf h 64 32
    let body := (bs.take len).drop 16
    decide (1 ≤ kind ∧ kind ≤ 6) && bitsOf h 8 8 == 0 && bitsOf h 96 32 == 0 && decide (64 ≤ len ∧ len % 64 = 0) &&
      (kind != 3 || rolesOk (num body teamPrefix 8) (body.drop (teamPrefix + 8))) &&
      (kind == 6 || recordsOk n (bs.drop len))
def areaOk (bs : List Byte) : Bool := recordsOk (bs.length / 64) bs

/-! ### Leaving the device (R381 step 7) -/

/-- A slot's directory entry as its slot number, and back (R385). -/
def Pair.slotOf (p : Pair) (team k : Nat) : Nat :=
  if (p.entry k).team = team then (p.entry k).tslot else 0
def Pair.entryOf (p : Pair) (team n : Nat) : Nat := (p.slot team n).getD 0
def WEntry.mapSlots (e : WEntry) (f : Nat → Nat) : WEntry :=
  { e with td := f e.td, ta := f e.ta, tb := f e.tb, tc := f e.tc }

/-- The context of a queued copy entry or join. -/
def State.queuedCtx (s : State) (e : Queued CopyEntry) : Nat := match e with
  | .entry e => e.ctx
  | .join id => (s.team (((findKey s.joins id).getD []).getD 2 0)).ctx
def State.queuedTeam (s : State) (e : Queued CopyEntry) : Nat := match e with
  | .entry e => e.team
  | .join id => ((findKey s.joins id).getD []).getD 2 0
/-- The copy queues of a core lose the entries of a context, which are saved. -/
def State.saveCopies (s : State) (c k : Nat) : State :=
  let all := (s.core k).copy.flatMap fun q => q.2.map fun e => (q.1, e)
  let mine := all.filter fun p => s.queuedCtx p.2 == c
  let rel (t : Nat) : Nat := match (s.team t).place with
    | .core _ => 0
    | .pair _ => k % 2
  let saved := mine.map fun (p : Nat × Queued CopyEntry) =>
    let t := s.queuedTeam p.2
    ({ team := t, rel := rel t, q := p.1, item := p.2 } : SavedCopy)
  (s.modCore k fun x => { x with copy := x.copy.map fun q => (q.1, q.2.filter fun e => s.queuedCtx e != c) }).modCtx c
    fun x => { x with savedCopies := x.savedCopies ++ saved }

/-- A pair loses a team's window entries and slots, which are saved. -/
def State.saveTiles (s : State) (t : Nat) : State :=
  let x := s.team t
  let p := x.place.pairNo
  let y := s.pair p
  let tiles := (y.dir.filter fun e => e.2.team == t).map fun (e : Nat × DirEntry) => (t, e.2.tslot, e.2.tile)
  let win := (y.window.filter fun e => e.team == t).map fun (e : WEntry) => e.mapSlots (y.slotOf t)
  (s.setPair p { y.dropTeam t with window := y.window.filter fun e => e.team != t }).modCtx x.ctx
    fun c => { c with savedTiles := c.savedTiles ++ tiles, savedWindow := c.savedWindow ++ win }

/-- An issue group as it is saved and comes back (R183, R387): one that waits at a meet, its RPC or a barrier as it
stands; any other at its resume point, from which it issues again under R236. One that waits in ms.rclaim issues it again
too, and waits for the claims that have kept their places (log 48). -/
def Ig.saved (g : Ig) : Ig :=
  if g.wait.counted || g.wait == .rpc then g
  else
    let p := g.resumePoint
    { g with pc := p.1, clause := none, acqDone := [], remote := [], claim := false,
             resume := if p.2.getLsbD 5 then some (p.2.toNat % 32) else none,
             wait := if p.2.getLsbD 5 then .none else g.wait }
/-- The home groups of a context's issue groups record where they stand before their next issue (R234); one at a meet or a
barrier has issued it. -/
def State.standGroups (s : State) (c : Nat) : State :=
  (s.ctxTeams c).foldl (fun s t => (List.range 4).foldl (fun s r =>
    ((s.role (teamRole t r)).igs.filter fun g => !g.wait.counted).foldl (fun s g =>
      (g.homes.map (teamGroup t)).foldl (fun s h => s.modGroup h fun x => x.stand g.resumePoint) s) s) s) s
/-- The blocked time of a context's roles is counted, and what is less than 1,024 clocks dropped (R383). -/
def State.stopTime (s : State) (c : Nat) : State :=
  (s.ctxTeams c).foldl (fun s t => (List.range 4).foldl (fun s r =>
    s.modRole (teamRole t r) fun x => { x.ticked s.clock.toNat with since := none }) s) s

/-- A team leaves the device: its granules, group slots, scratch and directory entries are freed. -/
def State.evict (s : State) (t : Nat) : State :=
  let s := s.saveTiles t
  let s := (s.teamGroups t).foldl (fun s g =>
    let s := if (s.group g).exited && !(s.group g).returned then s.giveGranules g else s
    let x := s.group g
    let s := if x.returned then s else s.modCore x.core fun k => { k with free := k.free + x.gran }
    s.setGroup g { x with resident := false }) s
  let s := (List.range 4).foldl (fun s r => s.modRole (teamRole t r) fun x => { x with igs := x.igs.map Ig.saved }) s
  (s.modAlloc (s.team t).alloc fun a => { a with granules := [] }).modTeam t fun x => { x with resident := false }

/-- Step 7 of R381 after the save area is written, and what freezes. -/
def State.depose (s : State) (c : Nat) : State :=
  let fifos := s.ctxFifos c
  let ended := (s.teams.filter fun p => p.2.ctx == c && p.2.ended).map (·.2.alloc)
  let claims := s.cores.flatMap fun k => k.2.claims.filter fun q => s.groupCtx q.group == c
  -- its requests have been answered, so what is left of it in the links' queues are its steps
  let steps := s.links.flatMap fun l => l.2.queue.filter (·.isOf c)
  let s := (s.cores.map (·.1)).foldl (fun s k => s.saveCopies c k) s
  let s := (s.ctxTeams c).foldl (fun s t => s.evict t) s
  let s := ended.foldl (fun (s : State) a => s.modAlloc a fun x => { x with granules := [] }) s
  let s := fifos.foldl (fun (s : State) f => s.modBank f.1 f.2.1 fun b =>
    { b with fifo := [], ctl := b.ctl &&& 0xFFFFFFFFFF00FFFF#64 }) s
  let s : State := { s with
    cores := s.cores.map fun k =>
      (k.1, { k.2 with claims := k.2.claims.filter fun q => !(claims.contains q) }),
    links := s.links.map fun l => (l.1, { l.2 with queue := l.2.queue.filter fun e => !e.isOf c }) }
  s.modCtx c fun x => { x with run := .saved, savedClock := s.clock.toNat, savedFifos := fifos, savedClaims := claims,
                               savedSteps := steps }

/-- The current path's entry stands where its first issue group does (R165, R386, R403). -/
def Role.stand (x : Role) : Role :=
  match x.path, x.igs with
  | some e, g :: _ => { x with entries := replaceTop x.entries [{ e with pc := g.resumePoint.1 }] }
  | _, _ => x

/-- What is reserved for the grids of a context is given up: its launch queues freeze (R187, R381; log 76). -/
def State.dropReserves (s : State) (c : Nat) : State :=
  { s with grids := s.grids.map fun g => if g.2.ctx = c then (g.1, { g.2 with reserve := [] }) else g }
/-- R381: the context is pre-empted; none where firmware has no room for its save area. -/
def State.preemptCtx (s : State) (c : Nat) : Option State :=
  let s := s.stopTime c
  let s := s.dropReserves c
  let s := (s.ctxGroups c).foldl (fun s g => s.cancelHeld g) s
  let s := s.performAll c
  let s := s.takeDue c
  let s := s.standDown c
  let s := s.writeDownAll c
  let s := (s.ctxTeams c).foldl (fun s t => (List.range 4).foldl (fun s r => s.modRole (teamRole t r) Role.stand) s) s
  ((s.standGroups c).writeArea c).map fun s => s.depose c

/-! ### Restore (R389) -/

/-- What a saved team needs (R188, R389). -/
def State.savedDemand (s : State) (t : Nat) : Demand :=
  { groups := (s.teamGroups t).map fun g => let x := s.group g; if x.returned then none else some x.gran,
    scratch := (s.scratchOf t).size / 4096, tiles := (s.team t).krec.tiles }
/-- The tile granules its images take. -/
def State.savedGranules (s : State) (t : Nat) : Nat :=
  (((s.ctx (s.team t).ctx).savedTiles.filter fun e => e.1 == t).map fun e => e.2.2.granules).sum
/-- Whether a place is of the kind a team was in, and in its FIFO bank's cluster if it has used one that was saved
(R389 step 3). -/
def State.sameKind (s : State) (t : Nat) (p : Placement) : Bool :=
  let x := s.team t
  let fifo := x.fifo && (s.ctx x.ctx).savedFifos.any fun f => f.1 == x.place.clusterNo
  (match x.place, p with
    | .core _, .core _ => true
    | .pair _, .pair _ => true
    | _, _ => false) && (!fifo || p.clusterNo == x.place.clusterNo)
/-- Places for saved teams, with the tile granules free on each pair; none when they cannot all fit at once (R389). A team
goes to the least loaded place that leaves the others room. -/
def State.replan (s : State) (m : Room) (free : Nat → Nat) : List Nat → Option (List (Nat × Placement))
  | [] => some []
  | t :: ts =>
    let d := s.savedDemand t
    let g := s.savedGranules t
    let ok := (everyCore ++ everyPair).filter fun p => s.sameKind t p && m.fits d p && decide (g ≤ free p.pairNo)
    let best := m.least ok
    (best.toList ++ ok.filter fun p => some p != best).findSome? fun p =>
      (State.replan s (m.take d p) (fun i => if i = p.pairNo then free i - g else free i) ts).map ((t, p) :: ·)
/-- Whether a saved FIFO bank can be attached again. -/
def State.fifoFree (s : State) (f : Nat × Nat × List (LaneMask × Vec)) : Bool :=
  let b := (s.cluster f.1).bank f.2.1
  match b.mode with
  | 3 => b.ctl.toNat / 2 ^ 16 % 256 == 0
  | 2 => (s.scratchHeld f.1).all fun g => g.1 != f.2.1
  | _ => true
/-- The device as the restore of a context may use it: no granules of a core where a claim waits, which comes first
(R163), and no scratch of a bank that becomes one of its FIFO banks (R389 step 2). -/
def State.unclaimed (s : State) (c : Nat) : Room :=
  let fifos := (s.ctx c).savedFifos
  let m := { s.taken with banks := s.clusters.map fun p =>
    (p.1, 64 * (p.2.scratchBanks.filter fun b => !fifos.any fun f => f.1 == p.1 && f.2.1 == b).length) }
  s.cores.foldl (fun (m : Room) p =>
    if p.2.claims.isEmpty then m else { m with grans := SMap.ins m.grans p.1 Config.poolGranules }) m
/-- The places a saved context would take; none when it cannot be placed at once. -/
def State.restorePlan (s : State) (c : Nat) : Option (List (Nat × Placement)) :=
  if (s.ctx c).savedFifos.all s.fifoFree then s.replan (s.unclaimed c) (fun p => (s.pair p).freeGranules) (s.teamOrder c) else none

/-- A saved team at its new place: steps 3 and 4 of R389. -/
def State.reopen (s : State) (t : Nat) (p : Placement) : State :=
  let d := s.savedDemand t
  let x := s.team t
  let pool := s.scratchFree p.clusterNo
  let s := s.modAlloc x.alloc fun a => { a with cluster := p.clusterNo, granules := pool.take d.scratch }
  let s := ((p.split d.groups.length).zip (s.teamGroups t)).foldl (fun (s : State) q =>
    let y := s.group q.2
    let s := s.setGroup q.2 { y with core := q.1, resident := true }
    if y.returned then s else s.modCore q.1 fun k => { k with free := k.free - y.gran }) s
  let dir := (s.pair p.pairNo).dir
  let free := (List.range Config.dirEntries).filter fun i => !SMap.has dir i
  let tiles := (s.ctx x.ctx).savedTiles.filter fun e => e.1 == t
  let s := s.modPair p.pairNo fun y =>
    let y := { y with dir := (free.take d.tiles).zipIdx.foldl (fun m e =>
      SMap.ins m e.1 { ctx := x.ctx, team := t, tslot := e.2 }) y.dir }
    tiles.foldl (fun (y : Pair) e =>
      let k := y.entryOf t e.2.1
      let y := y.resize k e.2.2.granules
      { y with dir := SMap.ins y.dir k { y.entry k with tile := e.2.2 } }) y
  s.modTeam t fun x => { x with place := p, resident := true }

/-- A join of a resident team names the core that holds its copy and transform queues there: the leader's or the
follower's, as before. -/
def State.seatJoin (s : State) (j : List Nat) : List Nat :=
  let t := j.getD 2 0
  let core := match (s.team t).place with
    | .core k => k
    | .pair p => 2 * p + j.getD 1 0 % 2
  [j.getD 0 0, core, t]
/-- Steps 6 and 7 of R389: held operations, window entries and copy entries come back, with the joins of the context's
teams. Entries come back to a window that is full: R389 judges no window's room, so that this is the model's choice (log
88). -/
def State.reenter (s : State) (c : Nat) : State :=
  let x := s.ctx c
  let s := (s.ctxGroups c).foldl (fun s g => s.modGroup g fun y =>
    y.held.foldl (fun (y : Group) o => y.addOp o) { y with held := [] }) s
  let s := x.savedWindow.foldl (fun (s : State) e =>
    let p := (s.team e.team).place.pairNo
    let y := s.pair p
    let e := e.mapSlots (y.entryOf e.team)
    s.setPair p { y with
      window := y.window ++ [e],
      dir := y.dir.map fun d => if e.writes.contains d.1 then (d.1, { d.2 with pend := true }) else d }) s
  let core (e : SavedCopy) (s : State) : Nat := match (s.team e.team).place with
    | .core k => k
    | .pair p => 2 * p + e.rel
  let s := x.savedCopies.foldl (fun (s : State) e =>
    let k := core e s
    s.modCore k fun y => { y with copy := SMap.ins y.copy e.q (SMap.look [] y.copy e.q ++ [e.item]) }) s
  let ts := s.ctxTeams c
  let s : State := { s with joins := s.joins.map fun j => if ts.contains (j.2.getD 2 0) then (j.1, s.seatJoin j.2) else j }
  s.modCtx c fun y => { y with savedWindow := [], savedCopies := [], savedTiles := [] }

/-- The accepted steps of a context's regions that are not complete return to their links' queues in the order in which
they stood there (R100, R156). -/
def State.thawSteps (s : State) (c : Nat) : State :=
  (s.ctx c).savedSteps.foldl (fun (s : State) e => match e with
    | .step _ k n _ =>
      let r := (s.ctx c).region k
      if (List.range r.steps).any fun i => (r.round + i) % 2 ^ 16 == n then
        s.modLink (r.linkOf (n % 2 == 0)) fun l => { l with queue := l.queue ++ [e] }
      else s
    | .req _ => s) s

/-- R389: the context is restored at the places of a plan. -/
def State.restore (s : State) (c : Nat) (plan : List (Nat × Placement)) : State :=
  let x := s.ctx c
  let s := x.savedFifos.foldl (fun (s : State) f =>
    let s := if ((s.cluster f.1).bank f.2.1).mode = 1 then s.drainBank f.1 f.2.1 else s
    s.modBank f.1 f.2.1 fun b => { b with
      mode := 3, busy := false, zero := false, fifo := f.2.2,
      ctl := (b.ctl &&& 0xFFFFFFFFFF00FFFC#64) ||| BitVec.ofNat 64 (3 + c * 2 ^ 16) }) s
  let s := plan.foldl (fun s q => s.reopen q.1 q.2) s
  let s := s.reenter c
  let s := s.thawSteps c
  let s := x.savedClaims.foldl (fun (s : State) q => s.modCore (s.group q.group).core fun k =>
    { k with claims := k.claims ++ [q] }) s
  let gone := s.clock.toNat - x.savedClock
  let s : State := { s with cores := s.cores.map fun k => (k.1, { k.2 with bins := k.2.bins.map fun b =>
    if b.2.ctx = c then (b.1, { b.2 with threads := b.2.threads.map fun t => { t with clock := t.clock + gone } }) else b }) }
  let s := s.modCtx c fun y => { y with
    run := .running, savedFifos := [], savedClaims := [], savedSteps := [], area := (0, 0) }
  plan.foldl (fun s q => s.checkClaims q.1) s

/-- PREEMPT_TRIGGER (R375): the context is pre-empted at the boundary after the instruction whose count reached PREEMPTAT,
and resumed unless the trigger asked to hold. Where firmware has no room for the save area it runs on (log 17). -/
def execPreemptTrigger (ctx : Nat) (s : State) : Out :=
  let x := s.ctx ctx
  .next (if x.run == .running && x.due then
    let u := s.modCtx ctx fun c => { c with trigCtl := 0, due := false }
    match u.preemptCtx ctx with
    | none => u
    | some t =>
      if x.hold then t
      else match t.restorePlan ctx with
        | some p => t.restore ctx p
        | none => t
  else s)

end Sys2Proof.Machine
end

