-- ==== Sys2Proof/Machine/HostLink.lean ====
section
/-! DEFINITION. What the host, the peers and the surroundings do to the device: host accesses through CXL and BAR2
(spec/01_address_spaces.md R36 to R42, spec/03_ordering_machine.md R104), peer requests (R39, R119, R120), the error queue
and host DMA (spec/16_host_firmware_start.md R391, R394), and the governor (R395). -/

namespace Sys2Proof.Machine

/-! ### Host memory accesses (R42, R44, R80, R104) -/

/-- The extent that holds `n` bytes at a device physical address. -/
def State.extentAt (s : State) (a n : Nat) : Option Extent :=
  s.extents.find? fun e => decide (e.base ≤ a ∧ a + n ≤ e.base + e.len)
/-- Bytes read at home, and whether one is poisoned. -/
def State.readHomes (s : State) (slot a n : Nat) (dr : DramRead) : State × List Byte × Bool :=
  (List.range n).foldl (fun (acc : State × List Byte × Bool) i =>
    let (s, bs, p) := acc
    let (s, b, q) := s.readHome slot (a + i) dr
    (s, bs ++ [b], p || q)) (s, [], false)
/-- Bytes with the addresses they go to. -/
def placed (a : Nat) (bs : List Byte) : List (Nat × Byte) := (bs.zipIdx).map fun p => (a + p.2, p.1)

/-- HOST_CXL_MEM_READ (R42, R44, R104): the home value under the key of the extent's context; poisoned when that key is
being or has been destroyed, and an error outside every assigned extent and before READY. -/
def execHostCxlMemRead (addr n : Nat) (dr : DramRead) (s : State) : Out :=
  .next (match (if s.mbstatReady then s.extentAt addr n else none) with
    | none => { s with hostRead := some (addr, [], true) }
    | some e =>
      if (s.keySlot e.ctx).blocked then { s with hostRead := some (addr, List.replicate n 0, true) }
      else
        let (s, bs, p) := s.readHomes e.ctx addr n dr
        { s with hostRead := some (addr, bs, p) })

/-- HOST_CXL_MEM_WRITE (R42, R44, R45, R80): a home write; discarded and counted under a blocked key. -/
def execHostCxlMemWrite (addr : Nat) (data : List Byte) (s : State) : Out :=
  .next (match (if s.mbstatReady then s.extentAt addr data.length else none) with
    | none => { s with hostRead := some (addr, [], true) }
    | some e =>
      let k := s.keySlot e.ctx
      if k.blocked then { s with keys := SMap.ins s.keys e.ctx { k with discarded := k.discarded + 1 } }
      else s.homeWrite e.ctx none (placed addr data))

/-- HOST_CXL_SNOOP (R104): a host write to a line of host memory; a cluster point that holds the line gives up its dirty
bytes first, as for a home write. -/
def execHostCxlSnoop (addr : Nat) (data : List Byte) (s : State) : Out :=
  .next (s.homeWrite 0 none (placed (2 ^ 64 + addr) data))

/-- The bits of a host window entry that are not reserved: CTX, WE, RE and LEN, HBASE, and V (R36). -/
def windowMask : BitVec 128 := BitVec.ofNat 128 (2 ^ 116 - 2 ^ 80 + (2 ^ 64 - 2 ^ 16) + 1)
/-- HOST_WINDOW_WRITE (R36); a reserved bit stays 0 (R4). -/
def execHostWindowWrite (n : Nat) (e : BitVec 128) (s : State) : Out :=
  .next (if n < 4096 then { s with window := SMap.put 0 s.window n (e &&& windowMask) } else s)

/-- Whether an access to host memory is outstanding, or held over a pre-emption with the place it has (R38, R389). -/
def State.hostBusy (s : State) : Bool :=
  s.groups.any fun g => (g.2.ops ++ g.2.held).any fun o => !o.scratch && o.lanes.any fun a => !a.done && a.cls == 5
/-- HOST_WINDOW_READBACK (R38): returns once no access admitted under the old value is outstanding. -/
def execHostWindowReadback (n : Nat) (s : State) : Out :=
  .next (if n < 4096 ∧ !s.hostBusy then
    { s with hostRead := some (16 * n, leBytes 16 (SMap.look 0 s.window n).toNat, false) } else s)

/-! ### Peers (R39, R119, R120) -/

/-- Whether the export table lets a peer read or write `n` bytes. -/
def State.exported (s : State) (peer a n : Nat) (rd wr : Bool) : Bool :=
  s.exports.any fun e => e.peer == peer && decide (e.base ≤ a ∧ a + n ≤ e.base + e.len) && (e.rd || !rd) && (e.wr || !wr)
/-- A request that the check refuses: an error record here, and no data (R39). -/
def State.refusePeer (s : State) (peer a : Nat) : State :=
  { s.postError (errRecord 5 0 peer a) with hostRead := some (a, [], true) }
/-- Whether a request may be performed: the export table lets it, and its line's key slot is not blocked (R39, R44). -/
def State.peerOk (s : State) (peer a n : Nat) (rd wr : Bool) : Bool :=
  s.exported peer a n rd wr && !(s.keySlot (s.ownerAt a)).blocked

/-- The operation of a peer's atomic: 0 atom, 1 cas, 2 fatom, 3 red (R119, R300). -/
def peerCode (kind sel : Nat) (ty : Ty) : AtomCode :=
  if kind = 1 then 7 else if kind = 2 ∨ ty.isFloat then 8 + sel else sel

/-- PEER_REQUEST (R39, R112, R119, R120, R361, R362): a peer's access is checked and performed at home in one step, an
atomic's read after the recall of R89; an atomic that an order gate holds waits. -/
def execPeerRequest (req : PeerReq) (s : State) : Out :=
  .next (match req with
    | .read p a n =>
      if s.peerOk p a n true false then
        let (s, bs, bad) := s.readHomes (s.ownerAt a) a n .free
        { s with hostRead := some (a, bs, bad) }
      else s.refusePeer p a
    | .write p a data =>
      if s.peerOk p a data.length false true then s.homeWrite (s.ownerAt a) none (placed a data) else s.refusePeer p a
    | .atomic p a kind sel ty v c =>
      let n := if ty.is64 then 8 else 4
      if a % n ≠ 0 ∨ !(s.peerOk p a n true true) then s.refusePeer p a
      else if s.gateHolds a n 0xFFFFF then s
      else
        let c0 := s.ownerAt a
        let (s, back) := s.recallBytes c0 ((List.range n).map (a + ·))
        let (s, bs, bad) := s.readHomes c0 a n .free
        let w := atomResult (peerCode kind sel ty) ty (ofLE bs) v.toNat c.toNat
        let s := if bad then s else s.applyHome c0 back (placed a (leBytes n w))
        let s := if s.gated a n then s.gateStep a n 0xFFFFF 0 0 else s
        { s with hostRead := some (a, bs, bad) })

/-- EXPORT_TABLE_GRANT (R39): firmware fills the export table and a context's routes from the fabric manager's grants; a
grant of nothing takes an export away. -/
def execExportTableGrant (g : Grant) (s : State) : Out :=
  .next (match g with
    | .exportRange p b n rd wr =>
      let rest := s.exports.filter fun e => !(e.peer == p && e.base == b && e.len == n)
      { s with exports := if rd || wr then { peer := p, base := b, len := n, rd := rd, wr := wr } :: rest else rest }
    | .route c p l =>
      { s with routes := (c, p, l) :: s.routes.filter fun r => !(r.1 == c && r.2.1 == p) })

/-! ### Queues to the host (R391, R394) -/

/-- EQTAIL_WRITE (R391): a record number, 0 to 255. -/
def execEqtailWrite (value : DWord) (s : State) : Out :=
  .next (if value.toNat < 256 then { s with eqTail := value } else s)

/-- HOST_DMA_RING_WRITE (R89, R99, R394): the record at the head of the host DMA queue enters its context's fault ring;
how its 32 bytes are laid out is not given (log 31). -/
def execHostDmaRingWrite (ctx : Nat) (s : State) : Out :=
  .next (match s.dmaQ with
    | .entry d :: rest =>
      if d.ctx = ctx then
        let c := s.ctx ctx
        let n := s.draws
        let s := { s with dmaQ := rest, draws := n + 1 }
        let s := s.homeWrite 0 none
          (placed (2 ^ 64 + c.ringAddr + 32 * d.idx) ((List.range 32).map (Config.ringByte n)))
        (s.modCtx ctx fun c => { c with ring := SMap.ins c.ring d.idx (d.record, false) }).bumpMsix (2 + ctx % 30)
      else s
    | _ => s)

/-! ### The governor (R395) -/

/-- THERMAL_THROTTLE: the arithmetic clock stands some steps of 50 MHz below its full rate, at 500 MHz or above. -/
def execThermalThrottle (steps : Nat) (s : State) : Out := .next { s with clockMHz := max 500 (1000 - 50 * steps) }
/-- THERMAL_CUTOFF: power is removed at 110 °C. -/
def execThermalCutoff (s : State) : Out := .next { s with powered := false }
/-- COOLANT_FLOW_LOW: below the minimum flow the governor holds the module at 1.5 kW. -/
def execCoolantFlowLow (low : Bool) (s : State) : Out := .next { s with coolantLow := low }
/-- The limit that the governor holds the module's power at, in W. -/
def State.powerLimit (s : State) : Nat := min (min 3000 s.powerCap) (if s.coolantLow then 1500 else 3000)

end Sys2Proof.Machine
end

