-- ==== Sys2Proof/Machine/Mailbox.lean ====
section
/-! DEFINITION. The mailbox and the firmware commands that do not touch page tables
(spec/16_host_firmware_start.md R391 to R393, R395 to R397): contexts, keys (spec/01_address_spaces.md R41 to R46),
launches, pre-emption, flushes, banks, attestation, the power cap, and the device's reset. Operands stand one to a 64-bit
word of MBCMDBUF, in the order of R393's table, after the header word; a command runs with the words that
stood there when it was submitted (log 40). -/

namespace Sys2Proof.Machine

/-! ### Submitting and completing (R391, R392) -/

/-- A word of the command. -/
def State.cmdWord (s : State) (i : Nat) : Nat := (SMap.look 0 s.mbTaken i).toNat
def State.cmdCode (s : State) : Nat := s.cmdWord 0 % 2 ^ 8
def State.cmdCtx (s : State) : Nat := s.cmdWord 0 / 2 ^ 16 % 2 ^ 16
/-- Words written from the start of a mailbox buffer, which holds 4 KiB. -/
def fillBuffer (b : SMap DWord) (ws : List DWord) : SMap DWord :=
  ((ws.take 512).zipIdx).foldl (fun m p => SMap.put 0 m p.2 p.1) b

/-- A command completes with a status and results: SEQ advances, and MSI-X vector 1 is raised (R392). -/
def State.complete (s : State) (status : Nat) (results : List DWord) : State :=
  { s with mbrsp := fillBuffer s.mbrsp (BitVec.ofNat 64 status :: results), mbstatSeq := s.mbstatSeq + 1,
           mbstatLast := BitVec.ofNat 8 status, mbstatBusy := false, mbMoved := false }.bumpMsix 1

/-- MBDOOR_WRITE (R391 to R393, R397): the host has written some words from the start of MBCMDBUF, and a write of 1
submits the command that stands there; the doorbell is ignored while BUSY and before READY. An unassigned code completes
at once. -/
def execMbdoorWrite (value : DWord) (words : List DWord) (s : State) : Out :=
  let s := { s with mbcmd := fillBuffer s.mbcmd words }
  .next (if value ≠ 1 ∨ !s.mbstatReady ∨ s.mbstatBusy then s
  else
    let s := { s with mbTaken := s.mbcmd }
    if s.cmdCode = 0 ∨ 0x11 < s.cmdCode then s.complete 1 []
    else { s with mbstatBusy := true, mbMoved := false })

/-- The command in progress has code `code`: `f` carries it out for its context. A context that does not exist, when one
is needed, completes it with STATUS 0x03; a keyless one, when a key is needed, with 0x05 (R46). -/
def State.command (s : State) (code : Nat) (needs keyed : Bool) (f : State → Nat → State) : Out :=
  .next (if s.mbstatReady && s.mbstatBusy && s.cmdCode == code then
    let c := s.cmdCtx
    if needs && !SMap.has s.ctxs c then s.complete 3 []
    else if keyed && (s.ctx c).keyless then s.complete 5 []
    else f s c
  else s)

/-! ### Contexts and keys (R41 to R46) -/

/-- CTX_CREATE (R41, R393). -/
def execCtxCreate (s : State) : Out :=
  s.command 0x01 false false fun s _ =>
    let size := s.cmdWord 3
    let okSize := (List.range 9).any fun i => size == 4096 * 2 ^ i
    if 2 ≤ s.cmdWord 1 ∨ !okSize then s.complete 2 []
    else
      match (List.range 255).find? fun i => !SMap.has s.ctxs (i + 1) with
      | none => s.complete 5 []
      | some i =>
        match s.newTable with
        | none => s.complete 5 []
        | some (root, s) =>
          let n := i + 1
          let x : Ctx := { test := s.cmdWord 1 == 1, root := root, ringAddr := s.cmdWord 2, ringSize := size }
          let s := { s.setCtx n x with
            keysMade := s.keysMade + 1,
            keys := SMap.ins s.keys n { key := Config.newKey s.keysMade, blocked := false } }
          s.complete 0 [BitVec.ofNat 64 n]

/-- Whether an engine queue holds something of a context; of a saved one the joins and the tape entries are saved with its
groups (R382). -/
def State.engineHas (s : State) (c : Nat) : Bool :=
  (s.cores.any fun k =>
    (k.2.copy.any fun q => q.2.any fun e => s.queuedCtx e == c) ||
    k.2.xform.any fun e => match e with
      | .entry e => (e.writes.any fun w => s.groupCtx w.1 == c) || e.flags.any fun f => s.groupCtx f.1 == c
      | .join _ => false) ||
  (s.pairs.any fun p => p.2.window.any fun e => e.ctx == c) ||
  (s.stks.any fun k => k.2.nmu.any fun e => match e with
    | .entry e => e.ctx == c
    | .join _ => false) ||
  (s.joins.any fun j => (s.team (j.2.getD 2 0)).ctx == c && (s.team (j.2.getD 2 0)).resident) ||
  (s.dmaQ.any fun e => match e with
    | .entry d => d.ctx == c
    | .join _ => false) ||
  (s.links.any fun l => l.2.queue.any (·.isOf c)) ||
  ((s.ctxGroups c).any fun g => (s.group g).resident && !(s.group g).tapeIdle)

/-- R44: the key of slot `c` is destroyed; answers the dirty lines dropped and the host writes discarded. -/
def State.destroyKey (s : State) (c : Nat) : Nat × Nat × State :=
  let k := s.keySlot c
  let s := { s with keys := SMap.ins s.keys c { k with blocked := true } }
  let s := (s.cores.map (·.1)).foldl (fun (s : State) i => s.modCore i fun x =>
    { x with level := (x.level.linesOf c).foldl Level.drop x.level }) s
  let s := (s.clusters.map (·.1)).foldl (fun (s : State) i =>
    ((s.cluster i).level.linesOf c).foldl (fun s l => (s.dropClusterLine i l).clearPresent l i) s) s
  let mine := s.msc.filter fun m => m.2.slot == c
  let dirty := (mine.filter (·.2.dirty)).length
  let s := mine.foldl (fun s m => s.loseLine m.1) s
  (dirty, k.discarded, { s with keys := SMap.ins s.keys c { k with key := 0, blocked := true } })

/-- KEY_DESTROY (R44, R46): only with no resident team and no engine entry; the context then stands keyless. For one that
is already keyless there is no key left to destroy, and the counts are 0 (log 56). What is reserved for its grids stays
reserved, which R187 leaves open: the model's choice (log 89). -/
def execKeyDestroy (s : State) : Out :=
  s.command 0x06 true false fun s c =>
    if ((s.ctxTeams c).any fun t => (s.team t).resident) || s.engineHas c then s.complete 4 []
    else if (s.ctx c).keyless then s.complete 0 [0, 0]
    else
      let (d, h, s) := s.destroyKey c
      (s.modCtx c fun x => { x with keyless := true }).complete 0 [BitVec.ofNat 64 d, BitVec.ofNat 64 h]

/-! ### Stalled engine entries end (R27) -/

/-- A tile entry whose translation was declined (R320). -/
def WEntry.decline (e : WEntry) : WEntry :=
  match e.job with
  | .ld _ => { e with stalled := none, started := true, asked := [], loaded := some (none, cwFault) }
  | _ => { e with stalled := none, failed := true }
/-- The entry at the head of an NMU queue ends with translation status (R141, R364). -/
def State.nmuDecline (s : State) (k : Nat) (e : NmuEntry) : State :=
  let e := { e with stalled := none }
  match e.job, e.desc with
  | .upd _, some d =>
    let a := (Upd.of (ofLE d)).status
    (match s.wordFail e.ctx a wordClass with
      | none => s.nmuEnd k e a (e.status ||| BitVec.ofNat 64 (2 ^ 37))
      | some _ => (s.nmuRecord e 4).nmuPop k)
  | _, _ => (s.nmuRecord e 4).nmuPop k
/-- A landing buffer loses the packet that stalled it, with an engine record. -/
def State.bufDecline (s : State) (k b : Nat) (x : LandBuf) : State :=
  let s := (s.postFault x.ctx (.engine 2 (s.team x.team).num (s.group x.group).home)).2
  let s := s.setBuf k b { x with stalled := none, held := x.held.drop 1 }
  let s := match x.held with
    | p :: _ => s.landed p
    | [] => s
  s.takeHeld k b (x.held.length + 1)

/-- The copy entries of a context, in the queues and saved. -/
def State.copyEntries (s : State) (c : Nat) : List CopyEntry :=
  let items := (s.cores.flatMap fun k => k.2.copy.flatMap (·.2)) ++ (s.ctx c).savedCopies.map (·.item)
  items.filterMap fun x => match x with
    | .entry e => if e.ctx = c then some e else none
    | .join _ => none
/-- The copy entries of a context that stall on a fault that `hit` picks: that chunk lands unwritten (R318). -/
def State.endCopies (s : State) (c : Nat) (hit : Nat → Bool) : State :=
  (s.copyEntries c).foldl (fun (s : State) e => match e.stalled with
    | some (i, ch, off) =>
      if hit i then
        (s.modCopyEntry e.id fun x => ({ x with stalled := none } : CopyEntry).note off 2).landAnywhere e.id ch
      else s
    | none => s) s
/-- Every engine entry of a context that stalls on a fault that `hit` picks ends with translation status (R27). -/
def State.endStalled (s : State) (c : Nat) (hit : Nat → Bool) : State :=
  let on (x : Option Nat) : Bool := match x with
    | some i => hit i
    | none => false
  let s := s.endCopies c hit
  let fix := fun (e : WEntry) => if e.ctx = c ∧ on e.stalled then e.decline else e
  let s : State := { s with pairs := s.pairs.map fun p => (p.1, { p.2 with window := p.2.window.map fix }) }
  let s := s.modCtx c fun x => { x with savedWindow := x.savedWindow.map fix }
  let s := (s.stks.map (·.1)).foldl (fun (s : State) (k : Nat) =>
    let s := match (s.stack k).nmu with
      | .entry e :: _ => if e.ctx = c ∧ on e.stalled then s.nmuDecline k e else s
      | _ => s
    (s.stack k).bufs.foldl (fun (s : State) (b : Nat × LandBuf) => if b.2.ctx = c ∧ on b.2.stalled then s.bufDecline k b.1 b.2 else s) s) s
  let s := (List.range 4).foldl (fun (s : State) k =>
    if on ((s.ctx c).region k).stalled then
      s.modRegion c k fun r => { r with stalled := none, skip := true }
    else s) s
  (s.ctxGroups c).foldl (fun (s : State) g =>
    if on (s.group g).tapeStall then
      s.modGroup g fun x => { x.setErr with tapeStall := none, tapeQ := x.tapeQ.drop 1 }
    else s) s

/-- A context and all that is its own is gone; its extents are assigned to no context any more, so that a host access
there ends with an error (log 56). -/
def State.eraseCtx (s : State) (c : Nat) : State :=
  let ts := (s.teams.filter fun p => p.2.ctx == c)
  let gone (t : Nat) : Bool := ts.any fun p => p.1 == t
  { s with
    ctxs := SMap.erase s.ctxs c,
    grids := s.grids.filter fun p => p.2.ctx != c,
    teams := s.teams.filter fun p => p.2.ctx != c,
    roles := s.roles.filter fun p => !gone (roleTeam p.1),
    groups := s.groups.filter fun p => !gone p.2.team,
    allocs := s.allocs.filter fun p => !(ts.any fun t => t.2.alloc == p.1),
    cores := s.cores.map fun k => (k.1, { k.2 with bins := k.2.bins.filter fun b => b.2.ctx != c }),
    stks := s.stks.map fun k => (k.1, { k.2 with bufs := k.2.bufs.filter fun b => b.2.ctx != c }),
    routes := s.routes.filter fun r => r.1 != c,
    extents := s.extents.filter fun e => e.ctx != c }

/-- CTX_DESTROY (R379, R393): every team is terminated without a record; the command goes on once its teams have ended and
every engine queue of the context is empty. Then R30 and R44 apply, unless the context is keyless. -/
def execCtxDestroy (s : State) : Out :=
  s.command 0x02 true false fun s c =>
    let live := (s.ctx c).run == .running
    let s := if live then (s.ctxTeams c).foldl (fun s t => (s.terminate t 0 0 false).dropHeld t) s else s
    let s := s.endStalled c fun _ => true
    if (live && !(s.ctxTeams c).isEmpty) || s.engineHas c then s
    else
      let (d, h, s) := if (s.ctx c).keyless then (0, 0, s) else s.destroyKey c
      (s.eraseCtx c).complete 0 [BitVec.ofNat 64 d, BitVec.ofNat 64 h]

/-! ### Launch, pre-emption, triggers (R185, R375, R381, R389) -/

/-- LAUNCH (R185, R393): a root grid enters a launch queue. -/
def execLaunch (s : State) : Out :=
  s.command 0x08 true true fun s c =>
    let entry := s.cmdWord 1
    let count := s.cmdWord 2
    let arg := s.cmdWord 3
    let q := s.cmdWord 4
    match (s.ctx c).kernel (BitVec.ofNat 64 entry) with
    | none => s.complete 2 []
    | some k =>
      if count = 0 ∨ 2 ^ 32 ≤ count ∨ 2 ^ 48 ≤ arg ∨ 64 ≤ q then s.complete 2 []
      else if queueLen ≤ ((s.ctx c).queue q).length then s.complete 5 []
      else
        (s.enqueue { ctx := c, q := q, krec := k, count := count, arg := BitVec.ofNat 64 arg, root := true }).complete 0 []

/-- PREEMPT (R381, R393). -/
def execPreempt (s : State) : Out :=
  s.command 0x09 true false fun s c =>
    if (s.ctx c).run = .saved then s.complete 5 []
    else match s.preemptCtx c with
      | some t => t.complete 0 []
      | none => s.complete 5 []

/-- RESUME (R384, R389, R393). -/
def execResumeCtx (s : State) : Out :=
  s.command 0x0A true true fun s c =>
    if (s.ctx c).run = .running then s.complete 5 []
    else
      let (s, bs, bad) := s.readArea c
      if bad || !areaOk bs then s.complete 7 []
      else match s.restorePlan c with
        | some p => (s.restore c p).complete 0 []
        | none => s.complete 5 []

/-- TEST_TRIGGER (R375, R393). -/
def execTestTrigger (s : State) : Out :=
  s.command 0x0B true true fun s c =>
    if !(s.ctx c).test then s.complete 5 []
    else if 2 ≤ s.cmdWord 2 then s.complete 2 []
    else
      (s.modCtx c fun x => { x with preemptAt := BitVec.ofNat 64 (s.cmdWord 1), trigCtl := x.trigCtl ||| 1,
                                    hold := s.cmdWord 2 == 1 }).complete 0 []

/-! ### Flush (R157, R393) -/

/-- One dirty memory-side line is written back to DRAM, or lost where its two attempts fail, with a record of kind 0x4. -/
def State.writeBackLine (failed : List Nat) (acc : State × List Nat) (l : Nat) : State × List Nat :=
  match findKey acc.1.msc l with
  | some m =>
    if !m.dirty then acc
    else if failed.contains l then ((acc.1.loseLine l).postError (errRecord 4 m.slot 0 (64 * l)), acc.2 ++ [l])
    else
      let s := if m.valid = allValid then acc.1 else acc.1.fetchLine m.slot l .free
      (s.storeDram l ((findKey s.msc l).getD m), acc.2)
  | none => acc
/-- Dirty memory-side lines are written back to DRAM; answers the lines lost (R157 step 3). -/
def State.writeBack (s : State) (lines failed : List Nat) : State × List Nat :=
  lines.foldl (State.writeBackLine failed) (s, [])

/-- FLUSH (R393). -/
def execFlush (failed : List Nat) (s : State) : Out :=
  s.command 0x0E true true fun s c =>
    let s := s.writeDownAll c
    let (s, lost) := s.writeBack ((s.msc.filter fun m => m.2.slot == c).map (·.1)) failed
    s.complete 0 [BitVec.ofNat 64 lost.length]

/-! ### Banks (R66 to R69) -/

/-- Whether a bank may leave its effective mode (R68). -/
def State.bankFree (s : State) (c b : Nat) : Bool :=
  let x := (s.cluster c).bank b
  match x.mode with
  | 2 => (s.scratchHeld c).all fun g => g.1 != b
  | 3 => x.fifo.isEmpty && s.groups.all fun g => clusterOf g.2.core != c || g.2.ops.all fun o =>
      !((o.kind == .push || o.kind == .pop) && o.bank == b)
  | _ => true
/-- A write of BANKCTL: whether it is taken (R68, R69). One that leaves MODE as it is, of PIN or CTX alone, keeps REFUSED:
that only a write with another MODE is the next MODE write of R68 is the model's choice (log 79). -/
def State.bankWrite (s : State) (c b : Nat) (v : DWord) : State × Bool :=
  let x := (s.cluster c).bank b
  let m := v.toNat % 4
  if m = x.ctl.toNat % 4 then (s.modBank c b fun x => { x with ctl := v }, true)
  else if !s.bankFree c b then (s.modBank c b fun x => { x with refused := true }, false)
  else if x.mode = 1 then (s.modBank c b fun x => { x with ctl := v, refused := false, busy := true }, true)
  else (s.modBank c b fun x => { x with ctl := v, refused := false, mode := m, zero := decide (2 ≤ m), fifo := [] }, true)

/-- BANK (R66, R68, R393). -/
def execBankSet (s : State) : Out :=
  s.command 0x0F false false fun s c =>
    let v := BitVec.ofNat 64 (s.cmdWord 3)
    if c ≠ 0 ∧ !SMap.has s.ctxs c then s.complete 3 []
    else if Config.nCluster ≤ s.cmdWord 1 ∨ Config.nBank ≤ s.cmdWord 2 ∨ v &&& 0xFFFFFFFFFF00FFF4#64 ≠ 0 then s.complete 2 []
    else
      let (s, ok) := s.bankWrite (s.cmdWord 1) (s.cmdWord 2) v
      s.complete (if ok then 0 else 5) []

/-! ### Attestation and power (R395, R396) -/

/-- A byte string of `n` bytes. -/
def exactly (n : Nat) (bs : List Byte) : List Byte := (List.range n).map fun i => bs.getD i 0
/-- The report of R396. -/
def State.report (s : State) (nonce : List Byte) (c : Nat) : List Byte :=
  let x := s.ctx c
  let images := if c = 0 then [] else exactly 64 (Config.sha512 x.imageDigests.flatten)
  let who := s.devnum.toNat + c * 2 ^ 32 + (if c ≠ 0 && x.test then 2 ^ 48 else 0)
  let body := nonce ++ exactly 64 Config.romDigest ++ exactly 64 Config.patchDigest ++ exactly 64 images ++
    leBytes 8 who ++ leBytes 8 (if c = 0 then 0 else x.imageDigests.length)
  body ++ exactly 64 (Config.attestSign (Config.sha512 body))
/-- ATTEST (R393, R396). -/
def execAttest (s : State) : Out :=
  s.command 0x10 false false fun s _ =>
    let c := s.cmdWord 5
    if c ≠ 0 ∧ !SMap.has s.ctxs c then s.complete 3 []
    else
      let nonce := (List.range 4).flatMap fun i => leBytes 8 (s.cmdWord (i + 1))
      let bs := s.report nonce c ++ Config.certificates
      s.complete 0 ((chop 8 ((bs.length + 7) / 8) bs).map fun w => BitVec.ofNat 64 (ofLE w))
/-- POWERCAP (R395). -/
def execPowercap (s : State) : Out :=
  s.command 0x11 false false fun s _ => ({ s with powerCap := s.cmdWord 1 } : State).complete 0 []

/-! ### Start (R397) -/

/-- DEVICE_RESET (R397): the steps from the check of the ROM to READY. DRAM keeps what it holds outside the reserved
range; whatever the caches held is lost. A link whose partner does not answer shows it by LINK_FAILURE (log 19). -/
def execDeviceReset (s : State) : Out :=
  .next { State.reset with
    agenda := [], draws := s.draws, nextUid := s.nextUid, powered := s.powered,
    hostMem := s.hostMem, owned := s.owned, dram := s.dram.filter fun d => decide (64 * d.1 < Config.fwBase),
    keysMade := s.keysMade + 1,
    keys := SMap.ins [] 0 { key := Config.newKey s.keysMade, blocked := false },
    links := (List.range Config.nLink).map fun i => (i, { trained := true }),
    devnum := Config.devNum, mbstatReady := true }

end Sys2Proof.Machine
end

