-- ==== Sys2Proof/Machine/Image.lean ====
section
/-! DEFINITION. The Lyner Object Format as LOAD_IMAGE reads it (spec/10_assembly_and_objects.md R246 to R254, R256): an
image's sections and records, with the checks that refuse the whole of it. -/

namespace Sys2Proof.Machine

/-- `n` bytes of a file from an offset, as a number. -/
def fileNum (f : List Byte) (off n : Nat) : Nat := ofLE ((f.drop off).take n)
/-- Bits `lo` up, `n` of them. -/
def fld (v lo n : Nat) : Nat := v / 2 ^ lo % 2 ^ n

/-- A section header (R247). -/
structure Section where
  name : Nat
  typ : Nat
  flags : Nat
  align : Nat
  addr : Nat
  off : Nat
  size : Nat
  link : Nat
  info : Nat
  reserved : Bool
  deriving DecidableEq, Repr, Inhabited

def readSection (f : List Byte) (off : Nat) : Section :=
  let v := fileNum f off 64
  { name := fld v 0 32, typ := fld v 32 8, flags := fld v 40 8, align := fld v 48 8, addr := fld v 64 64, off := fld v 128 64,
    size := fld v 192 64, link := fld v 256 16, info := fld v 272 16,
    reserved := fld v 56 8 != 0 || fld v 288 224 != 0 || decide (8 ≤ fld v 40 8) }
/-- A section's bytes in the file. -/
def Section.bytes (x : Section) (f : List Byte) : List Byte := (f.drop x.off).take x.size
/-- Whether a section has contents in the file. -/
def Section.inFile (x : Section) : Bool := x.typ != 0 && x.typ != 4
/-- Whether the runtime maps it: LOAD. -/
def Section.loads (x : Section) : Bool := x.flags % 2 == 1
/-- R247: its type and flags, its bounds and its alignment; a line section's INFO names a code section (R253; log 77). -/
def Section.ok (x : Section) (len : Nat) : Bool :=
  decide (x.typ ≤ 13) && !x.reserved && (if x.inFile then decide (x.off + x.size ≤ len) else x.off == 0) &&
    (match x.typ with
      | 1 => x.flags == 5
      | 2 => x.flags == 3
      | 3 => x.flags == 1
      | 4 => x.flags == 3
      | _ => !x.loads) &&
    (x.typ == 0 || decide (2 ≤ x.align ∧ x.align ≤ 16)) && (x.typ == 7 || x.typ == 12 || x.info == 0) &&
    (!x.loads || (x.addr % 2 ^ x.align == 0 && (x.typ != 1 || x.addr % 32 == 0) && decide (x.addr + x.size ≤ 2 ^ 48)))

/-- The type of the section that a number names. -/
def typeAt (ss : List Section) (i : Nat) : Nat := (ss[i]?.map (·.typ)).getD 0
/-- R247, R253: the section names a strtab or a symtab by LINK where its type says so, the patched section or a code
section by INFO, and its name in the strtab of the null section. -/
def Section.linked (x : Section) (ss : List Section) : Bool :=
  let names := ss[(ss.head?.map (·.link)).getD 0]?
  (match x.typ with
    | 0 => true
    | 5 => typeAt ss x.link == 6
    | 7 => typeAt ss x.link == 5 && decide (x.info < ss.length)
    | 12 => typeAt ss x.link == 5 && (x.info == 0 || typeAt ss x.info == 1)
    | t => !(decide (8 ≤ t ∧ t ≤ 11)) || typeAt ss x.link == 5) &&
    (match names with
      | some y => (y.typ == 6 && decide (x.name < y.size)) || x.typ == 0
      | none => x.typ == 0)

/-- Entries of `n` bytes in a section. -/
def entriesOf (bs : List Byte) (n : Nat) : List Nat := (List.range (bs.length / n)).map fun i => fileNum bs (n * i) n

/-- A symbol entry (R248): its value and kind; none when it breaks the rule or, in a linked image, is undefined (R256). -/
def symbolOf (v : Nat) : Option (Nat × Nat) :=
  if fld v 152 8 ≤ 3 ∧ fld v 144 8 ≤ 1 ∧ fld v 160 32 = 0 then some (fld v 32 64, fld v 152 8) else none
/-- A name in a strtab. -/
def nameIn (strtab : List Byte) (off : Nat) : List Byte := (strtab.drop off).takeWhile (· != 0)
/-- The names of the global symbols of an image. -/
def globalNames (f : List Byte) (ss : List Section) : List (List Byte) :=
  ss.flatMap fun x =>
    if x.typ = 5 then
      let strtab := (ss[x.link]?.map fun y => y.bytes f).getD []
      ((entriesOf (x.bytes f) 24).filter fun v => fld v 144 8 == 1).map fun v => nameIn strtab (fld v 0 32)
    else []
/-- No member stands twice. -/
def onceEach {α : Type} [BEq α] : List α → Bool
  | [] => true
  | a :: t => !t.contains a && onceEach t
/-- The entries of the symtab that a section names by LINK. -/
def Section.symbols (x : Section) (f : List Byte) (ss : List Section) : List Nat := match ss[x.link]? with
  | some y => if y.typ = 5 then entriesOf (y.bytes f) 24 else []
  | none => []

/-- Whether a number fits a signed field of `n` bits. -/
def fitsSigned (n : Nat) (x : Int) : Bool := decide (-(2 ^ (n - 1)) ≤ x ∧ x < 2 ^ (n - 1))
/-- Whether an instruction whose first bytes are `w` has IMM32, or OFF24 (R220, R224). -/
def hasImm32 (w : Nat) : Bool := [0x03, 0x06, 0x0C, 0x13, 0x17].contains (fld w 2 6)
def hasOff24 (w : Nat) : Bool := [0x0D, 0x12, 0x14, 0x16].contains (fld w 2 6) || (fld w 2 6 == 0x0E && fld w 0 2 == 2)
/-- What a relocation patches, by its TYPE. -/
inductive Patched where
  | data (bytes : Nat)
  | instr (has : Nat → Bool)
/-- A relocation's item, with the column 'lylink rejects when' of R249 for `v`, which is S + A, at `p` and with S's
section at `start`. -/
def relocRule (typ : Nat) (v p start : Int) : Option (Patched × Bool) :=
  let branch (n : Nat) : Option (Patched × Bool) :=
    some (.instr fun w => fld w 2 6 == 0x0B, (v - p) % 4 == 0 && fitsSigned n ((v - p) / 4))
  let copy : Option (Patched × Bool) := some (.instr fun w => fld w 2 6 == 0x10, fitsSigned 24 (v - start))
  match typ with
  | 1 => some (.data 8, true)
  | 2 => some (.data 4, decide (0 ≤ v ∧ v < 2 ^ 32))
  | 3 => some (.instr hasImm32, true)
  | 4 => some (.instr hasImm32, true)
  | 5 => some (.instr hasOff24, fitsSigned 24 (v - start))
  | 6 => branch 20
  | 7 => branch 19
  | 8 => copy
  | 9 => copy
  | _ => none
/-- A relocation entry of section `x` passes R249: its reserved bits, its symbol, its item, which lies in the section that
INFO names, and its value. -/
def relocOk (f : List Byte) (ss : List Section) (x : Section) (e : Nat) : Bool :=
  match ss[x.info]?, (x.symbols f ss)[fld e 64 32]? with
  | some y, some sym =>
    let off := fld e 0 64
    let start := (ss[fld sym 128 16]?.map (·.addr)).getD 0
    let add : Int := (BitVec.ofNat 64 (fld e 128 64)).toInt
    let w := fileNum (y.bytes f) off 4
    fld e 112 16 == 0 && y.inFile &&
      (match relocRule (fld e 96 16) (fld sym 32 64 + add) (y.addr + off) start with
        | some (.data n, ok) => ok && decide (off + n ≤ y.size)
        | some (.instr has, ok) => ok && has w && decide (off + 8 + 4 * fld w 0 2 ≤ y.size)
        | none => false)
  | _, _ => false

/-- A role entry (R250); none for a broken limit. -/
def roleOf (v : Nat) : Option KRole :=
  let g := fld v 0 6
  let r := fld v 16 9
  let sc := fld v 32 24
  if fld v 6 10 = 0 ∧ fld v 25 7 = 0 ∧ fld v 56 40 = 0 ∧ 1 ≤ g ∧ g ≤ 32 ∧ 8 ≤ r ∧ r ≤ 384 ∧ r % 8 = 0 ∧ sc ≤ 8388608 then
    some { groups := g, regs := r, share := sc }
  else none
/-- A kernel record (R250), given its section's symbols; none for a broken limit. -/
def kernelOf (syms : List Nat) (v : Nat) : Option KRec :=
  let n := fld v 32 8
  let roles := (List.range n).map fun i => roleOf (fld v (128 + 96 * i) 96)
  let rest := (List.range 4).all fun i => decide (i < n) || fld v (128 + 96 * i) 96 == 0
  let entry := (syms[fld v 0 32]?).bind symbolOf
  match entry with
  | some (a, 3) =>
    let rs := roles.filterMap id
    let k : KRec := { entry := BitVec.ofNat 64 a, coop := fld v 40 1 == 1, tiles := fld v 48 9, args := fld v 64 13,
                      roles := rs }
    if 1 ≤ n ∧ n ≤ 4 ∧ roles.all Option.isSome ∧ rest ∧ k.size ≤ 32 ∧ k.tiles ≤ 256 ∧ k.args ≤ 4096 ∧
        fld v 41 7 = 0 ∧ fld v 57 7 = 0 ∧ fld v 77 51 = 0 then some k
    else none
  | _ => none

/-- A bind, gossip or tape record (R251) as its kernel's number and content; none for a broken limit. -/
def bindRec (v : Nat) : Option (Nat × DWord × Nat × DWord) :=
  let l := fld v 128 32
  if fld v 176 80 = 0 ∧ 1 ≤ l ∧ l ≤ 67108863 ∧ fld v 0 6 = 0 ∧ fld v 64 3 = 0 then
    some (fld v 160 16, BitVec.ofNat 64 (fld v 0 64), l, BitVec.ofNat 64 (fld v 64 64))
  else none
def gossipRec (v : Nat) : Option (Nat × DWord × Nat × Nat × Word × Nat) :=
  let n := fld v 128 32
  if fld v 176 80 = 0 ∧ 1 ≤ n ∧ n ≤ 0x08000000 ∧ fld v 64 22 = 0 ∧ fld v 122 6 = 0 ∧ fld v 120 2 ≤ 3 ∧ fld v 86 2 ≤ 2 ∧
      fld v 88 2 = 0 ∧ fld v 0 16 = 0 then
    some (fld v 160 16, BitVec.ofNat 64 (fld v 0 64), n, fld v 120 2, BitVec.ofNat 32 (fld v 88 32), fld v 86 2)
  else none
def tapeRec (v : Nat) : Option (Nat × DWord × Word × Word) :=
  let b := fld v 64 32
  if fld v 144 112 = 0 ∧ b ≠ 0 ∧ b % 65536 = 0 ∧ fld v 0 16 = 0 then
    some (fld v 128 16, BitVec.ofNat 64 (fld v 0 64), BitVec.ofNat 32 b, BitVec.ofNat 32 (fld v 96 32))
  else none
/-- Every member, or none if one is missing. -/
def allSome {α : Type} : List (Option α) → Option (List α)
  | [] => some []
  | none :: _ => none
  | some a :: t => (allSome t).map (a :: ·)

/-- A line section (R253): its file names, then rows of ascending offset, each of which names one of its files. -/
def lineOk (bs : List Byte) : Bool :=
  let n := fileNum bs 0 4
  let h := 4 + 4 * n
  let rows := entriesOf (bs.drop h) 16
  decide (h ≤ bs.length) && (bs.length - h) % 16 == 0 &&
    (rows.all fun r => fld r 96 32 == 0 && decide (1 ≤ fld r 32 16 ∧ fld r 32 16 ≤ n)) &&
    (rows.zip (rows.drop 1)).all fun p => decide (fld p.1 0 32 ≤ fld p.2 0 32)

/-- No two records of one kernel break R33, name one region, or are both tape records (R256). -/
def recordsFit (k : KRec) (tapes : Nat) : Bool :=
  let regions := k.gossips.map fun g => g.2.2.1
  decide (tapes ≤ 1) && (distinct regions).length == regions.length && (({} : Ctx).bindAll k.binds).isSome

/-- The kernel section whose records those of section `j` name by index: of the sections with the same symtab the last
before it, or else the first (R251; log 77). -/
def ownerOf (ss : List Section) (j : Nat) : Option Nat :=
  let link := (ss[j]?.map (·.link)).getD 0
  let own := (ss.zipIdx.filter fun (p : Section × Nat) => p.1.typ == 8 && p.1.link == link).map (·.2)
  ((own.filter fun i => decide (i < j)).getLast?).orElse fun _ => own.head?
/-- The records of type `t`, each of `n` bytes, with the kernel each names: its section and its index there; none when a
check fails. -/
def recordsOf {α : Type} (f : List Byte) (ss : List Section) (t n : Nat) (rd : Nat → Option (Nat × α)) :
    Option (List ((Nat × Nat) × α)) :=
  allSome (ss.zipIdx.flatMap fun (p : Section × Nat) =>
    if p.1.typ = t then (entriesOf (p.1.bytes f) n).map fun v =>
      match ownerOf ss p.2, rd v with
      | some o, some r => some ((o, r.1), r.2)
      | _, _ => none
    else [])
/-- The kernel records of an image with their bind, gossip and tape records; none when a check fails. -/
def imageKernels (f : List Byte) (ss : List Section) : Option (List KRec) :=
  let kernels := ss.zipIdx.flatMap fun (p : Section × Nat) =>
    if p.1.typ = 8 then (entriesOf (p.1.bytes f) 64).zipIdx.map fun v =>
      (kernelOf (p.1.symbols f ss) v.1).map fun k => ((p.2, v.2), k)
    else []
  match allSome kernels, recordsOf f ss 9 32 bindRec, recordsOf f ss 10 32 gossipRec, recordsOf f ss 11 32 tapeRec with
  | some ks, some bs, some gs, some ts =>
    let out := ks.map fun p =>
      let tapes := ts.filter fun t => t.1 == p.1
      ({ p.2 with binds := (bs.filter fun b => b.1 == p.1).map (·.2),
                  gossips := (gs.filter fun g => g.1 == p.1).map (·.2),
                  tape := tapes.head?.map (·.2) }, tapes.length)
    let named := (bs.map (·.1) ++ gs.map (·.1) ++ ts.map (·.1)).all (ks.map (·.1)).contains
    if named && out.all fun p => recordsFit p.1 p.2 then some (out.map (·.1)) else none
  | _, _, _, _ => none

/-- Two LOAD sections with different FLAGS share no 64 KiB page (R256, R393). -/
def pagesApart (ss : List Section) : Bool :=
  let ls := ss.filter fun x => x.loads && x.size != 0
  ls.all fun a => ls.all fun b => a.flags == b.flags ||
    decide ((a.addr + a.size - 1) / 65536 < b.addr / 65536) || decide ((b.addr + b.size - 1) / 65536 < a.addr / 65536)

/-- LOAD sections stand at their addresses in the order of the file, and one whose FLAGS differ from those of the LOAD
section before it starts on a 64 KiB boundary (R256). -/
def inPlace : List Section → Bool
  | a :: b :: t =>
    decide (a.addr + a.size ≤ b.addr) && (a.flags == b.flags || b.addr % 65536 == 0) && inPlace (b :: t)
  | _ => true

/-- A linked image: its sections and kernels; none when R246 to R253 or R256 refuse it. -/
def readImageFile (f : List Byte) : Option (List Section × List KRec) :=
  let h := fileNum f 0 64
  let n := fld h 48 16
  let sh := fld h 64 64
  if f.length < 64 ∨ fld h 0 32 ≠ 0x00464F4C ∨ fld h 32 16 ≠ 1 ∨ fld h 130 382 ≠ 0 ∨ fld h 128 1 ≠ 1 ∨ n = 0 ∨ sh % 8 ≠ 0 ∨
      f.length < sh + 64 * n then none
  else
    let ss := (List.range n).map fun i => readSection f (sh + 64 * i)
    let sigs := (ss.filter fun x => x.typ == 13).length
    let sized := ss.all fun x => match x.typ with
      | 5 => x.size % 24 == 0 && (entriesOf (x.bytes f) 24).all fun v => (symbolOf v).isSome
      | 7 => x.size % 24 == 0 && (entriesOf (x.bytes f) 24).all (relocOk f ss x)
      | 8 => x.size % 64 == 0
      | 9 => x.size % 32 == 0
      | 10 => x.size % 32 == 0
      | 11 => x.size % 32 == 0
      | 12 => lineOk (x.bytes f)
      | 13 => x.size == 128 && (x.bytes f).drop 96 == List.replicate 32 0
      | _ => true
    if (ss.head?.map (·.typ)) = some 0 ∧ ss.all (fun x => x.ok f.length) ∧ ss.all (fun x => x.linked ss) ∧ sized ∧
        sigs = fld h 129 1 ∧ pagesApart ss ∧ inPlace (ss.filter Section.loads) ∧ onceEach (globalNames f ss) then
      (imageKernels f ss).map fun ks => (ss, ks)
    else none

/-- The signature of a signed image passes: over the digest of the file with the section's bytes zero (R254). -/
def signatureOk (f : List Byte) (ss : List Section) : Bool :=
  match ss.find? fun x => x.typ == 13 with
  | none => false
  | some x =>
    let sig := x.bytes f
    let blank := f.take x.off ++ List.replicate 128 0 ++ f.drop (x.off + 128)
    Config.ed25519Verify (sig.take 32) (Config.sha512 blank) ((sig.drop 32).take 64)

/-- The pages of a LOAD section (R393). -/
def Section.pages (x : Section) : List Nat :=
  if x.size = 0 then []
  else (List.range ((x.addr + x.size - 1) / 65536 + 1 - x.addr / 65536)).map fun i => 65536 * (x.addr / 65536 + i)

end Sys2Proof.Machine
end

