-- ==== Sys2Proof/Machine/Mapping.lean ====
section
/-! DEFINITION. The firmware commands that touch page tables and extents (spec/16_host_firmware_start.md R393, R394): MAP,
UNMAP and DECLINE (spec/01_address_spaces.md R14 to R19, R26, R27, R30, R43), LOAD_IMAGE
(spec/10_assembly_and_objects.md R246 to R256), and dynamic capacity (R42, spec/05_memory_beyond_the_core.md R157). -/

namespace Sys2Proof.Machine

/-! ### Tables (R15 to R19) -/

/-- Where the entry of level `want` for `va` stands, below a table of level `lvl`, with the tables made on the way; or the
STATUS of the command: 0x02 where a leaf of a larger page stands in the way, 0x05 where firmware has no room for a table.
-/
def State.openEntry (s : State) (va want : Nat) : Nat → Nat → Except Nat (Nat × State)
  | lvl, tab =>
    let a := tab + 8 * (va / 2 ^ levelShift lvl % 2 ^ levelBits lvl)
    if lvl ≤ want then .ok (a, s)
    else
      match lvl with
      | 0 => .ok (a, s)
      | n + 1 =>
        let e := SMap.look 0 s.ptab a
        if isPointer e then State.openEntry s va want n (nextTable e)
        else if isLeaf e then .error 2
        else
          match s.newTable with
          | some (t, s) => State.openEntry (s.setPte a (BitVec.ofNat 64 (t + 1))) va want n t
          | none => .error 5

/-- The level of a page size (R14). -/
def sizeLevel (size : Nat) : Option Nat :=
  if size = 0x10000 then some 0 else if size = 0x200000 then some 1 else if size = 0x40000000 then some 2 else none

/-- The leaf of a MAP (R17): `perms` holds RD, WR and EX from bit 0 up. -/
def leafOf (frame cls perms win : Nat) : DWord :=
  BitVec.ofNat 64 (3 + perms % 8 * 4 + cls % 8 * 2 ^ 6 + frame / 65536 % 2 ^ 36 * 2 ^ 16 + win % 2 ^ 12 * 2 ^ 52)

/-- A place for a leaf: its address, with tables made; or the STATUS of the command, 0x02 when the range overlaps a valid
leaf of another size. A pointer whose tables hold no leaf makes way, and its tables are free (R393). -/
def State.leafPlace (s : State) (c va lvl : Nat) : Except Nat (Nat × State) :=
  match s.openEntry va lvl 3 (s.ctx c).root with
  | .error n => .error n
  | .ok (a, s) =>
    let e := SMap.look 0 s.ptab a
    if isPointer e then
      match lvl with
      | 0 => .error 2
      | n + 1 => if (leaves s.ptab n (nextTable e)).isEmpty then .ok (a, s) else .error 2
    else .ok (a, s)

/-! ### Frames (R43, R124) -/

/-- A level with the lines that a predicate picks. -/
def Level.keep (lv : Level) (on : Nat → Bool) : Level :=
  { lv with bytes := lv.bytes.filter fun p => on (p.1 / 64), valid := lv.valid.filter fun n => on (n / 2),
            poison := lv.poison.filter fun n => on (n / 2), ways := lv.ways.filter fun p => on p.1 }
/-- Every line of a frame is zero, and no level holds a byte of it, under the key of context `c`, which owns it (R43). -/
def State.zeroFrame (s : State) (c base size : Nat) : State :=
  let out (line : Nat) : Bool := !decide (base ≤ 64 * line ∧ 64 * line < base + size)
  let outByte (k : Nat) : Bool := !decide (base ≤ k ∧ k < base + size)
  { s with
    mem := s.mem.filter fun p => outByte p.1,
    homePoison := s.homePoison.filter fun n => outByte (32 * n),
    msc := s.msc.filter fun p => out p.1,
    dram := s.dram.filter fun p => out p.1,
    presence := s.presence.filter fun p => out p.1,
    cores := s.cores.map fun x => (x.1, { x.2 with level := x.2.level.keep fun l => out (untaggedLine l) }),
    clusters := s.clusters.map fun x => (x.1, { x.2 with
      level := x.2.level.keep out,
      lines := x.2.lines.filter fun p => out p.1,
      newest := x.2.newest.filter fun p => out p.2,
      nextOut := x.2.nextOut.filter fun p => out p.2 }),
    owned := { ctx := c, base := base, len := size, key := some (s.key c) } ::
      s.owned.filter fun e => !decide (base ≤ e.base ∧ e.base + e.len ≤ base + size) }
/-- A fresh frame for context `c` (R43). -/
def State.freshFrame (s : State) (c size : Nat) : Option (Nat × State) :=
  (s.freeFrame size).map fun a => (a, s.zeroFrame c a size)

/-! ### Outstanding accesses (R30) -/

/-- Whether an access that a predicate picks is not performed yet; one held over a pre-emption keeps the place that it was
translated to (R30, R389; log 36). -/
def State.outstanding (s : State) (c : Nat) (pick : LaneAcc → Bool) : Bool :=
  ((s.ctxGroups c).any fun g => ((s.group g).ops ++ (s.group g).held).any fun o =>
    !o.scratch && (match o.kind with
      | .push => false
      | .pop => false
      | .gxctl _ => false
      | _ => o.lanes.any fun a => !(a.done && a.acked) && pick a)) ||
  s.requests.any fun w => w.ctx == c && pick w.acc
/-- Whether an access to a page is not performed yet. -/
def State.pageBusy (s : State) (c va size : Nat) : Bool :=
  s.outstanding c fun a => decide (va ≤ a.addr ∧ a.addr < va + size)

/-! ### Fault ids (R26, R394) -/

/-- The record of a fault that is not answered: its address. -/
def State.openFault (s : State) (c i : Nat) : Option Nat :=
  match findKey (s.ctx c).ring i with
  | some (.access va _ _ _, false) => some va
  | _ => none
def State.answer (s : State) (c i : Nat) : State :=
  s.modCtx c fun x => { x with ring := x.ring.map fun p => if p.1 = i then (i, p.2.1, true) else p }

/-- MAP (R18, R26, R30, R43, R124, R393, R394). The operand 0 for a fault id is no fault id, but for an unanswered record
at ring entry 0 whose address the page holds (log 41). Where a leaf is replaced, the command completes once no access to
its page is outstanding (R30). -/
def execMapPage (s : State) : Out :=
  s.command 0x03 true true fun s c =>
    let va := s.cmdWord 1
    let size := s.cmdWord 2
    if s.mbMoved then (if s.pageBusy c va size then s else s.complete 0 [])
    else
    let cls := s.cmdWord 4
    let win := s.cmdWord 6
    let fid := s.cmdWord 7
    let fresh : Bool := s.cmdWord 3 == 2 ^ 64 - 1
    let zero : Bool := match s.openFault c 0 with
      | some a => decide (va ≤ a ∧ a < va + size)
      | none => false
    let idOk : Bool := fid == 0 || (s.openFault c fid).isSome
    match sizeLevel size with
    | none => s.complete 2 []
    | some lvl =>
      let f := if fresh then 0 else s.cmdWord 3
      if va % size ≠ 0 ∨ 2 ^ 48 < va + size ∨ 8 ≤ cls ∨ 8 ≤ s.cmdWord 5 ∨ 2 ^ 12 ≤ win ∨ !idOk ∨ (fresh ∧ (cls = 5 ∨ cls = 6)) ∨
          2 ^ 52 ≤ f ∨ f % 65536 ≠ 0 ∨ leafMalformed lvl (leafOf f cls (s.cmdWord 5) win) ∨
          (cls ≤ 4 ∧ overlaps f size Config.fwBase (Config.memBytes - Config.fwBase)) then
        s.complete 2 []
      else
        match s.leafPlace c va lvl with
        | .error n => s.complete n []
        | .ok (a, t) =>
          let old := isLeaf (SMap.look 0 t.ptab a)
          match (if fresh then t.freshFrame c size
            else some (f, if cls ≤ 4 then { t with owned := { ctx := c, base := f, len := size } :: t.owned } else t)) with
          | none => s.complete 5 []
          | some (f, t) =>
            let t := t.setPte a (leafOf f cls (s.cmdWord 5) win)
            let t := if fid ≠ 0 then t.answer c fid else if zero then t.answer c 0 else t
            if old && s.pageBusy c va size then { t with mbMoved := true } else t.complete 0 []

/-- UNMAP (R30, R393): the leaf is cleared, and the command completes once no access to its page is outstanding. -/
def execUnmap (s : State) : Out :=
  s.command 0x04 true false fun s c =>
    let va := s.cmdWord 1
    let size := s.cmdWord 2
    if s.mbMoved then (if s.pageBusy c va size then s else s.complete 0 [])
    else
    match sizeLevel size with
    | none => s.complete 2 []
    | some lvl =>
      if va % size ≠ 0 ∨ 2 ^ 48 < va + size then s.complete 2 []
      else
        match s.openEntry va lvl 3 (s.ctx c).root with
        | .error _ => s.complete 2 []
        | .ok (a, _) =>
          if !isLeaf (SMap.look 0 s.ptab a) then s.complete 2 []
          else if s.pageBusy c va size then { (s.setPte a 0) with mbMoved := true }
          else (s.setPte a 0).complete 0 []

/-- The issue groups of a context that wait on fault `i`. -/
def State.faulted (s : State) (c i : Nat) : List IgRef :=
  (s.ctxTeams c).flatMap fun t => (List.range 4).flatMap fun r =>
    ((s.role (teamRole t r)).igs.filter fun g => g.fault == some i).map fun g => { role := teamRole t r, ig := g.uid }
/-- A declined fault is delivered: at once to a running issue group, at its next turn to a saved one; an engine entry
ends (R26, R27, R380). -/
def State.deliverDecline (s : State) (c i va : Nat) : State :=
  let s := (s.faulted c i).foldl (fun s r =>
    let s := s.modIg r fun g => { g with fault := none }
    if (s.ctx c).run = .running then (s.takeTrap r 4 (s.ig r).resumePoint (BitVec.ofNat 64 va)).settle r.role
    else s.modIg r fun g => { g with declined := some (BitVec.ofNat 64 va) }) s
  (s.endStalled c fun j => j == i).answer c i

/-- DECLINE (R26, R27, R393, R394). -/
def execDecline (s : State) : Out :=
  s.command 0x05 true false fun s c =>
    match s.openFault c (s.cmdWord 1) with
    | none => s.complete 2 []
    | some va => (s.deliverDecline c (s.cmdWord 1) va).complete 0 []

/-! ### LOAD_IMAGE (R246 to R256, R393) -/

/-- A page of class 0 on a fresh frame; or the STATUS of the command: 0x02 where a leaf already maps it, 0x05 where
firmware has no frame or table left (R393; log 17). -/
def State.imagePage (s : State) (c : Nat) (p : Nat × Nat) : Except Nat State :=
  match s.leafPlace c p.1 0 with
  | .error n => .error n
  | .ok (a, t) =>
    if isLeaf (SMap.look 0 t.ptab a) then .error 2
    else
      match t.freshFrame c 65536 with
      | none => .error 5
      | some (f, t) => .ok (t.setPte a (leafOf f 0 (1 + p.2 / 2 % 4 * 2) 0))
/-- A byte of a section stored in its page. -/
def State.imageByte (s : State) (c va : Nat) (b : Byte) : State :=
  match walk s.ptab va 3 (s.ctx c).root false with
  | .inl (e, lvl) => s.homeWrite c none [(pte e 16 36 * 0x10000 + va % leafSize lvl, b)]
  | .inr _ => s
/-- The pages of an image's LOAD sections, each once, with the flags they are mapped under. -/
def imagePages (ss : List Section) : List (Nat × Nat) :=
  let ps := (ss.filter Section.loads).flatMap fun x => x.pages.map fun p => (p, x.flags)
  ps.foldl (fun acc p => if acc.any fun q => q.1 == p.1 then acc else acc ++ [p]) []
/-- The sections of an image mapped and copied, or the STATUS of the command: that of the lowest page that cannot be. -/
def State.placeImage (s : State) (c : Nat) (f : List Byte) (ss : List Section) : Except Nat State :=
  let mapped := (imagePages ss).foldl (fun (t : Except Nat State) p => t.bind fun t => t.imagePage c p) (.ok s)
  mapped.map fun s => (ss.filter fun x => x.loads && x.inFile).foldl (fun s x =>
    ((x.bytes f).zipIdx).foldl (fun s b => s.imageByte c (x.addr + b.2) b.1) s) s

/-- LOAD_IMAGE (R246 to R256, R393). -/
def execLoadImage (s : State) : Out :=
  s.command 0x07 true true fun s c =>
    let a := s.cmdWord 1
    let n := s.cmdWord 2
    let require : Bool := s.cmdWord 3 == 1
    if Config.memBytes < a + n ∨ 2 ≤ s.cmdWord 3 then s.complete 2 []
    else
      let (t, f, bad) := s.readHomes (s.ownerAt a) a n .free
      match readImageFile f with
      | none => t.complete 2 []
      | some (ss, ks) =>
        let signed := ss.any fun x => x.typ == 13
        if bad then t.complete 2 []
        else if (require || signed) && !signatureOk f ss then t.complete 6 []
        else
          match t.placeImage c f ss with
          | .error n => t.complete n []
          | .ok t =>
            (t.modCtx c fun x => { x with images := x.images ++ ks,
                                          imageDigests := x.imageDigests ++ [Config.sha512 f] }).complete 0 []

/-! ### Dynamic capacity (R42, R157, R390) -/

/-- 1 GiB, the extent block of the dynamic capacity region (R390). -/
def gib : Nat := 2 ^ 30

/-- DC_ADD (R42, R393); that an extent which meets another is refused with STATUS 2 is the model's choice (log 84). -/
def execDcAdd (s : State) : Out :=
  s.command 0x0C true true fun s c =>
    let base := s.cmdWord 1
    let len := s.cmdWord 2 * gib
    if base % gib ≠ 0 ∨ len = 0 ∨ Config.fwBase < base + len ∨ s.extents.any (fun e => overlaps base len e.base e.len) then
      s.complete 2 []
    else ({ s with extents := { ctx := c, base := base, len := len } :: s.extents } : State).complete 0 []

/-- The leaves of a context whose frames an extent holds. -/
def State.leavesIn (s : State) (c base len : Nat) : List Nat :=
  ((leaves s.ptab 3 (s.ctx c).root).filter fun l =>
    decide (pte l.2.2 6 3 ≤ 4) && overlaps base len (pte l.2.2 16 36 * 65536) (leafSize l.2.1)).map (·.1)
/-- The lines of a level within a span of places. -/
def Level.linesIn (lv : Level) (base len : Nat) : List Nat :=
  distinct ((lv.bytes.filter fun p => decide (base ≤ untagged p.1 ∧ untagged p.1 < base + len)).map fun p => p.1 / 64)
/-- Every dirty byte of a span goes down to its home (R157 step 2). -/
def State.spanDown (s : State) (base len : Nat) : State :=
  let s := (s.cores.map (·.1)).foldl (fun s k =>
    ((s.core k).level.linesIn base len).foldl (fun s l => s.coreDown k l) s) s
  (s.clusters.map (·.1)).foldl (fun s k =>
    ((s.cluster k).level.linesIn base len).foldl (fun s l => s.clusterDown k l) s) s
/-- The memory-side lines of a span. -/
def State.linesIn (s : State) (base len : Nat) : List Nat :=
  (s.msc.filter fun m => decide (base ≤ 64 * m.1 ∧ 64 * m.1 < base + len)).map (·.1)

/-- An extent is unassigned, and every leaf that maps a part of it is cleared (R157 step 1). -/
def State.unassign (s : State) (base len : Nat) : State :=
  let s : State := { s with extents := s.extents.filter fun e => !(e.base == base && e.len == len), mbMoved := true }
  s.ctxs.foldl (fun (s : State) x => (s.leavesIn x.1 base len).foldl (fun s a => s.setPte a 0) s) s

/-- DC_RELEASE (R42, R157): after step 1 the release waits for the accesses that translated with an old entry (R30). -/
def execDcRelease (failed : List Nat) (s : State) : Out :=
  s.command 0x0D true false fun s c =>
    let base := s.cmdWord 1
    let len := s.cmdWord 2 * gib
    if !s.mbMoved && !(s.extents.any fun e => e.ctx == c && e.base == base && e.len == len) then s.complete 2 []
    else
      let s := if s.mbMoved then s else s.unassign base len
      if s.ctxs.any fun x => s.outstanding x.1 fun a => decide (base ≤ a.loc ∧ a.loc < base + len) then s
      else
      let s := s.spanDown base len
      let (s, lost) := s.writeBack (s.linesIn base len) failed
      let s := (s.linesIn base len).foldl (fun (s : State) l => { s with msc := SMap.erase s.msc l }) s
      s.complete 0 (BitVec.ofNat 64 lost.length :: (lost.take 16).map fun l => BitVec.ofNat 64 (64 * l))

end Sys2Proof.Machine
end

