-- ==== Sys2Proof/Machine/Scalar.lean ====
section
/-! DEFINITION. The scalar forms so and sk and the clause header (spec/11_instr_scalar_vector.md R260 to R266). Each is
performed once for each supplying home group, in ascending order, on that home group's scalar registers (R261). -/

namespace Sys2Proof.Machine

/-- An so operation with a 32-bit result from SA and SB. -/
def State.so2 (s : State) (x : SoArgs) (f : Word → Word → Word) : Out :=
  s.simple 8 fun s => s.eachHome fun s g => s.writeS g x.sd (f (s.readS g x.sa) (s.readS g x.sb))

/-- An so operation with a 32-bit result from SA, SB and SX. -/
def State.so3 (s : State) (x : SoArgs) (f : Word → Word → Word → Word) : Out :=
  s.simple 8 fun s => s.eachHome fun s g =>
    s.writeS g x.sd (f (s.readS g x.sa) (s.readS g x.sb) (s.readS g x.sx))

/-- An sk operation with a 32-bit result from SA and IMM32. -/
def State.sk2 (s : State) (x : SkArgs) (f : Word → Word → Word) : Out :=
  s.simple 12 fun s => s.eachHome fun s g => s.writeS g x.sd (f (s.readS g x.sa) (BitVec.ofNat 32 x.imm))

/-- The lesser or the greater of two words of an integer type (R214). -/
def pick32 (t : Ty) (isMax : Bool) (a b : Word) : Word :=
  if decide (intVal t a.toNat < intVal t b.toNat) == isMax then b else a

/-- Bits [63:32] of a product (R262). -/
def mulh32 (t : Ty) (a b : Word) : Word :=
  BitVec.ofNat 32 (wrapBits 64 (intVal t a.toNat * intVal t b.toNat) / 2 ^ 32)

/-- The 32-bit truth of a comparison (R262). -/
def cmp32 (t : Ty) (sel : Nat) (a b : Word) : Word := if condInt sel (intVal t a.toNat) (intVal t b.toNat) then 1 else 0

/-- R265: the identifier that SEL selects. -/
def State.rdid (s : State) (g sel : Nat) : Word :=
  let x := s.group g
  let t := s.team x.team
  BitVec.ofNat 32 (match sel with
    | 0 => x.home
    | 1 => t.num
    | 2 => t.groups
    | 3 => x.role
    | 4 => x.core
    | 5 => clusterOf x.core
    | 6 => t.ctx
    | _ => (s.grid t.grid).seq)

/-- CH (R228, R260): opens the clause, or at a resume skips to its offset (R236). -/
def execCh (x : ChArgs) (s : State) : Out :=
  let g := s.ig s.cur
  let pt := g.resumePoint
  match g.resume with
  | some off =>
    if x.clen + 1 < off then .next (s.takeTrap s.cur 1 pt ((BitVec.ofNat 64 (encCh x)) &&& 0xFFFFFFFF#64))
    else s.finish 8 (.stand (s.modIg s.cur fun g => openAt g off))
  | none => s.finish 8 (.stand (s.modIg s.cur fun g => openAt g 0))
where
  /-- The clause of this header, the first `off` instructions still to be skipped by fetch. -/
  openAt (g : Ig) (off : Nat) : Ig :=
    { g with pc := g.pc + 8, wait := .none, resume := if off = 0 then none else some off,
             clause := some { hdr := g.pc, len := x.clen + 1, fa := if x.fav then some x.fa else none,
                              fb := if x.fbv then some x.fb else none, idx := 0 } }

/-- SO_ADD (R262). -/
def execSoAdd (x : SoArgs) (s : State) : Out := s.so2 x (fun a b => a + b)
/-- SO_SUB (R262). -/
def execSoSub (x : SoArgs) (s : State) : Out := s.so2 x (fun a b => a - b)
/-- SO_MUL (R262). -/
def execSoMul (x : SoArgs) (s : State) : Out := s.so2 x (fun a b => a * b)
/-- SO_MULH (R262). -/
def execSoMulh (x : SoArgs) (s : State) : Out := s.so2 x (mulh32 x.ty)
/-- SO_AND (R262). -/
def execSoAnd (x : SoArgs) (s : State) : Out := s.so2 x (fun a b => a &&& b)
/-- SO_OR (R262). -/
def execSoOr (x : SoArgs) (s : State) : Out := s.so2 x (fun a b => a ||| b)
/-- SO_XOR (R262). -/
def execSoXor (x : SoArgs) (s : State) : Out := s.so2 x (fun a b => a ^^^ b)
/-- SO_SHL (R262). -/
def execSoShl (x : SoArgs) (s : State) : Out := s.so2 x (shl32)
/-- SO_SHR (R262). -/
def execSoShr (x : SoArgs) (s : State) : Out := s.so2 x (shr32)
/-- SO_SRA (R262). -/
def execSoSra (x : SoArgs) (s : State) : Out := s.so2 x (sra32)
/-- SO_MIN (R262). -/
def execSoMin (x : SoArgs) (s : State) : Out := s.so2 x (pick32 x.ty false)
/-- SO_MAX (R262). -/
def execSoMax (x : SoArgs) (s : State) : Out := s.so2 x (pick32 x.ty true)
/-- SO_CMP (R262). -/
def execSoCmp (x : SoArgs) (s : State) : Out := s.so2 x (cmp32 x.ty x.sel)
/-- SO_SEL (R262). -/
def execSoSel (x : SoArgs) (s : State) : Out := s.so3 x fun a b c => if c ≠ 0 then a else b
/-- SO_BFE (R263). -/
def execSoBfe (x : SoArgs) (s : State) : Out := s.so2 x (bfe32 x.ty)
/-- SO_BFI (R262, R263). -/
def execSoBfi (x : SoArgs) (s : State) : Out := s.so3 x fun a b c => bfi32 a b c
/-- SO_POPC (R262). -/
def execSoPopc (x : SoArgs) (s : State) : Out := s.so2 x fun a _ => popc32 a
/-- SO_CLZ (R262). -/
def execSoClz (x : SoArgs) (s : State) : Out := s.so2 x fun a _ => clz32 a
/-- SO_ADD64 (R262). -/
def execSoAdd64 (x : SoArgs) (s : State) : Out :=
  s.simple 8 fun s => s.eachHome fun s g => s.writeS64 g x.sd (s.readS64 g x.sa + s.readS64 g x.sb)
/-- SO_LEA (R262). -/
def execSoLea (x : SoArgs) (s : State) : Out :=
  s.simple 8 fun s => s.eachHome fun s g =>
    let b := s.readS g x.sb
    let e : DWord := if x.ty = .i32 then b.signExtend 64 else b.setWidth 64
    s.writeS64 g x.sd (s.readS64 g x.sa + e <<< x.sel)
/-- SO_MOV (R262). -/
def execSoMov (x : SoArgs) (s : State) : Out :=
  s.simple 8 fun s => s.eachHome fun s g =>
    if x.ty = .b64 then s.writeS64 g x.sd (s.readS64 g x.sa) else s.writeS g x.sd (s.readS g x.sa)
/-- SO_RDID (R265). -/
def execSoRdid (x : SoArgs) (s : State) : Out :=
  s.simple 8 fun s => s.eachHome fun s g => s.writeS g x.sd (s.rdid g x.sel)
/-- SK_MOV (R266). -/
def execSkMov (x : SkArgs) (s : State) : Out := s.sk2 x (fun _ i => i)
/-- SK_ADD (R266). -/
def execSkAdd (x : SkArgs) (s : State) : Out := s.sk2 x (fun a i => a + i)
/-- SK_AND (R266). -/
def execSkAnd (x : SkArgs) (s : State) : Out := s.sk2 x (fun a i => a &&& i)
/-- SK_OR (R266). -/
def execSkOr (x : SkArgs) (s : State) : Out := s.sk2 x (fun a i => a ||| i)
/-- SK_XOR (R266). -/
def execSkXor (x : SkArgs) (s : State) : Out := s.sk2 x (fun a i => a ^^^ i)
/-- SK_CMP (R266). -/
def execSkCmp (x : SkArgs) (s : State) : Out := s.sk2 x (cmp32 x.ty x.sel)

end Sys2Proof.Machine
end

