-- ==== Sys2Proof/Machine/Sf.lean ====
section
/-! DEFINITION. The special functions sf (spec/08_number_formats.md R213, spec/11_instr_scalar_vector.md R278). A
transcendental value is worked out as a fixed-point number with 640 fractional bits, which is far closer than any two
values of the formats: every such value of a rational argument other than those treated as exact is irrational, so it lies
strictly between the two fixed-point numbers that the last 32 bits leave. -/

namespace Sys2Proof.Machine

/-- The functions of R213, in OP order. -/
inductive SfFn where
  | rcp | rsq | sqrt | exp2 | log2 | sin | cos | tanh | sigm | gelu | silu | erf
  deriving DecidableEq, Repr

/-- OP of a function (R225). -/
def SfFn.code : SfFn → Nat
  | .rcp => 0 | .rsq => 1 | .sqrt => 2 | .exp2 => 3 | .log2 => 4 | .sin => 5 | .cos => 6 | .tanh => 7 | .sigm => 8
  | .gelu => 9 | .silu => 10 | .erf => 11

/-! ### Fixed point -/

/-- Fractional bits. -/
def fxBits : Nat := 640
/-- Fractional bits kept of a result. -/
def fxKept : Nat := 608
def fxOne : Int := 2 ^ fxBits
def fxMul (a b : Int) : Int := a * b / 2 ^ fxBits
def fxDiv (a b : Int) : Int := a * 2 ^ fxBits / b

/-- `Σ x^k i! / (i + k)!` by Horner's rule, `n` terms from divisor `i`. -/
def expSeries (x : Int) : Nat → Nat → Int
  | 0, _ => fxOne
  | n + 1, i => fxOne + fxMul x (expSeries x n (i + 1)) / i
/-- `1 - y / (i (i + 1)) (1 - …)`, the series of sin and cos in `y = x²`. -/
def trigSeries (y : Int) : Nat → Nat → Int
  | 0, _ => fxOne
  | n + 1, i => fxOne - fxMul y (trigSeries y n (i + 2)) / (i * (i + 1))
/-- `1 / i + y (1 / (i + 2) + …)`, the series of atanh in `y = x²`. -/
def atanhSeries (y : Int) : Nat → Nat → Int
  | 0, _ => 0
  | n + 1, i => fxOne / i + fxMul y (atanhSeries y n (i + 2))
/-- `1 + 2y / (i + 2) (1 + …)`, the series of erf times `exp y`, in `y = x²`. -/
def erfSeries (y : Int) : Nat → Nat → Int
  | 0, _ => fxOne
  | n + 1, i => fxOne + fxMul (2 * y) (erfSeries y n (i + 2)) / (i + 2)

/-- `ln m` for `1 ≤ m ≤ 2`. -/
def fxLn (m : Int) : Int :=
  let y := fxDiv (m - fxOne) (m + fxOne)
  2 * fxMul y (atanhSeries (fxMul y y) 230 1)
def fxLn2 : Int := fxLn (2 * fxOne)
/-- `2^f` for `0 ≤ f ≤ 1`. -/
def fxExp2 (f : Int) : Int := expSeries (fxMul f fxLn2) 150 1

/-- `e^(-x)` for `x ≥ 0`. -/
def fxExpNeg (x : Int) : Int :=
  let y := fxDiv x fxLn2
  let k := (y / fxOne).toNat
  if 700 ≤ k then 0 else fxOne * fxOne / fxExp2 (y - k * fxOne) / 2 ^ k

/-- `atan (1 / a)` times `2^p`, by its alternating series. -/
def atanInv (p a : Nat) : Nat → Nat → Int
  | 0, _ => 0
  | n + 1, k => ((2 ^ p / (a ^ (2 * k + 1) * (2 * k + 1)) : Nat) : Int) * (if k % 2 = 0 then 1 else -1) + atanInv p a n (k + 1)
/-- `π / 2` times `2^p` (Machin). -/
def halfPi (p : Nat) : Int := 2 * (4 * atanInv (p + 16) 5 (p / 4) 0 - atanInv (p + 16) 239 (p / 14) 0) / 2 ^ 16

/-- The square root of a fixed-point number. -/
def fxSqrt (x : Nat) : Int := isqrt (Nat.log2 x / 2 + fxBits / 2 + 1) (x * 2 ^ fxBits) 0

/-- `erf z` for `z ≥ 0`; 1 from 16 on. -/
def fxErf (z : Int) : Int :=
  if 16 * fxOne ≤ z then fxOne
  else
    let y := fxMul z z
    let c := fxDiv (2 * fxOne) (fxSqrt (2 * halfPi fxBits).toNat)
    fxMul (fxMul c (fxMul z (erfSeries y 1300 1))) (fxExpNeg y)

/-! ### Results -/

/-- The magnitude of a rational argument as fixed point. -/
def fxOf (n d : Nat) : Int := ((n * 2 ^ fxBits / d : Nat) : Int)

/-- A value strictly between 0 and 1 known to the kept bits, as a rational strictly inside its interval. -/
def unitQ (x : Int) : Nat × Nat :=
  let m := min ((x / 2 ^ (fxBits - fxKept)).toNat) (2 ^ fxKept - 1)
  (2 * m + 1, 2 ^ (fxKept + 1))
/-- The same for any value: its sign and a rational strictly inside its interval. -/
def anyQ (x : Int) : Bool × Nat × Nat :=
  let m := x / 2 ^ (fxBits - fxKept)
  if 0 ≤ m then (false, 2 * m.toNat + 1, 2 ^ (fxKept + 1)) else (true, 2 * m.natAbs - 1, 2 ^ (fxKept + 1))

/-- `√(n / d)` as a rational on the right side of every boundary. -/
def rootQ (n d : Nat) : Nat × Nat :=
  let x := n * d * 4 ^ 200
  let r := isqrt (Nat.log2 x / 2 + 1) x 0
  if r * r == x then (r, d * 2 ^ 200) else (2 * r + 1, d * 2 ^ 201)

/-- sin (`k = 0`) or cos (`k = 1`) of `n / d`. -/
def trigQ (neg : Bool) (n d k : Nat) : Bool × Nat × Nat :=
  let p := fxBits + 160
  let hp := halfPi p
  let x : Int := ((n * 2 ^ p / d : Nat) : Int)
  let q := ((x / hp).toNat + k) % 4
  let r := x % hp / 2 ^ 160
  let y := fxMul r r
  let v := if q % 2 = 0 then fxMul r (trigSeries y 90 2) else trigSeries y 90 1
  let (s, a, b) := anyQ v
  (s != (decide (2 ≤ q) != (neg && k == 0)), a, b)

/-- The sigmoid of `±n / d`, strictly between 0 and 1. -/
def sigmQ (neg : Bool) (n d : Nat) : Nat × Nat :=
  let t := fxExpNeg (fxOf n d)
  unitQ (if neg then fxDiv t (fxOne + t) else fxDiv fxOne (fxOne + t))

/-- `(1 + erf(±n / (d √2))) / 2`. -/
def normQ (neg : Bool) (n d : Nat) : Nat × Nat :=
  let z := fxDiv (fxOf n d) (fxSqrt (2 * fxOne).toNat)
  let e := fxErf z
  unitQ ((if neg then fxOne - e else fxOne + e) / 2)

/-- The value of a function at `±n / d`, finite and not zero, where it is not a case of R213's table: sign and rational,
the very value when it is rational. -/
def sfQ (f : SfFn) (neg : Bool) (n d : Nat) : Bool × Nat × Nat :=
  match f with
  | .rcp => (neg, d, n)
  | .rsq => let (a, b) := rootQ d n; (false, a, b)
  | .sqrt => let (a, b) := rootQ n d; (false, a, b)
  | .exp2 =>
    let x : Int := if neg then -(n : Int) else n
    let k : Int := max (-5000) (min 5000 (x / d))
    let (a, b) := if n % d = 0 then (1, 1)
      else
        let m := (fxExp2 (fxDiv ((x - k * d) * fxOne) ((d : Int) * fxOne)) / 2 ^ (fxBits - fxKept)).toNat
        (2 * m + 1, 2 ^ (fxKept + 1))
    let (a, b) := scale a b k
    (false, a, b)
  | .log2 =>
    let e := floorLog2 n d
    let (a, b) := scale n d (-e)
    if a = b then (decide (e < 0), e.natAbs, 1)
    else anyQ (e * fxOne + fxDiv (fxLn (fxOf a b)) fxLn2)
  | .sin => trigQ neg n d 0
  | .cos => trigQ neg n d 1
  | .tanh =>
    let t := fxExpNeg (2 * fxOf n d)
    let (a, b) := unitQ (fxDiv (fxOne - t) (fxOne + t))
    (neg, a, b)
  | .sigm => let (a, b) := sigmQ neg n d; (false, a, b)
  | .gelu => let (a, b) := normQ neg n d; (neg, n * a, d * b)
  | .silu => let (a, b) := sigmQ neg n d; (neg, n * a, d * b)
  | .erf => let (a, b) := unitQ (fxErf (fxOf n d)); (neg, a, b)

/-- 1 and 1/2 of a format. -/
def oneOf (t : Ty) : Nat := (fmt t).bias * 2 ^ (fmt t).m
def halfOf (t : Ty) : Nat := ((fmt t).bias - 1) * 2 ^ (fmt t).m

/-- The cases of R213's table. -/
def sfSpecial (f : SfFn) (t : Ty) (x : Nat) : Option Flagged :=
  let bad : Option Flagged := some (defNaN t, fINV)
  match decodeF t x with
  | .nan => some (quieten t x, if isSNaN t x then fINV else 0)
  | .zero s =>
    match f with
    | .rcp => some (infOf t s, fOVF)
    | .rsq => some (infOf t s, fOVF)
    | .exp2 => some (oneOf t, 0)
    | .log2 => some (infOf t true, fOVF)
    | .cos => some (oneOf t, 0)
    | .sigm => some (halfOf t, 0)
    | _ => some (zeroOf t s, 0)
  | .inf s =>
    match f with
    | .rcp => some (zeroOf t s, 0)
    | .rsq => if s then bad else some (zeroOf t false, 0)
    | .sqrt => if s then bad else some (infOf t false, 0)
    | .exp2 => some (if s then zeroOf t false else infOf t false, 0)
    | .log2 => if s then bad else some (infOf t false, 0)
    | .sin => bad
    | .cos => bad
    | .tanh => some (withSign t s (oneOf t), 0)
    | .erf => some (withSign t s (oneOf t), 0)
    | .sigm => some (if s then zeroOf t false else oneOf t, 0)
    | .gelu => some (if s then zeroOf t true else infOf t false, 0)
    | .silu => some (if s then zeroOf t true else infOf t false, 0)
  | .fin s _ _ =>
    if s && (f = .rsq || f = .sqrt || f = .log2) then bad else none

/-- A special function of one element (R213): rounded to nearest for the 16-bit types; for f32 one of the two bracketing
values, a free choice (log 6), or the value itself. Only exp2 flags an overflow. -/
def sfElem (f : SfFn) (t : Ty) (x : Nat) : Flagged :=
  match sfSpecial f t x with
  | some r => r
  | none =>
    match decodeF t x with
    | .fin s n d =>
      let (neg, a, b) := sfQ f s n d
      if a = 0 then (zeroOf t neg, 0)
      else
        let r := if t = .f32 then
            let lo := roundF t neg a b .rtz false
            let hi := roundF t neg a b (if neg then .rdn else .rup) false
            if lo.2 % 2 = 0 then lo.1
            else if f = .exp2 && decide (2 ^ 128 * b ≤ a) then infOf t false
            else if Config.sfRoundsUp f.code x then hi.1 else lo.1
          else (roundF t neg a b .rne false).1
        (r, if f = .exp2 && r == infOf t false then fOVF else 0)
    | _ => (x, 0)

/-- An sf form (R278): both elements of the 16-bit types. -/
def State.sf (s : State) (f : SfFn) (x : SfArgs) : Out :=
  let t := s.vector x.d false fun s g l => perElem x.ty (fun a _ _ => sfElem f x.ty a) (s.opnd g l x.a false) 0 0
  s.finish 8 (if !s.room none x.cf then .wait s else .done (s.lateAll t none x.cf x.d))

/-- SF_RCP (R278). -/
def execSfRcp (x : SfArgs) (s : State) : Out := s.sf .rcp x
/-- SF_RSQ (R278). -/
def execSfRsq (x : SfArgs) (s : State) : Out := s.sf .rsq x
/-- SF_SQRT (R278). -/
def execSfSqrt (x : SfArgs) (s : State) : Out := s.sf .sqrt x
/-- SF_EXP2 (R278). -/
def execSfExp2 (x : SfArgs) (s : State) : Out := s.sf .exp2 x
/-- SF_LOG2 (R278). -/
def execSfLog2 (x : SfArgs) (s : State) : Out := s.sf .log2 x
/-- SF_SIN (R278). -/
def execSfSin (x : SfArgs) (s : State) : Out := s.sf .sin x
/-- SF_COS (R278). -/
def execSfCos (x : SfArgs) (s : State) : Out := s.sf .cos x
/-- SF_TANH (R278). -/
def execSfTanh (x : SfArgs) (s : State) : Out := s.sf .tanh x
/-- SF_SIGM (R278). -/
def execSfSigm (x : SfArgs) (s : State) : Out := s.sf .sigm x
/-- SF_GELU (R278). -/
def execSfGelu (x : SfArgs) (s : State) : Out := s.sf .gelu x
/-- SF_SILU (R278). -/
def execSfSilu (x : SfArgs) (s : State) : Out := s.sf .silu x
/-- SF_ERF (R278). -/
def execSfErf (x : SfArgs) (s : State) : Out := s.sf .erf x

end Sys2Proof.Machine
end

