-- ==== Sys2Proof/Machine/Vector.lean ====
section
/-! DEFINITION. The vector forms vo, vw, vk, vp and vm (spec/11_instr_scalar_vector.md R267 to R277). -/

namespace Sys2Proof.Machine

/-- The result of a vo operation in one lane, from its operands and, for sel, the lane's mask bit (R268 to R271). -/
def voLane (op : VoOp) (x : VoArgs) (bit : Bool) (a b : Nat) : Flagged :=
  let t := x.ty
  let w := BitVec.ofNat 32
  let ia := intVal t a
  let ib := intVal t b
  let sig (t : Ty) (a b : Nat) : Nat := if isSNaN t a || isSNaN t b then fINV else 0
  match op with
  | .add => (intOp t x.sat (ia + ib), 0)
  | .sub => (intOp t x.sat (ia - ib), 0)
  | .mull => (wrapBits 32 (ia * ib), 0)
  | .mulh => (wrapBits 64 (ia * ib) / 2 ^ 32, 0)
  | .and => (a &&& b, 0)
  | .or => (a ||| b, 0)
  | .xor => (a ^^^ b, 0)
  | .shl => ((shl32 (w a) (w b)).toNat, 0)
  | .shr => ((shr32 (w a) (w b)).toNat, 0)
  | .sra => ((sra32 (w a) (w b)).toNat, 0)
  | .min =>
    if t.isFloat then perElem t (fun a b _ => (minmaxF false t a b, sig t a b)) a b 0
    else (if decide (ib < ia) then b else a, 0)
  | .max =>
    if t.isFloat then perElem t (fun a b _ => (minmaxF true t a b, sig t a b)) a b 0
    else (if decide (ia < ib) then b else a, 0)
  | .abs =>
    if t.isFloat then perElem t (fun a _ _ => (absF t a, 0)) a b 0
    else (intOp t x.sat (ia.natAbs : Int), 0)
  | .bfe => ((bfe32 t (w a) (w b)).toNat, 0)
  | .popc => ((popc32 (w a)).toNat, 0)
  | .clz => ((clz32 (w a)).toNat, 0)
  | .brev => ((brev32 (w a)).toNat, 0)
  | .fadd => perElem t (fun a b _ => addF t a b x.rm x.sat) a b 0
  | .fsub => perElem t (fun a b _ => subF t a b x.rm x.sat) a b 0
  | .fmul => perElem t (fun a b _ => mulF t a b x.rm x.sat) a b 0
  | .fmin => perElem t (fun a b _ => (fminmax false t a b, sig t a b)) a b 0
  | .fmax => perElem t (fun a b _ => (fminmax true t a b, sig t a b)) a b 0
  | .cvt => cvtLane t x.ty2 x.rm x.sat x.sel a
  | .rnd =>
    if WellFormed.narrowPerWord t = 0 then rndF t a x.rm
    else
      let r := rndF t (a % 2 ^ elemBits t) x.rm
      (r.1 * 2 ^ (elemBits t * x.sel), r.2)
  | .sel => (if bit then a else b, 0)
  | .mov => (a, 0)
where
  /-- fmin and fmax prefer a number to a NaN (R269). -/
  fminmax (isMax : Bool) (t : Ty) (a b : Nat) : Nat :=
    if isNaN t a && !isNaN t b then b
    else if isNaN t b && !isNaN t a then a
    else minmaxF isMax t a b

/-- A vo operation in lane `l` of home group `g`, its sources read from `s` (R232: A's width follows TY2 in cvt, an
amount is one register). -/
def State.voAt (s : State) (op : VoOp) (x : VoArgs) (g l : Nat) : Flagged :=
  let wa := if op = .cvt then x.ty2.is64 else x.ty.is64
  let bit := op = .sel && (s.triple g (8 * x.sel)).getLsbD l
  voLane op x bit (s.opnd g l x.a wa) (s.opnd g l x.b (x.ty.is64 && !op.amountB))

/-- A vo operation: each active lane's result in D (R257, R267). -/
def State.vo (s : State) (op : VoOp) (x : VoArgs) : Out :=
  s.simple 8 fun s => s.vector x.d x.ty.is64 fun s g l => s.voAt op x g l

/-- VO_ADD (R268). -/
def execVoAdd (x : VoArgs) (s : State) : Out := s.vo .add x
/-- VO_SUB (R268). -/
def execVoSub (x : VoArgs) (s : State) : Out := s.vo .sub x
/-- VO_MULL (R268). -/
def execVoMull (x : VoArgs) (s : State) : Out := s.vo .mull x
/-- VO_MULH (R268). -/
def execVoMulh (x : VoArgs) (s : State) : Out := s.vo .mulh x
/-- VO_AND (R268). -/
def execVoAnd (x : VoArgs) (s : State) : Out := s.vo .and x
/-- VO_OR (R268). -/
def execVoOr (x : VoArgs) (s : State) : Out := s.vo .or x
/-- VO_XOR (R268). -/
def execVoXor (x : VoArgs) (s : State) : Out := s.vo .xor x
/-- VO_SHL (R268). -/
def execVoShl (x : VoArgs) (s : State) : Out := s.vo .shl x
/-- VO_SHR (R268). -/
def execVoShr (x : VoArgs) (s : State) : Out := s.vo .shr x
/-- VO_SRA (R268). -/
def execVoSra (x : VoArgs) (s : State) : Out := s.vo .sra x
/-- VO_MIN (R268). -/
def execVoMin (x : VoArgs) (s : State) : Out := s.vo .min x
/-- VO_MAX (R268). -/
def execVoMax (x : VoArgs) (s : State) : Out := s.vo .max x
/-- VO_ABS (R268). -/
def execVoAbs (x : VoArgs) (s : State) : Out := s.vo .abs x
/-- VO_BFE (R263). -/
def execVoBfe (x : VoArgs) (s : State) : Out := s.vo .bfe x
/-- VO_POPC (R268). -/
def execVoPopc (x : VoArgs) (s : State) : Out := s.vo .popc x
/-- VO_CLZ (R268). -/
def execVoClz (x : VoArgs) (s : State) : Out := s.vo .clz x
/-- VO_BREV (R268). -/
def execVoBrev (x : VoArgs) (s : State) : Out := s.vo .brev x
/-- VO_FADD (R269). -/
def execVoFadd (x : VoArgs) (s : State) : Out := s.vo .fadd x
/-- VO_FSUB (R269). -/
def execVoFsub (x : VoArgs) (s : State) : Out := s.vo .fsub x
/-- VO_FMUL (R269). -/
def execVoFmul (x : VoArgs) (s : State) : Out := s.vo .fmul x
/-- VO_FMIN (R269). -/
def execVoFmin (x : VoArgs) (s : State) : Out := s.vo .fmin x
/-- VO_FMAX (R269). -/
def execVoFmax (x : VoArgs) (s : State) : Out := s.vo .fmax x
/-- VO_CVT (R270). -/
def execVoCvt (x : VoArgs) (s : State) : Out := s.vo .cvt x
/-- VO_RND (R270). -/
def execVoRnd (x : VoArgs) (s : State) : Out := s.vo .rnd x
/-- VO_SEL (R271). -/
def execVoSel (x : VoArgs) (s : State) : Out := s.vo .sel x
/-- VO_MOV (R271). -/
def execVoMov (x : VoArgs) (s : State) : Out := s.vo .mov x

/-- A vw form with one result register or pair. -/
def State.vw (s : State) (x : VwArgs) (f : Nat → Nat → Nat → Flagged) : Out :=
  s.simple 12 fun s => s.vector x.d x.ty.is64 fun s g l =>
    f (s.opnd g l x.a x.ty.is64) (s.opnd g l x.b x.ty.is64) (s.opnd g l x.c x.ty.is64)

/-- VW_FMA (R272): MOD bit 0 negates A, bit 1 B, bit 2 C (R221). -/
def execVwFma (x : VwArgs) (s : State) : Out :=
  s.vw x (perElem x.ty fun a b c =>
    let n (k v : Nat) : Nat := if x.neg / 2 ^ k % 2 == 1 then negF x.ty v else v
    fmaF x.ty (n 0 a) (n 1 b) (n 2 c) x.rm x.sat)
/-- VW_MAD (R272). -/
def execVwMad (x : VwArgs) (s : State) : Out :=
  s.vw x fun a b c => (intOp x.ty x.sat (intVal x.ty a * intVal x.ty b + intVal x.ty c), 0)
/-- VW_BFI (R272). -/
def execVwBfi (x : VwArgs) (s : State) : Out :=
  s.vw x fun a b c => ((bfi32 (BitVec.ofNat 32 a) (BitVec.ofNat 32 b) (BitVec.ofNat 32 c)).toNat, 0)
/-- VW_CVTSR (R209, R272): each active lane takes one step of its generator. -/
def execVwCvtsr (x : VwArgs) (s : State) : Out :=
  s.simple 12 fun s => s.eachLanes fun s g m =>
    let state (l : Nat) : DWord := s.genState g l
    let f (l : Nat) : Flagged :=
      let r := cvtWith x.ty x.ty2 (s.opnd g l x.a x.ty2.is64) (.sr (srNext (state l)).2) x.sat
      (putElem x.ty x.sel r.1 (s.opnd g l x.c false), r.2)
    s.modGroup g fun y =>
      let y := y.setLanes x.d false m f
      let rng := (List.range 96).foldl (fun t l => if m.getLsbD l then SMap.ins t l (srNext (state l)).1 else t) y.rng
      { y with rng := rng }
/-- VW_PACK (R272): elements 2·SEL and 2·SEL + 1 of C replaced by the conversions of A and B. -/
def execVwPack (x : VwArgs) (s : State) : Out :=
  s.simple 12 fun s => s.vector x.d false fun s g l =>
    let a := cvtElem x.ty x.ty2 x.rm x.sat (s.opnd g l x.a false)
    let b := cvtElem x.ty x.ty2 x.rm x.sat (s.opnd g l x.b false)
    (putElem x.ty (2 * x.sel + 1) b.1 (putElem x.ty (2 * x.sel) a.1 (s.opnd g l x.c false)), a.2 ||| b.2)

/-- A vk form: A, the constant, and the old D (R273). -/
def State.vk (s : State) (x : VkArgs) (f : Nat → Nat → Nat → Flagged) : Out :=
  s.simple 12 fun s => s.vector x.d false fun s g l => f (s.opnd g l x.a false) x.imm (s.opnd g l x.d false)
/-- VK_ADD (R273). -/
def execVkAdd (x : VkArgs) (s : State) : Out :=
  s.vk x fun a i _ =>
    if x.ty = .f32 then addF .f32 a i x.rm x.sat else (intOp x.ty x.sat (intVal x.ty a + intVal x.ty i), 0)
/-- VK_MUL (R273). -/
def execVkMul (x : VkArgs) (s : State) : Out :=
  s.vk x fun a i _ =>
    if x.ty = .f32 then mulF .f32 a i x.rm x.sat else (wrapInt x.ty (intVal x.ty a * intVal x.ty i), 0)
/-- VK_AND (R273). -/
def execVkAnd (x : VkArgs) (s : State) : Out := s.vk x fun a i _ => (a &&& i, 0)
/-- VK_OR (R273). -/
def execVkOr (x : VkArgs) (s : State) : Out := s.vk x fun a i _ => (a ||| i, 0)
/-- VK_MOV (R273). -/
def execVkMov (x : VkArgs) (s : State) : Out := s.vk x fun _ i _ => (i, 0)
/-- VK_FMA (R273). -/
def execVkFma (x : VkArgs) (s : State) : Out := s.vk x fun a i d => fmaF .f32 a i d x.rm x.sat

/-- VP (R233): both operations read their sources before either writes. -/
def execVp (op1 : VoOp) (x1 : VoArgs) (op2 : VoOp) (x2 : VoArgs) (s : State) : Out :=
  s.simple 16 fun s => s.eachLanes fun s g m => s.modGroup g fun y =>
    (y.setLanes x1.d x1.ty.is64 m (s.voAt op1 x1 g)).setLanes x2.d x2.ty.is64 m (s.voAt op2 x2 g)

/-- The operand that a mask form compares: element 0 of the packed types (R276, R277). -/
def low (t : Ty) (a : Nat) : Nat := if t = .f16 || t = .bf16 then a % 2 ^ 16 else a
/-- VM_CMP (R276). -/
def execVmCmp (x : VmArgs) (s : State) : Out :=
  s.simple 8 fun s => s.maskForm x.sd fun s g l =>
    cond x.ty x.sel (low x.ty (s.opnd g l x.a x.ty.is64)) (low x.ty (s.opnd g l x.b x.ty.is64))
/-- VM_CLASS (R277). -/
def execVmClass (x : VmArgs) (s : State) : Out :=
  s.simple 8 fun s => s.maskForm x.sd fun s g l =>
    (x.b / 2 ^ classOf x.ty (low x.ty (s.opnd g l x.a x.ty.is64)) % 2 == 1, 0)

end Sys2Proof.Machine
end

