-- ==== Sys2Proof/Machine/Dispatch.lean ====
section
/-! DEFINITION. The dispatch: one arm for each row of spec/opcode_table.json. -/

namespace Sys2Proof.Machine

def exec (i : Instr) (s : State) : Host.Outcome State Fault Refusal :=
  match i with
  | .ch x => Sys2Proof.Machine.execCh x s
  | .soAdd x => Sys2Proof.Machine.execSoAdd x s
  | .soSub x => Sys2Proof.Machine.execSoSub x s
  | .soMul x => Sys2Proof.Machine.execSoMul x s
  | .soMulh x => Sys2Proof.Machine.execSoMulh x s
  | .soAnd x => Sys2Proof.Machine.execSoAnd x s
  | .soOr x => Sys2Proof.Machine.execSoOr x s
  | .soXor x => Sys2Proof.Machine.execSoXor x s
  | .soShl x => Sys2Proof.Machine.execSoShl x s
  | .soShr x => Sys2Proof.Machine.execSoShr x s
  | .soSra x => Sys2Proof.Machine.execSoSra x s
  | .soMin x => Sys2Proof.Machine.execSoMin x s
  | .soMax x => Sys2Proof.Machine.execSoMax x s
  | .soCmp x => Sys2Proof.Machine.execSoCmp x s
  | .soSel x => Sys2Proof.Machine.execSoSel x s
  | .soBfe x => Sys2Proof.Machine.execSoBfe x s
  | .soBfi x => Sys2Proof.Machine.execSoBfi x s
  | .soPopc x => Sys2Proof.Machine.execSoPopc x s
  | .soClz x => Sys2Proof.Machine.execSoClz x s
  | .soAdd64 x => Sys2Proof.Machine.execSoAdd64 x s
  | .soLea x => Sys2Proof.Machine.execSoLea x s
  | .soMov x => Sys2Proof.Machine.execSoMov x s
  | .soRdid x => Sys2Proof.Machine.execSoRdid x s
  | .skMov x => Sys2Proof.Machine.execSkMov x s
  | .skAdd x => Sys2Proof.Machine.execSkAdd x s
  | .skAnd x => Sys2Proof.Machine.execSkAnd x s
  | .skOr x => Sys2Proof.Machine.execSkOr x s
  | .skXor x => Sys2Proof.Machine.execSkXor x s
  | .skCmp x => Sys2Proof.Machine.execSkCmp x s
  | .voAdd x => Sys2Proof.Machine.execVoAdd x s
  | .voSub x => Sys2Proof.Machine.execVoSub x s
  | .voMull x => Sys2Proof.Machine.execVoMull x s
  | .voMulh x => Sys2Proof.Machine.execVoMulh x s
  | .voAnd x => Sys2Proof.Machine.execVoAnd x s
  | .voOr x => Sys2Proof.Machine.execVoOr x s
  | .voXor x => Sys2Proof.Machine.execVoXor x s
  | .voShl x => Sys2Proof.Machine.execVoShl x s
  | .voShr x => Sys2Proof.Machine.execVoShr x s
  | .voSra x => Sys2Proof.Machine.execVoSra x s
  | .voMin x => Sys2Proof.Machine.execVoMin x s
  | .voMax x => Sys2Proof.Machine.execVoMax x s
  | .voAbs x => Sys2Proof.Machine.execVoAbs x s
  | .voBfe x => Sys2Proof.Machine.execVoBfe x s
  | .voPopc x => Sys2Proof.Machine.execVoPopc x s
  | .voClz x => Sys2Proof.Machine.execVoClz x s
  | .voBrev x => Sys2Proof.Machine.execVoBrev x s
  | .voFadd x => Sys2Proof.Machine.execVoFadd x s
  | .voFsub x => Sys2Proof.Machine.execVoFsub x s
  | .voFmul x => Sys2Proof.Machine.execVoFmul x s
  | .voFmin x => Sys2Proof.Machine.execVoFmin x s
  | .voFmax x => Sys2Proof.Machine.execVoFmax x s
  | .voCvt x => Sys2Proof.Machine.execVoCvt x s
  | .voRnd x => Sys2Proof.Machine.execVoRnd x s
  | .voSel x => Sys2Proof.Machine.execVoSel x s
  | .voMov x => Sys2Proof.Machine.execVoMov x s
  | .vwFma x => Sys2Proof.Machine.execVwFma x s
  | .vwMad x => Sys2Proof.Machine.execVwMad x s
  | .vwBfi x => Sys2Proof.Machine.execVwBfi x s
  | .vwCvtsr x => Sys2Proof.Machine.execVwCvtsr x s
  | .vwPack x => Sys2Proof.Machine.execVwPack x s
  | .vkAdd x => Sys2Proof.Machine.execVkAdd x s
  | .vkMul x => Sys2Proof.Machine.execVkMul x s
  | .vkAnd x => Sys2Proof.Machine.execVkAnd x s
  | .vkOr x => Sys2Proof.Machine.execVkOr x s
  | .vkMov x => Sys2Proof.Machine.execVkMov x s
  | .vkFma x => Sys2Proof.Machine.execVkFma x s
  | .vp op1 x1 op2 x2 => Sys2Proof.Machine.execVp op1 x1 op2 x2 s
  | .vmCmp x => Sys2Proof.Machine.execVmCmp x s
  | .vmClass x => Sys2Proof.Machine.execVmClass x s
  | .sfRcp x => Sys2Proof.Machine.execSfRcp x s
  | .sfRsq x => Sys2Proof.Machine.execSfRsq x s
  | .sfSqrt x => Sys2Proof.Machine.execSfSqrt x s
  | .sfExp2 x => Sys2Proof.Machine.execSfExp2 x s
  | .sfLog2 x => Sys2Proof.Machine.execSfLog2 x s
  | .sfSin x => Sys2Proof.Machine.execSfSin x s
  | .sfCos x => Sys2Proof.Machine.execSfCos x s
  | .sfTanh x => Sys2Proof.Machine.execSfTanh x s
  | .sfSigm x => Sys2Proof.Machine.execSfSigm x s
  | .sfGelu x => Sys2Proof.Machine.execSfGelu x s
  | .sfSilu x => Sys2Proof.Machine.execSfSilu x s
  | .sfErf x => Sys2Proof.Machine.execSfErf x s
  | .xlShfl x => Sys2Proof.Machine.execXlShfl x s
  | .xlShflx x => Sys2Proof.Machine.execXlShflx x s
  | .xlBfly x => Sys2Proof.Machine.execXlBfly x s
  | .xlVote x => Sys2Proof.Machine.execXlVote x s
  | .xlRdln x => Sys2Proof.Machine.execXlRdln x s
  | .xlWrln x => Sys2Proof.Machine.execXlWrln x s
  | .xlScan x => Sys2Proof.Machine.execXlScan x s
  | .xlRed x => Sys2Proof.Machine.execXlRed x s
  | .bcBr x => Sys2Proof.Machine.execBcBr x s
  | .bcBrd x => Sys2Proof.Machine.execBcBrd x s
  | .bcJmp x => Sys2Proof.Machine.execBcJmp x s
  | .bcCall x => Sys2Proof.Machine.execBcCall x s
  | .bcRet x => Sys2Proof.Machine.execBcRet x s
  | .bcExit x => Sys2Proof.Machine.execBcExit x s
  | .bcNop x => Sys2Proof.Machine.execBcNop x s
  | .bcBrk x => Sys2Proof.Machine.execBcBrk x s
  | .xfQuant x => Sys2Proof.Machine.execXfQuant x s
  | .xfDq x => Sys2Proof.Machine.execXfDq x s
  | .xfSign x => Sys2Proof.Machine.execXfSign x s
  | .xfPack x => Sys2Proof.Machine.execXfPack x s
  | .maLd x => Sys2Proof.Machine.execMaLd x s
  | .maSt x => Sys2Proof.Machine.execMaSt x s
  | .maLdg x => Sys2Proof.Machine.execMaLdg x s
  | .maStg x => Sys2Proof.Machine.execMaStg x s
  | .maLds x => Sys2Proof.Machine.execMaLds x s
  | .maSts x => Sys2Proof.Machine.execMaSts x s
  | .maLdsc x => Sys2Proof.Machine.execMaLdsc x s
  | .maPf x => Sys2Proof.Machine.execMaPf x s
  | .maFpush x => Sys2Proof.Machine.execMaFpush x s
  | .maFpop x => Sys2Proof.Machine.execMaFpop x s
  | .mxAtom96 x => Sys2Proof.Machine.execMxAtom96 x s
  | .mxAtom128 x => Sys2Proof.Machine.execMxAtom128 x s
  | .mxCas96 x => Sys2Proof.Machine.execMxCas96 x s
  | .mxCas128 x => Sys2Proof.Machine.execMxCas128 x s
  | .mxFatom96 x => Sys2Proof.Machine.execMxFatom96 x s
  | .mxFatom128 x => Sys2Proof.Machine.execMxFatom128 x s
  | .mxRed96 x => Sys2Proof.Machine.execMxRed96 x s
  | .mxRed128 x => Sys2Proof.Machine.execMxRed128 x s
  | .msWaitc x => Sys2Proof.Machine.execMsWaitc x s
  | .msWaitb x => Sys2Proof.Machine.execMsWaitb x s
  | .msWaitm x => Sys2Proof.Machine.execMsWaitm x s
  | .msCommit x => Sys2Proof.Machine.execMsCommit x s
  | .msBarT x => Sys2Proof.Machine.execMsBarT x s
  | .msBarR x => Sys2Proof.Machine.execMsBarR x s
  | .msBarG x => Sys2Proof.Machine.execMsBarG x s
  | .msBind x => Sys2Proof.Machine.execMsBind x s
  | .msUnbind x => Sys2Proof.Machine.execMsUnbind x s
  | .msQjoin x => Sys2Proof.Machine.execMsQjoin x s
  | .msRclaim x => Sys2Proof.Machine.execMsRclaim x s
  | .msRgive x => Sys2Proof.Machine.execMsRgive x s
  | .msAcq x => Sys2Proof.Machine.execMsAcq x s
  | .msRel x => Sys2Proof.Machine.execMsRel x s
  | .ceCp x => Sys2Proof.Machine.execCeCp x s
  | .ceChain x => Sys2Proof.Machine.execCeChain x s
  | .ceFill x => Sys2Proof.Machine.execCeFill x s
  | .mfMma x => Sys2Proof.Machine.execMfMma x s
  | .mfMmasp x => Sys2Proof.Machine.execMfMmasp x s
  | .toLd x => Sys2Proof.Machine.execToLd x s
  | .toSt x => Sys2Proof.Machine.execToSt x s
  | .toZero x => Sys2Proof.Machine.execToZero x s
  | .toFree x => Sys2Proof.Machine.execToFree x s
  | .toDense x => Sys2Proof.Machine.execToDense x s
  | .toCmpr x => Sys2Proof.Machine.execToCmpr x s
  | .toAdd x => Sys2Proof.Machine.execToAdd x s
  | .toMul x => Sys2Proof.Machine.execToMul x s
  | .toGemm x => Sys2Proof.Machine.execToGemm x s
  | .toLu x => Sys2Proof.Machine.execToLu x s
  | .toTrsm x => Sys2Proof.Machine.execToTrsm x s
  | .toScal x => Sys2Proof.Machine.execToScal x s
  | .toTr x => Sys2Proof.Machine.execToTr x s
  | .toRound x => Sys2Proof.Machine.execToRound x s
  | .tqInfo x => Sys2Proof.Machine.execTqInfo x s
  | .tqGet x => Sys2Proof.Machine.execTqGet x s
  | .tqSet x => Sys2Proof.Machine.execTqSet x s
  | .gxAdd x => Sys2Proof.Machine.execGxAdd x s
  | .gxRead x => Sys2Proof.Machine.execGxRead x s
  | .gxStep x => Sys2Proof.Machine.execGxStep x s
  | .gxSpread x => Sys2Proof.Machine.execGxSpread x s
  | .gxCtl x => Sys2Proof.Machine.execGxCtl x s
  | .taRec x => Sys2Proof.Machine.execTaRec x s
  | .taMark x => Sys2Proof.Machine.execTaMark x s
  | .taPop x => Sys2Proof.Machine.execTaPop x s
  | .taCtlFlush x => Sys2Proof.Machine.execTaCtlFlush x s
  | .taCtlRewind x => Sys2Proof.Machine.execTaCtlRewind x s
  | .taHash x => Sys2Proof.Machine.execTaHash x s
  | .taGateOff x => Sys2Proof.Machine.execTaGateOff x s
  | .taGateRec x => Sys2Proof.Machine.execTaGateRec x s
  | .taGatePlay x => Sys2Proof.Machine.execTaGatePlay x s
  | .nmUpd x => Sys2Proof.Machine.execNmUpd x s
  | .nmLandInst x => Sys2Proof.Machine.execNmLandInst x s
  | .nmLandRem x => Sys2Proof.Machine.execNmLandRem x s
  | .nmCtlDone x => Sys2Proof.Machine.execNmCtlDone x s
  | .lsLaunch x => Sys2Proof.Machine.execLsLaunch x s
  | .lsSpawn x => Sys2Proof.Machine.execLsSpawn x s
  | .syCsrr x => Sys2Proof.Machine.execSyCsrr x s
  | .syCsrw x => Sys2Proof.Machine.execSyCsrw x s
  | .syCsrs x => Sys2Proof.Machine.execSyCsrs x s
  | .syCsrc x => Sys2Proof.Machine.execSyCsrc x s
  | .syTrap x => Sys2Proof.Machine.execSyTrap x s
  | .syTret x => Sys2Proof.Machine.execSyTret x s
  | .syClk x => Sys2Proof.Machine.execSyClk x s
  | .syRng x => Sys2Proof.Machine.execSyRng x s
  | .storePerform g op lane => Sys2Proof.Machine.execStorePerform g op lane s
  | .loadPerform g op part dr => Sys2Proof.Machine.execLoadPerform g op part dr s
  | .coreWriteDown core line => Sys2Proof.Machine.execCoreWriteDown core line s
  | .clusterWriteDown cluster line => Sys2Proof.Machine.execClusterWriteDown cluster line s
  | .dropLine atCore unit line => Sys2Proof.Machine.execDropLine atCore unit line s
  | .releasePerform g op dr => Sys2Proof.Machine.execReleasePerform g op dr s
  | .acquirePerform g op dr => Sys2Proof.Machine.execAcquirePerform g op dr s
  | .atomicPerform g op addr dr => Sys2Proof.Machine.execAtomicPerform g op addr dr s
  | .scratchAccessPerform g op lane => Sys2Proof.Machine.execScratchAccessPerform g op lane s
  | .fifoPushPerform g op => Sys2Proof.Machine.execFifoPushPerform g op s
  | .fifoPopPerform g op => Sys2Proof.Machine.execFifoPopPerform g op s
  | .pinCounterAgeing cluster => Sys2Proof.Machine.execPinCounterAgeing cluster s
  | .mscWriteback line ok => Sys2Proof.Machine.execMscWriteback line ok s
  | .patrolScrub line dr sram => Sys2Proof.Machine.execPatrolScrub line dr sram s
  | .faultReplay r => Sys2Proof.Machine.execFaultReplay r s
  | .engineEntryResume eng => Sys2Proof.Machine.execEngineEntryResume eng s
  | .queueJoinPerform join => Sys2Proof.Machine.execQueueJoinPerform join s
  | .copyChunkLand core q chunk dr => Sys2Proof.Machine.execCopyChunkLand core q chunk dr s
  | .tileEntryStart pair entry => Sys2Proof.Machine.execTileEntryStart pair entry s
  | .tileCommit pair entry dr => Sys2Proof.Machine.execTileCommit pair entry dr s
  | .transformEntryComplete move => Sys2Proof.Machine.execTransformEntryComplete move s
  | .nmuUpdate stack dr => Sys2Proof.Machine.execNmuUpdate stack dr s
  | .landingInstall stack => Sys2Proof.Machine.execLandingInstall stack s
  | .landingRemove stack => Sys2Proof.Machine.execLandingRemove stack s
  | .nmuDoneWrite stack => Sys2Proof.Machine.execNmuDoneWrite stack s
  | .reductionPacket src => Sys2Proof.Machine.execReductionPacket src s
  | .gossipDeparture ctx rgn => Sys2Proof.Machine.execGossipDeparture ctx rgn s
  | .gossipArrival ctx rgn link p => Sys2Proof.Machine.execGossipArrival ctx rgn link p s
  | .gossipBounce ctx rgn seq => Sys2Proof.Machine.execGossipBounce ctx rgn seq s
  | .gossipAck ctx rgn seq => Sys2Proof.Machine.execGossipAck ctx rgn seq s
  | .gossipSweep ctx rgn => Sys2Proof.Machine.execGossipSweep ctx rgn s
  | .gossipInitComplete ctx rgn => Sys2Proof.Machine.execGossipInitComplete ctx rgn s
  | .gossipModeEffect ctx rgn => Sys2Proof.Machine.execGossipModeEffect ctx rgn s
  | .linkFailure link => Sys2Proof.Machine.execLinkFailure link s
  | .linkRetrain link last partnerReset => Sys2Proof.Machine.execLinkRetrain link last partnerReset s
  | .peerRequest req => Sys2Proof.Machine.execPeerRequest req s
  | .peerAcknowledgement link ans => Sys2Proof.Machine.execPeerAcknowledgement link ans s
  | .hostCxlMemRead addr n dr => Sys2Proof.Machine.execHostCxlMemRead addr n dr s
  | .hostCxlMemWrite addr data => Sys2Proof.Machine.execHostCxlMemWrite addr data s
  | .hostCxlSnoop addr data => Sys2Proof.Machine.execHostCxlSnoop addr data s
  | .hostWindowWrite n e => Sys2Proof.Machine.execHostWindowWrite n e s
  | .hostWindowReadback n => Sys2Proof.Machine.execHostWindowReadback n s
  | .teamPlace => Sys2Proof.Machine.execTeamPlace s
  | .teamEnd team => Sys2Proof.Machine.execTeamEnd team s
  | .scratchReclaim alloc => Sys2Proof.Machine.execScratchReclaim alloc s
  | .granuleReturn g => Sys2Proof.Machine.execGranuleReturn g s
  | .rclaimServed core => Sys2Proof.Machine.execRclaimServed core s
  | .pathTimeout r => Sys2Proof.Machine.execPathTimeout r s
  | .blockedTimeTick role => Sys2Proof.Machine.execBlockedTimeTick role s
  | .spawnTimerExpiry core bin => Sys2Proof.Machine.execSpawnTimerExpiry core bin s
  | .spawnBinLaunch core bin => Sys2Proof.Machine.execSpawnBinLaunch core bin s
  | .preemptTrigger ctx => Sys2Proof.Machine.execPreemptTrigger ctx s
  | .tapeEntryPerform g => Sys2Proof.Machine.execTapeEntryPerform g s
  | .bankDrainComplete cluster bank => Sys2Proof.Machine.execBankDrainComplete cluster bank s
  | .bankClearComplete cluster bank => Sys2Proof.Machine.execBankClearComplete cluster bank s
  | .deviceReset => Sys2Proof.Machine.execDeviceReset s
  | .thermalThrottle steps => Sys2Proof.Machine.execThermalThrottle steps s
  | .thermalCutoff => Sys2Proof.Machine.execThermalCutoff s
  | .coolantFlowLow low => Sys2Proof.Machine.execCoolantFlowLow low s
  | .csrWrite g csr value => Sys2Proof.Machine.execCsrWrite g csr value s
  | .tapebaseWrite g hi value => Sys2Proof.Machine.execTapebaseWrite g hi value s
  | .tapectlWrite g value => Sys2Proof.Machine.execTapectlWrite g value s
  | .gxcfgWrite ctx rgn value => Sys2Proof.Machine.execGxcfgWrite ctx rgn value s
  | .gxlenWrite ctx rgn value => Sys2Proof.Machine.execGxlenWrite ctx rgn value s
  | .gxstatWrite ctx rgn value => Sys2Proof.Machine.execGxstatWrite ctx rgn value s
  | .tilequotaWrite ctx value => Sys2Proof.Machine.execTilequotaWrite ctx value s
  | .rankceilWrite ctx value => Sys2Proof.Machine.execRankceilWrite ctx value s
  | .rankmodeWrite ctx value => Sys2Proof.Machine.execRankmodeWrite ctx value s
  | .ctxCreate => Sys2Proof.Machine.execCtxCreate s
  | .ctxDestroy => Sys2Proof.Machine.execCtxDestroy s
  | .mapPage => Sys2Proof.Machine.execMapPage s
  | .unmap => Sys2Proof.Machine.execUnmap s
  | .decline => Sys2Proof.Machine.execDecline s
  | .keyDestroy => Sys2Proof.Machine.execKeyDestroy s
  | .loadImage => Sys2Proof.Machine.execLoadImage s
  | .launch => Sys2Proof.Machine.execLaunch s
  | .preempt => Sys2Proof.Machine.execPreempt s
  | .resumeCtx => Sys2Proof.Machine.execResumeCtx s
  | .testTrigger => Sys2Proof.Machine.execTestTrigger s
  | .dcAdd => Sys2Proof.Machine.execDcAdd s
  | .dcRelease failed => Sys2Proof.Machine.execDcRelease failed s
  | .flush failed => Sys2Proof.Machine.execFlush failed s
  | .bankSet => Sys2Proof.Machine.execBankSet s
  | .attest => Sys2Proof.Machine.execAttest s
  | .powercap => Sys2Proof.Machine.execPowercap s
  | .mbdoorWrite value words => Sys2Proof.Machine.execMbdoorWrite value words s
  | .eqtailWrite value => Sys2Proof.Machine.execEqtailWrite value s
  | .pincfgWrite cluster value => Sys2Proof.Machine.execPincfgWrite cluster value s
  | .hostDmaRingWrite ctx => Sys2Proof.Machine.execHostDmaRingWrite ctx s
  | .exportTableGrant g => Sys2Proof.Machine.execExportTableGrant g s

end Sys2Proof.Machine
end

