-- ==== Sys2Proof/Machine/Step.lean ====
section
/-! DEFINITION. One step of the machine (spec/03_ordering_machine.md R83): it takes the next action, lets the clock
advance, and performs it. -/

namespace Sys2Proof.Machine

/-- The next action: the first of the agenda, or a free one (log 1). -/
def State.nextAction (s : State) : Action × State :=
  match s.agenda with
  | a :: t => (a, { s with agenda := t })
  | [] => (Config.nextAction s.draws, { s with draws := s.draws + 1 })

/-- Whether a row of the opcode table is a transition and not an encoded instruction. -/
def isTransition (i : Instr) : Bool := i.nbits == 0

/-- One step: a removal of power ends the run (R395). An issue group's turn runs the instruction it selects, under its
path's budget; a transition is performed; an encoded instruction is reached only through a turn. -/
def step (s : State) : Host.Outcome State Fault Refusal :=
  if s.powered then
    let (a, s) := s.nextAction
    let s := { s with clock := s.clock + BitVec.ofNat 64 a.dt }
    match a.act with
    | .event i => if isTransition i then exec i s else .next s
    | .issue r =>
      match s.select r with
      | .go i t => t.budgeted (exec i t)
      | .turn t => .next t
  else .fault .poweredOff

/-- The bytes of an instruction placed from device address 0, with zeros up to the longest instruction. -/
def placeWord (m : Memory) (nbits w : Nat) : Memory :=
  ((toBytes 16 (w % 2 ^ nbits)).zipIdx).foldl (fun m p => SMap.put Memory.unlisted m p.2 p.1) m

/-- The state with an instruction placed where the next step fetches (log 10): context 1 with one team of one group on
core 0, at virtual address 0x70_0000_0000, whose page is mapped for fetch; the group has its turn next. -/
def State.withFetchWord (s : State) (nbits w : Nat) : State :=
  let pc : DWord := 0x7000000000
  { s with
    mem := placeWord s.mem nbits w,
    msc := SMap.ins s.msc 0 { slot := 1, dirty := true, valid := allValid },
    keys := SMap.ins s.keys 1 { key := Config.newKey 1, blocked := false },
    ptab := SMap.ins (SMap.ins (SMap.ins (SMap.ins s.ptab 0xBF00000000 0xBF00001001) 0xBF00001E00 0xBF00002001)
      0xBF00002000 0xBF00003001) 0xBF00003000 0x17,
    ctxs := SMap.ins s.ctxs 1 { root := 0xBF00000000 },
    teams := SMap.ins s.teams 1
      { ctx := 1, krec := { entry := pc, roles := [{ groups := 1, regs := 384, share := 0 }] }, firstIssue := true },
    roles := SMap.ins s.roles 4
      { entries := [{ kind := .path, pc := pc, rpc := none, mask := BitVec.ofNat 3072 (2 ^ 96 - 1) }],
        em := BitVec.ofNat 3072 (2 ^ 96 - 1), threads := BitVec.ofNat 3072 (2 ^ 96 - 1),
        igs := [{ uid := 1, slots := List.replicate 96 (some 0), pc := pc }] },
    groups := SMap.ins s.groups 32 { team := 1, gran := 48 },
    agenda := [{ dt := 0, act := .issue { role := 4, ig := 1 } }],
    nextUid := max s.nextUid 2 }

end Sys2Proof.Machine
end

