-- ==== Sys2Proof/Safety.lean ====
section
/-! DEFINITION. What counts as a safe run, and the terms that statements use: completing, what completing an
instruction leaves as it was, and where results stand. -/

namespace Sys2Proof.Machine

/-- A run of `n` steps that ends in a state: it meets no fault and no refusal. -/
def SafeRun (n : Nat) (s : State) : Prop := ∃ t, Host.Core.run Sys2Proof.core n s = .next t

/-- The state after `n` steps, while the machine goes on. -/
def State.after (s : State) : Nat → Option State
  | 0 => some s
  | n + 1 => (State.after s n).bind fun t => match step t with
    | .next u => some u
    | _ => none

/-- A transition's condition holds: it would change the state. -/
def Enabled (i : Instr) (s : State) : Prop := ∃ t, exec i s = .next t ∧ t ≠ s

/-- A turn of an issue group would do something: run an instruction, take a trap that is due, or settle its role. -/
def Acts (r : IgRef) (s : State) : Prop :=
  match s.select r with
  | .go _ _ => True
  | .turn t => t ≠ { s with cur := r }

/-- What R83 and R184 promise of a run: a transition whose condition stays true from some step on is taken at a later one,
and so is the turn of an issue group that could act at every step from some on. The model's runs are those of every choice
of actions, fair or not (log 1). -/
structure Fair (s : State) : Prop where
  transition : ∀ i n, isTransition i = true → (∀ m, n ≤ m → ∃ t, State.after s m = some t ∧ Enabled i t) →
    ∃ m t, n ≤ m ∧ State.after s m = some t ∧ t.nextAction.1.act = .event i
  turn : ∀ r n, (∀ m, n ≤ m → ∃ t, State.after s m = some t ∧ Acts r t) →
    ∃ m t, n ≤ m ∧ State.after s m = some t ∧ t.nextAction.1.act = .issue r

/-- An outcome is a next state of which `P` holds. -/
def Completes (o : Out) (P : State → Prop) : Prop := ∃ t, o = .next t ∧ P t

/-- Every part of the state outside the groups, the roles, the contexts and the model's own agenda is unchanged: all
memory, every level and bank, every tile, every queue of an engine and every device register. -/
def SameElsewhere (s t : State) : Prop :=
  { t with groups := s.groups, roles := s.roles, ctxs := s.ctxs, agenda := s.agenda } = s

/-- State `s` with what holds memory's bytes as `t` has it: the home points, DRAM, the levels and the clusters' tables,
with the counters and records of DRAM errors. -/
def State.withLevelsOf (s t : State) : State :=
  { s with mem := t.mem, hostMem := t.hostMem, homePoison := t.homePoison, presence := t.presence, msc := t.msc, dram := t.dram,
           stks := t.stks, cores := t.cores, clusters := t.clusters, draws := t.draws, eq := t.eq, eqHead := t.eqHead,
           eqLost := t.eqLost, msix := t.msix }

/-- A copy entry of a core, without a batch and of a home group that supplies the issuing issue group there, in that
group's batch CB (R304). -/
def Queued.inBatch (s : State) (core : Nat) : Queued CopyEntry → Queued CopyEntry
  | .entry e =>
    if e.batch = none ∧ (s.suppliers s.cur).any (fun h => e.group == s.gid h && (s.group (s.gid h)).core == core) then
      .entry { e with batch := some (s.group e.group).cb }
    else .entry e
  | .join i => .join i

/-- What completing an instruction leaves of the control state: nothing outside the groups changes but RETIRED of the
issuing context and whether it has reached PREEMPTAT, the path count and the blocked time of the issuing role, and the
issuing issue group itself. -/
structure Kept (s t : State) : Prop where
  elsewhere : SameElsewhere s t
  ctx : ∀ c, { t.ctx c with retired := (s.ctx c).retired, due := (s.ctx c).due } = s.ctx c
  roles : ∀ r, r ≠ s.cur.role → t.role r = s.role r
  role : { t.role s.cur.role with igs := (s.role s.cur.role).igs, count := (s.role s.cur.role).count,
                                  since := (s.role s.cur.role).since } = s.role s.cur.role
  igs : ∀ q, q ≠ s.cur → t.ig q = s.ig q

/-- As `Kept`, for an instruction that may write execution-mask bits. -/
structure KeptButEm (s t : State) : Prop where
  elsewhere : SameElsewhere s t
  ctx : ∀ c, { t.ctx c with retired := (s.ctx c).retired, due := (s.ctx c).due } = s.ctx c
  roles : ∀ r, r ≠ s.cur.role → t.role r = s.role r
  role : { t.role s.cur.role with em := (s.role s.cur.role).em, igs := (s.role s.cur.role).igs,
                                  count := (s.role s.cur.role).count, since := (s.role s.cur.role).since } =
    s.role s.cur.role
  igs : ∀ q, q ≠ s.cur → t.ig q = s.ig q

/-- The issuing group is one of its role's. -/
def Issuing (s : State) : Prop := ∃ g ∈ (s.role s.cur.role).igs, g.uid = s.cur.ig

/-- The path count of the issuing role, with its blocked time counted unless another of its issue groups is blocked
(R292). -/
def State.pathCount (s : State) : Nat :=
  let r := s.role s.cur.role
  if r.igs.any fun g => g.uid != s.cur.ig && g.wait = .blocked then r.count else (r.ticked s.clock.toNat).count

/-- The issue group stands past an instruction of `len` bytes, which counts once towards the path budget and RETIRED
(R180, R375). -/
structure Past (s t : State) (len : Nat) : Prop where
  pc : Issuing s → (t.ig s.cur).pc = (s.ig s.cur).pc + BitVec.ofNat 64 len
  count : (t.role s.cur.role).count = s.pathCount + 1
  retired : (t.ctx s.curCtx).retired = (s.ctx s.curCtx).retired + 1

/-- The value of a finite code of a float format (R195). -/
def ratOf (t : Ty) (x : Nat) : ℚ :=
  let f := fmt t
  let c := x % 2 ^ f.sign
  let e := c / 2 ^ f.m
  let frac : ℚ := (c % 2 ^ f.m : ℕ) / 2 ^ f.m
  let a : ℚ := if e = 0 then 2 ^ ((1 : Int) - f.bias) * frac else 2 ^ ((e : Int) - f.bias) * (1 + frac)
  if x / 2 ^ f.sign % 2 = 1 then -a else a

/-- A code with its flags is what the procedure `round` of R203 makes of an exact value that is not zero: of the two
multiples of the spacing beside it, the one that the mode names (R202), or beyond the greatest finite value an infinity or
that value. -/
def RoundsTo (t : Ty) (x : ℚ) (rm : Rm) (sat : Bool) (r : Nat × Nat) : Prop :=
  let f := fmt t
  ∃ k : Int, (2 : ℚ) ^ k ≤ |x| ∧ |x| < 2 ^ (k + 1) ∧
    let q : ℚ := 2 ^ (max k (1 - f.bias) - f.m)
    let j := ⌊|x| / q⌋
    let away : Bool := match rm with
      | .rne => true
      | .rtz => false
      | .rup => decide (0 < x)
      | .rdn => decide (x < 0)
    let up : Bool := match rm with
      | .rne => decide (q < 2 * (|x| - q * j) ∨ q = 2 * (|x| - q * j) ∧ j % 2 = 1)
      | _ => away
    let mag : ℚ := if |x| = q * j ∨ up = false then q * j else q * (j + 1)
    let big := ratOf t f.maxFin < mag
    r.1 < 2 ^ (f.sign + 1) ∧ (r.1 / 2 ^ f.sign = 1 ↔ x < 0) ∧
    (¬big → r.1 % 2 ^ f.sign ≤ f.maxFin ∧ |ratOf t r.1| = mag) ∧
    (big → r.1 % 2 ^ f.sign = if f.hasInf = true ∧ sat = false ∧ away = true then f.maxFin + 1 else f.maxFin) ∧
    r.2 = (if mag ≠ |x| ∨ big then 1 else 0) +
      (if mag ≠ |x| ∧ |x| < 2 ^ ((1 : Int) - f.bias) then 2 else 0) + (if big then 4 else 0)

/-- The home groups, by name, that supply an active lane to the issuing issue group. -/
def Supplies (s : State) (g : Nat) : Prop := ∃ h ∈ s.suppliers s.cur, g = s.gid h

/-- s124 to s126 are em0 to em2 (R172). -/
def isEm (n : Nat) : Bool := decide (124 ≤ n ∧ n ≤ 126)

/-- The scalar registers that `w` names for a home group hold the words it gives, in every supplying home group; every
other scalar register, and every other part of every group, is unchanged. -/
structure ScalarResult (s t : State) (w : Nat → List (Nat × Word)) : Prop where
  value : ∀ g, Supplies s g → ∀ p ∈ w g, t.readS g p.1 = p.2
  others : ∀ g n, ¬(Supplies s g ∧ ∃ p ∈ w g, p.1 = n) → SMap.look 0 (t.group g).s n = SMap.look 0 (s.group g).s n
  group : ∀ g, { t.group g with s := (s.group g).s } = s.group g

/-- Lane `l` of group `g` is an active lane of the issuing issue group (R166, R170). -/
def ActiveLane (s : State) (g l : Nat) : Prop := l < 96 ∧ ∃ h, (l, h) ∈ s.lanes s.cur ∧ g = s.gid h

/-- Vector register `d`, or the pair `d`, `d + 1`, holds in every active lane what `f` gives for it, low word first
(R200, R257); FPFLAGS of a supplying home group takes in the flags of its active lanes (R204); every other lane, register
and part of every group is unchanged. -/
structure VectorResult (s t : State) (d : Nat) (wide : Bool) (f : Nat → Nat → Flagged) : Prop where
  value : ∀ g l, ActiveLane s g l → t.readV g d l = BitVec.ofNat 32 (f g l).1
  upper : wide = true → ∀ g l, ActiveLane s g l → t.readV g (d + 1) l = BitVec.ofNat 32 ((f g l).1 / 2 ^ 32)
  others : ∀ g r l, l < 96 → ¬(ActiveLane s g l ∧ (r = d ∨ wide = true ∧ r = d + 1)) → t.readV g r l = s.readV g r l
  flags : ∀ h ∈ s.suppliers s.cur, (t.group (s.gid h)).fpflags =
    (s.group (s.gid h)).fpflags ||| BitVec.ofNat 32 (flagsOf (maskOf (s.lanes s.cur) h) (f (s.gid h)) % 16)
  group : ∀ g, { t.group g with v := (s.group g).v, fpflags := (s.group g).fpflags } = s.group g
  idle : ∀ g, ¬Supplies s g → t.group g = s.group g

/-- Instruction `i` of `len` bytes completes, writing the scalar registers that `w` gives. -/
def WritesScalar (s : State) (i : Instr) (len : Nat) (w : Nat → List (Nat × Word)) : Prop :=
  Completes (exec i s) fun t => ScalarResult s t w ∧ Kept s t ∧ Past s t len

/-- Instruction `i` of `len` bytes completes, writing `f` to vector register `d` of the active lanes. -/
def WritesVector (s : State) (i : Instr) (len : Nat) (d : Nat) (wide : Bool) (f : Nat → Nat → Flagged) : Prop :=
  Completes (exec i s) fun t => VectorResult s t d wide f ∧ Kept s t ∧ Past s t len

/-- The two words of a 64-bit value in the pair `d`, `d + 1` (R200). -/
def pairOf64 (d : Nat) (v : DWord) : List (Nat × Word) := [(d, v.setWidth 32), (d + 1, v.extractLsb' 32 32)]

/-- The comparison of R264 on two words, signed or unsigned. -/
def holdsInt (signed : Bool) (sel : Nat) (a b : Word) : Bool :=
  let lt (a b : Word) : Bool := if signed then a.slt b else a.ult b
  match sel with
  | 0 => a == b
  | 1 => a != b
  | 2 => lt a b
  | 3 => !lt b a
  | 4 => lt b a
  | 5 => !lt a b
  | _ => false

/-- The group records of the supplying home groups name their team, role and home group. -/
def Records (s : State) : Prop :=
  ∀ h ∈ s.suppliers s.cur, teamRole (s.group (s.gid h)).team (s.group (s.gid h)).role = s.cur.role ∧
    (s.group (s.gid h)).home = h

/-- Thread `l` of home group `h` is on the issuing role's current path and has not exited (R165). -/
def liveThread (s : State) (h l : Nat) : Bool :=
  (s.role s.cur.role).path.any (fun e => e.mask.getLsbD (96 * h + l)) &&
    !(s.role s.cur.role).exited.getLsbD (96 * h + l)

/-- The issuing issue group holds thread `l` of home group `h` (R170). -/
def heldLane (s : State) (h l : Nat) : Bool := decide ((s.ig s.cur).slots[l]? = some (some h))

/-- The mask triple at `sd` of each supplying home group holds, for an active lane, what `f` gives; 0 for a lane held but
not active; its old bit for a lane not held (R276). In the part of it that is em0 to em2, only the bits of threads of the
path that have not exited can be 1 (R172). FPFLAGS takes in the flags of the active lanes; nothing else changes. -/
structure MaskResult (s t : State) (sd : Nat) (f : Nat → Nat → Bool × Nat) : Prop where
  value : ∀ h ∈ s.suppliers s.cur, ∀ l, l < 96 → (t.triple (s.gid h) sd).getLsbD l =
    ((!isEm (sd + l / 32) || liveThread s h (32 * (sd + l / 32 - 124) + l % 32)) &&
      (if (l, h) ∈ s.lanes s.cur then (f (s.gid h) l).1
       else if heldLane s h l then false else (s.triple (s.gid h) sd).getLsbD l))
  others : ∀ g n, ¬(Supplies s g ∧ sd ≤ n ∧ n < sd + 3) → SMap.look 0 (t.group g).s n = SMap.look 0 (s.group g).s n
  em : ∀ h l, l < 96 → ¬(h ∈ s.suppliers s.cur ∧ sd ≤ 124 + l / 32 ∧ 124 + l / 32 < sd + 3 ∧ liveThread s h l = true) →
    (t.role s.cur.role).em.getLsbD (96 * h + l) = (s.role s.cur.role).em.getLsbD (96 * h + l)
  flags : ∀ h ∈ s.suppliers s.cur, (t.group (s.gid h)).fpflags = (s.group (s.gid h)).fpflags |||
    BitVec.ofNat 32 (flagsOf (maskOf (s.lanes s.cur) h) (fun l => (0, (f (s.gid h) l).2)) % 16)
  group : ∀ g, { t.group g with s := (s.group g).s, fpflags := (s.group g).fpflags } = s.group g
  idle : ∀ g, ¬Supplies s g → t.group g = s.group g
  kept : KeptButEm s t

/-- The results of a cross-lane instruction that the issue groups of `party` execute in one step: in each home group `h`
of their active lanes, register `d` of the lanes that `sel` gives receives what `f` gives, both from the mask of the lanes
active in the step; FPFLAGS takes in the flags; nothing else of any group changes, and every issue group of the party
moves past (R279, R280). -/
structure CrossResult (s t : State) (party : List IgRef) (d : Nat) (sel : Nat → LaneMask → LaneMask)
    (f : Nat → LaneMask → Nat → Flagged) : Prop where
  value : ∀ h ∈ homesOf (party.flatMap s.lanes), ∀ l, l < 96 →
    (sel (s.gid h) (maskOf (party.flatMap s.lanes) h)).getLsbD l = true →
      t.readV (s.gid h) d l = BitVec.ofNat 32 (f (s.gid h) (maskOf (party.flatMap s.lanes) h) l).1
  others : ∀ g r l, l < 96 → ¬(r = d ∧ ∃ h ∈ homesOf (party.flatMap s.lanes), g = s.gid h ∧
    (sel (s.gid h) (maskOf (party.flatMap s.lanes) h)).getLsbD l = true) → t.readV g r l = s.readV g r l
  flags : ∀ h ∈ homesOf (party.flatMap s.lanes), (t.group (s.gid h)).fpflags = (s.group (s.gid h)).fpflags |||
    BitVec.ofNat 32 (flagsOf (sel (s.gid h) (maskOf (party.flatMap s.lanes) h))
      (f (s.gid h) (maskOf (party.flatMap s.lanes) h)) % 16)
  group : ∀ g, { t.group g with v := (s.group g).v, fpflags := (s.group g).fpflags } = s.group g
  idle : ∀ g, (∀ h ∈ homesOf (party.flatMap s.lanes), g ≠ s.gid h) → t.group g = s.group g
  elsewhere : SameElsewhere s t
  ctx : ∀ c, { t.ctx c with retired := (s.ctx c).retired, due := (s.ctx c).due } = s.ctx c
  roles : ∀ r, r ≠ s.cur.role → t.role r = s.role r
  role : { t.role s.cur.role with igs := (s.role s.cur.role).igs, count := (s.role s.cur.role).count,
                                  since := (s.role s.cur.role).since } = s.role s.cur.role
  past : ((s.role s.cur.role).igs.map (·.uid)).Nodup → ∀ r ∈ party, (t.ig r).pc = (s.ig r).pc + 8
  rest : ∀ q : IgRef, q ∉ party → t.ig q = s.ig q

/-- The issue group goes on at `pc`, outside any clause; the instruction counts once (R180, R375). -/
structure Went (s t : State) (pc : DWord) : Prop where
  ig : Issuing s → t.ig s.cur = { s.ig s.cur with pc := pc, clause := none, wait := .none }
  count : (t.role s.cur.role).count = s.pathCount + 1
  retired : (t.ctx s.curCtx).retired = (s.ctx s.curCtx).retired + 1

/-- The home groups of the issuing issue group have a handler: TRAPVEC is neither 0 nor misaligned, and ACT is 0 in each
(R373). -/
def Handled (s : State) : Prop :=
  (s.team s.curTeam).trapvec ≠ 0 ∧ (s.team s.curTeam).trapvec.toNat % 4 = 0 ∧
    ∀ h ∈ (s.ig s.cur).homes, (s.group (s.gid h)).act = false

/-- The issuing issue group has taken the trap `code` with resume point `pt` and TRAPADDR `addr`, and continues at
TRAPVEC, after `n` more instructions counted (R373, R375). -/
structure TrapTaken (s t : State) (code : Nat) (pt : DWord × Word) (addr : DWord) (n : Nat) : Prop where
  regs : ∀ h ∈ (s.ig s.cur).homes, t.group (s.gid h) =
    { s.group (s.gid h) with trapCause := 0x80000000#32 ||| BitVec.ofNat 32 code, trapPc := pt.1, trapClause := pt.2,
                             trapAddr := addr }
  others : ∀ g, (∀ h ∈ (s.ig s.cur).homes, g ≠ s.gid h) → t.group g = s.group g
  ig : Issuing s → t.ig s.cur =
    { s.ig s.cur with pc := (s.team s.curTeam).trapvec, clause := none, resume := none, wait := .none, ptrap := none,
                      acqDone := [], remote := [] }
  kept : Kept s t
  count : code ≠ 8 → (t.role s.cur.role).count = s.pathCount + n
  retired : (t.ctx s.curCtx).retired = (s.ctx s.curCtx).retired + BitVec.ofNat 64 n

/-- The issuing instruction of `len` bytes has made operation `o`, under the next name, in each supplying home group, with
a part for each active lane, and those that `more` gives a home group after them: it stands last in the outstanding set,
its arrival counter and its completion flag have risen by one (R229, R291), an acquire holds the issue group (R94), and no
register, no memory and nothing else has changed but FPFLAGS and the store hash, which `OpQuiet` speaks of. -/
structure OpIssued (s t : State) (len : Nat) (o : Op) (lane : Nat → Nat → LaneAcc)
    (more : Nat → List LaneAcc := fun _ => []) : Prop where
  ops : ∀ h ∈ s.suppliers s.cur, (t.group (s.gid h)).ops = (s.group (s.gid h)).ops ++
    [{ o with id := s.nextUid, ig := s.cur.ig, outside := (s.ig s.cur).clause.isNone,
              lanes := ((s.lanes s.cur).filter fun p => p.2 == h).map (fun p => lane (s.gid h) p.1) ++
                more (s.gid h) }]
  counter : ∀ h ∈ s.suppliers s.cur, ∀ a, SMap.look 0 (t.group (s.gid h)).ac a =
    SMap.look 0 (s.group (s.gid h)).ac a + if a = o.ac ∧ o.counted = true then 1 else 0
  flag : ∀ h ∈ s.suppliers s.cur, ∀ f, SMap.look 0 (t.group (s.gid h)).cf f =
    SMap.look 0 (s.group (s.gid h)).cf f + if o.cf = some f then 1 else 0
  group : ∀ g, { t.group g with ops := (s.group g).ops, ac := (s.group g).ac, cf := (s.group g).cf,
                                fpflags := (s.group g).fpflags, tapeHash := (s.group g).tapeHash } = s.group g
  idle : ∀ g, ¬Supplies s g → t.group g = s.group g
  acquiring : Issuing s → (t.ig s.cur).acquiring =
    if o.acq = true ∧ s.lanes s.cur ≠ [] then s.nextUid :: (s.ig s.cur).acquiring else (s.ig s.cur).acquiring
  kept : Kept { s with nextUid := s.nextUid + 1 } t
  past : Past s t len

/-- FPFLAGS and the store hash of every group are unchanged. -/
def OpQuiet (s t : State) : Prop :=
  ∀ g, (t.group g).fpflags = (s.group g).fpflags ∧ (t.group g).tapeHash = (s.group g).tapeHash

/-- Every active lane's address is aligned to `n` and passes the checks of R24 for an access of the issuing context. -/
def LanesPass (s : State) (need : Need) (permits : Nat → Bool) (store : Bool) (n : Nat) (addr : Nat → Nat → DWord) : Prop :=
  ∀ p ∈ s.lanes s.cur, (addr (s.gid p.2) p.1).toNat % n = 0 ∧
    ∃ t, s.check s.curCtx need permits store (addr (s.gid p.2) p.1).toNat = .ok t

/-- Every active lane's scratch offset is aligned to `n` and lies in the team's allocation (R10). -/
def OffsetsPass (s : State) (n : Nat) (off : Nat → Nat → Int) : Prop :=
  ∀ p ∈ s.lanes s.cur, off (s.gid p.2) p.1 % n = 0 ∧ 0 ≤ off (s.gid p.2) p.1 ∧
    off (s.gid p.2) p.1 + n ≤ (s.scratchOf s.curTeam).size

/-- The issuing issue group waits without effect, and its role's blocked time runs from now unless it ran before (R292).
-/
structure Blocks (s t : State) : Prop where
  ig : Issuing s → t.ig s.cur = { s.ig s.cur with wait := .blocked }
  since : (t.role s.cur.role).since = some ((s.role s.cur.role).since.getD s.clock.toNat)
  count : (t.role s.cur.role).count = (s.role s.cur.role).count
  groups : t.groups = s.groups
  ctxs : t.ctxs = s.ctxs
  kept : Kept s t

/-- A window entry has entered its pair's tile window, after the others: the turn has come to its team, and in the clock
of a follower's entry none of the leader enters after it (R192). -/
structure Admitted (s t : State) (e : WEntry) : Prop where
  window : (t.pair (s.teamPair e.team)).window = (s.pair (s.teamPair e.team)).window ++ [e]
  turn : (t.pair (s.teamPair e.team)).turn = s.windowKey e.team
  follow : (t.pair (s.teamPair e.team)).follow =
    if leads (s.group e.group).core then (s.pair (s.teamPair e.team)).follow else some s.clock.toNat
  others : ∀ p, p ≠ s.teamPair e.team → t.pair p = s.pair p

/-- The checks of R308 for one home group's entry against a table: the TRAPADDR of a failure, and the table after. -/
def bindOne (t : List Bind) (base obj : DWord) (lines : Word) : Option DWord × List Bind :=
  let b : Bind := { base := base.toNat / 64, lines := lines.toNat, obj := obj.toNat / 8 }
  if base.toNat % 64 ≠ 0 ∨ 2 ^ 48 ≤ base.toNat then (some base, t)
  else if obj.toNat % 8 ≠ 0 ∨ 2 ^ 48 ≤ obj.toNat then (some obj, t)
  else if lines.toNat = 0 ∨ 67108863 < lines.toNat then (some (lines.setWidth 64), t)
  else if b ∈ t then (none, t)
  else if ({ binds := t } : Ctx).bindFits b then (none, t ++ [b]) else (some base, t)

/-- R308 for the home groups in turn, up to the first that fails. -/
def bindAll (s : State) (x : MsArgs) : List Nat → List Bind → Option DWord × List Bind
  | [], t => (none, t)
  | h :: hs, t =>
    match bindOne t (s.readS64 (s.gid h) x.sa) (s.readS64 (s.gid h) x.sb) (s.readS (s.gid h) (x.sa + 2)) with
    | (none, t) => bindAll s x hs t
    | r => r

/-- Nothing of a state has changed but the binding table of a context and what issuing an instruction changes. -/
def OnlyBinds (s t : State) (c : Nat) : Prop :=
  t.groups = s.groups ∧ SameElsewhere s t ∧
    ∀ n, { t.ctx n with retired := (s.ctx n).retired, due := (s.ctx n).due, binds := if n = c then (s.ctx n).binds else (t.ctx n).binds } = s.ctx n

/-- A home group has one outstanding operation of that name. -/
def OneOp (s : State) (g : Nat) (o : Op) : Prop := ((s.group g).ops.filter fun p => p.id == o.id) = [o]

/-- An operation has left its home group: its arrival counter and its completion flag have fallen by one (R229, R291). -/
structure OpEnded (s t : State) (g : Nat) (o : Op) : Prop where
  gone : t.op? g o.id = none
  counter : ∀ a, SMap.look 0 (t.group g).ac a = SMap.look 0 (s.group g).ac a - if a = o.ac ∧ o.counted = true then 1 else 0
  flag : ∀ f, SMap.look 0 (t.group g).cf f = SMap.look 0 (s.group g).cf f - if o.cf = some f then 1 else 0

/-- The results of a class L instruction issued inside a clause are to come in home group `g` (R229, R231): an operation,
performed and last in the outstanding set, holds for each lane of `on` the words that `val` gives for registers `d` to
`d + n - 1`, and the flag that `cf` names counts it. -/
def ToCome (s t : State) (cf g d n : Nat) (on : Nat → Prop) (val : Nat → Nat → Nat) : Prop :=
  (∀ f, SMap.look 0 (t.group g).cf f = SMap.look 0 (s.group g).cf f + if s.flagOf cf = some f then 1 else 0) ∧
  ∃ o, (t.group g).ops = (s.group g).ops ++ [o] ∧ o.kind = .load ∧ o.accepted = true ∧ o.ready = true ∧ o.outside = false ∧
    o.acq = false ∧ o.scratch = false ∧ o.cv = false ∧ o.ty = .b32 ∧ o.d = d ∧ o.cnt = n ∧ o.cf = s.flagOf cf ∧
    (o.lanes.map (·.lane)).Nodup ∧ (∀ l, (∃ a ∈ o.lanes, a.lane = l) ↔ l < 96 ∧ on l) ∧
    ∀ a ∈ o.lanes, a.done = true ∧ a.acked = true ∧ a.psn = [] ∧
      ∀ i, i < n → ofLE ((a.bytes.drop (4 * i)).take 4) = val i a.lane

/-- Every group is as it was but for its outstanding set, its flags and its FPFLAGS. -/
def OnlyToCome (s t : State) : Prop :=
  ∀ g, { t.group g with ops := (s.group g).ops, cf := (s.group g).cf, fpflags := (s.group g).fpflags } = s.group g

/-- Instruction `i` of `len` bytes, inside a clause, leaves `f` for register `d` of the active lanes to come. -/
def LeavesVector (s : State) (i : Instr) (len cf d : Nat) (f : Nat → Nat → Flagged) : Prop :=
  Completes (exec i s) fun t => OnlyToCome s t ∧
    (∀ h ∈ s.suppliers s.cur,
      ToCome s t cf (s.gid h) d 1 (ActiveLane s (s.gid h)) (fun _ l => (f (s.gid h) l).1 % 2 ^ 32) ∧
      (t.group (s.gid h)).fpflags = (s.group (s.gid h)).fpflags |||
        BitVec.ofNat 32 (flagsOf (maskOf (s.lanes s.cur) h) (f (s.gid h)) % 16)) ∧
    (∀ g, ¬Supplies s g → t.group g = s.group g) ∧ Kept { s with nextUid := t.nextUid } t ∧ Past s t len

/-- A cross-lane instruction that the issue groups of `party` execute inside a clause leaves its results to come. -/
structure CrossToCome (s t : State) (party : List IgRef) (cf d : Nat) (sel : Nat → LaneMask → LaneMask)
    (f : Nat → LaneMask → Nat → Flagged) : Prop where
  value : ∀ h ∈ homesOf (party.flatMap s.lanes),
    let m := sel (s.gid h) (maskOf (party.flatMap s.lanes) h)
    (∃ l, l < 96 ∧ m.getLsbD l = true) → ToCome s t cf (s.gid h) d 1 (fun l => m.getLsbD l = true)
      fun _ l => (f (s.gid h) (maskOf (party.flatMap s.lanes) h) l).1 % 2 ^ 32
  only : OnlyToCome s t
  idle : ∀ g, (∀ h ∈ homesOf (party.flatMap s.lanes), g ≠ s.gid h) → t.group g = s.group g
  elsewhere : SameElsewhere { s with nextUid := t.nextUid } t
  past : ((s.role s.cur.role).igs.map (·.uid)).Nodup → ∀ r ∈ party, (t.ig r).pc = (s.ig r).pc + 8
  rest : ∀ q : IgRef, q ∉ party → t.ig q = s.ig q

/-- Every byte of a span lies in a line of the memory-side cache that is fully valid under a context's key slot, which is
not blocked (R44). -/
def Homed (s : State) (ctx key n : Nat) : Prop :=
  (s.keySlot ctx).blocked = false ∧
    ∀ i, i < n → ∃ m, findKey s.msc ((key + i) / 64) = some m ∧ m.slot = ctx ∧ m.valid = allValid

/-- The gossip element at a place, as its port reads it (R133, R150). -/
def State.elem (s : State) (ctx key : Nat) : GElem := (s.readElem ctx key).2

/-- A mailbox command of code `n` is in progress and has changed nothing yet (R391). -/
structure Commanded (s : State) (n : Nat) : Prop where
  ready : s.mbstatReady = true
  busy : s.mbstatBusy = true
  code : s.cmdCode = n
  first : s.mbMoved = false

/-- The command has completed with a status and results: BUSY is 0, SEQ has advanced, and MSI-X vector 1 is raised
(R392). -/
structure Answered (s t : State) (status : Nat) (results : List DWord) : Prop where
  busy : t.mbstatBusy = false
  last : t.mbstatLast = BitVec.ofNat 8 status
  seq : t.mbstatSeq = s.mbstatSeq + 1
  response : t.mbrsp = fillBuffer s.mbrsp (BitVec.ofNat 64 status :: results)
  msix : SMap.look 0 t.msix 1 = SMap.look 0 s.msix 1 + 1

/-- The command in progress completes with a status and results in a state of which `P` holds. -/
def Answers (s : State) (i : Instr) (status : Nat) (results : List DWord) (P : State → Prop) : Prop :=
  Completes (exec i s) fun t => Answered s t status results ∧ P t

/-- Every context but one is unchanged. -/
def OtherCtxs (s t : State) (c : Nat) : Prop := ∀ n, n ≠ c → t.ctx n = s.ctx n

/-- A span of `n` bytes holds what `f` gives at home, under a context's key slot and unpoisoned. -/
def Plain (s : State) (ctx key n : Nat) (f : Nat → Byte) : Prop :=
  Homed s ctx key n ∧ ∀ i, i < n → s.readMem (key + i) = f i ∧ s.homePoisoned (key + i) = false

/-- The bytes of a span have taken the values of a list. Where the memory-side cache holds the lines of the span, or they
are host memory's, so that no other line leaves it to make room (R128), every byte of memory that shares no line with them
is unchanged. -/
def SpanTakes (s t : State) (key : Nat) (bs : List Byte) : Prop :=
  ∀ k, (key ≤ k ∧ k < key + bs.length → t.readMem k = bs.getD (k - key) 0) ∧
    ((∀ i, i < bs.length → (key + i) / 64 ≠ k / 64 ∧ (key + i < 2 ^ 64 → SMap.has s.msc ((key + i) / 64) = true)) →
      t.readMem k = s.readMem k)

end Sys2Proof.Machine
end

