-- ==== Sys2Proof/Certificates/Slice0/Obligations.lean ====
section
/-! DEFINITION. The statements for the provers. An instruction's statement says that it completes, under conditions on the
state and its operands alone, with its result and all that it leaves as it was. -/

open Sys2Proof Sys2Proof.Machine

/-- R261, R262: so.add to so.xor, so.min and so.max write SD of each supplying home group from its own SA and SB, and
change nothing else. An SD of s124 to s126 is the subject of EmWrite. R262: the shifts, comparison, selection and bit
counts. R263: the bit-field forms. Bit `i` of an extracted field is bit `pos + i` of SA for `i` below wid, with SA read
beyond bit 31 as zero or as copies of bit 31, and a copy of the field's highest bit, or zero, above; an insertion changes
the positions from pos to below min(pos + wid, 32). R262: the 64-bit forms, on pairs. R265: the identifiers that so.rdid
reads. R266: the sk forms are the so operations with IMM32 in place of SB, at their own length of 12 bytes. -/
def Obligations.ScalarForms : Prop :=
  (∀ (x : SoArgs) (s : State), isEm x.sd = false →
     let a := fun g => s.readS g x.sa
     let b := fun g => s.readS g x.sb
     WritesScalar s (.soAdd x) 8 (fun g => [(x.sd, a g + b g)]) ∧
     WritesScalar s (.soSub x) 8 (fun g => [(x.sd, a g - b g)]) ∧
     WritesScalar s (.soMul x) 8 (fun g => [(x.sd, a g * b g)]) ∧
     WritesScalar s (.soAnd x) 8 (fun g => [(x.sd, a g &&& b g)]) ∧
     WritesScalar s (.soOr x) 8 (fun g => [(x.sd, a g ||| b g)]) ∧
     WritesScalar s (.soXor x) 8 (fun g => [(x.sd, a g ^^^ b g)]) ∧
     (x.ty = .i32 →
       WritesScalar s (.soMulh x) 8 (fun g => [(x.sd, ((a g).signExtend 64 * (b g).signExtend 64).extractLsb' 32 32)]) ∧
       WritesScalar s (.soMin x) 8 (fun g => [(x.sd, if (b g).toInt < (a g).toInt then b g else a g)]) ∧
       WritesScalar s (.soMax x) 8 (fun g => [(x.sd, if (a g).toInt < (b g).toInt then b g else a g)])) ∧
     (x.ty = .n32 →
       WritesScalar s (.soMulh x) 8 (fun g => [(x.sd, ((a g).setWidth 64 * (b g).setWidth 64).extractLsb' 32 32)]) ∧
       WritesScalar s (.soMin x) 8 (fun g => [(x.sd, if (b g).toNat < (a g).toNat then b g else a g)]) ∧
       WritesScalar s (.soMax x) 8 (fun g => [(x.sd, if (a g).toNat < (b g).toNat then b g else a g)]))) ∧
  (∀ (x : SoArgs) (s : State), isEm x.sd = false →
     let a := fun g => s.readS g x.sa
     let b := fun g => s.readS g x.sb
     let n := fun g => (b g).toNat % 64
     WritesScalar s (.soShl x) 8 (fun g => [(x.sd, if 32 ≤ n g then 0 else a g <<< n g)]) ∧
     WritesScalar s (.soShr x) 8 (fun g => [(x.sd, if 32 ≤ n g then 0 else a g >>> n g)]) ∧
     WritesScalar s (.soSra x) 8 (fun g => [(x.sd,
       if 32 ≤ n g then (if (a g).msb then BitVec.allOnes 32 else 0) else (a g).sshiftRight (n g))]) ∧
     (x.ty = .i32 ∨ x.ty = .n32 →
       WritesScalar s (.soCmp x) 8 (fun g => [(x.sd,
         if holdsInt (decide (x.ty = .i32)) x.sel (a g) (b g) then 1 else 0)])) ∧
     WritesScalar s (.soSel x) 8 (fun g => [(x.sd, if s.readS g x.sx = 0 then b g else a g)]) ∧
     WritesScalar s (.soPopc x) 8 (fun g => [(x.sd, BitVec.ofNat 32 ((List.range 32).countP fun i => (a g).getLsbD i))]) ∧
     (∃ clz : Word → Nat, (∀ v, clz v ≤ 32 ∧ v.toNat < 2 ^ (32 - clz v) ∧ (v ≠ 0 → 2 ^ (31 - clz v) ≤ v.toNat)) ∧
       clz 0 = 32 ∧ WritesScalar s (.soClz x) 8 (fun g => [(x.sd, BitVec.ofNat 32 (clz (a g)))]))) ∧
  (∀ (x : SoArgs) (s : State), isEm x.sd = false →
     let pos := fun g => (s.readS g x.sb).toNat % 32
     let wid := fun g => min ((s.readS g x.sb).toNat / 256 % 64) 32
     (x.ty = .i32 ∨ x.ty = .n32 → ∃ f : Nat → Word, WritesScalar s (.soBfe x) 8 (fun g => [(x.sd, f g)]) ∧
       ∀ g i, i < 32 →
         let at_ := fun k => if k < 32 then (s.readS g x.sa).getLsbD k else decide (x.ty = .i32) && (s.readS g x.sa).msb
         (f g).getLsbD i = if i < wid g then at_ (pos g + i)
           else decide (x.ty = .i32) && decide (0 < wid g) && at_ (pos g + wid g - 1)) ∧
     (∃ f : Nat → Word, WritesScalar s (.soBfi x) 8 (fun g => [(x.sd, f g)]) ∧
       ∀ g i, i < 32 → (f g).getLsbD i =
         if pos g ≤ i ∧ i < pos g + wid g then (s.readS g x.sa).getLsbD (i - pos g) else (s.readS g x.sx).getLsbD i)) ∧
  (∀ (x : SoArgs) (s : State), isEm x.sd = false → isEm (x.sd + 1) = false →
     let a := fun g => s.readS g (x.sa + 1) ++ s.readS g x.sa
     let b := fun g => s.readS g (x.sb + 1) ++ s.readS g x.sb
     let e := fun g => if x.ty = .i32 then (s.readS g x.sb).signExtend 64 else (s.readS g x.sb).setWidth 64
     WritesScalar s (.soAdd64 x) 8 (fun g => pairOf64 x.sd (a g + b g)) ∧
     WritesScalar s (.soLea x) 8 (fun g => pairOf64 x.sd (a g + e g * BitVec.ofNat 64 (2 ^ x.sel))) ∧
     (x.ty = .b64 → WritesScalar s (.soMov x) 8 (fun g => pairOf64 x.sd (a g))) ∧
     (x.ty = .b32 → WritesScalar s (.soMov x) 8 (fun g => [(x.sd, s.readS g x.sa)]))) ∧
  (∀ (x : SoArgs) (s : State), isEm x.sd = false → x.sel < 8 →
     WritesScalar s (.soRdid x) 8 (fun g => [(x.sd, BitVec.ofNat 32 (
       let y := s.group g
       let t := s.team y.team
       [y.home, t.num, t.groups, y.role, y.core, y.core / 8, t.ctx, (s.grid t.grid).seq].getD x.sel 0))])) ∧
  (∀ (x : SkArgs) (s : State), isEm x.sd = false →
     let a := fun g => s.readS g x.sa
     let i := BitVec.ofNat 32 x.imm
     WritesScalar s (.skMov x) 12 (fun _ => [(x.sd, i)]) ∧
     WritesScalar s (.skAdd x) 12 (fun g => [(x.sd, a g + i)]) ∧
     WritesScalar s (.skAnd x) 12 (fun g => [(x.sd, a g &&& i)]) ∧
     WritesScalar s (.skOr x) 12 (fun g => [(x.sd, a g ||| i)]) ∧
     WritesScalar s (.skXor x) 12 (fun g => [(x.sd, a g ^^^ i)]) ∧
     (x.ty = .i32 ∨ x.ty = .n32 →
       WritesScalar s (.skCmp x) 12 (fun g => [(x.sd, if holdsInt (decide (x.ty = .i32)) x.sel (a g) i then 1 else 0)])))

/-- R172, R261: a so, sk, sy.csrr or sy.clk instruction whose SD names s124, s125 or s126, in its first or its second
register, writes there, in each supplying home group, the execution-mask bits of the threads of the current path that have
not exited, with the word that it writes when SD is s0; only a second register s127 is a scalar register that changes. The
group records name their team, role and home group, as TeamPlacement says they do. -/
def Obligations.ScalarExecutionMask : Prop :=
  ∀ (s u : State) (i j : Instr) (d n len : Nat), isEm d = true →
    Records s →
    ((∃ x : SoArgs, x.sd = d ∧ n = 1 ∧ len = 8 ∧ ∃ c ∈ [Instr.soAdd, .soSub, .soMul, .soMulh, .soAnd, .soOr, .soXor,
        .soShl, .soShr, .soSra, .soMin, .soMax, .soCmp, .soSel, .soBfe, .soBfi, .soPopc, .soClz, .soRdid],
        i = c x ∧ j = c { x with sd := 0 }) ∨
     (∃ x : SoArgs, x.sd = d ∧ n = 2 ∧ len = 8 ∧ ∃ c ∈ [Instr.soAdd64, .soLea], i = c x ∧ j = c { x with sd := 0 }) ∨
     (∃ x : SoArgs, x.sd = d ∧ n = (if x.ty = .b64 then 2 else 1) ∧ len = 8 ∧ i = .soMov x ∧
        j = .soMov { x with sd := 0 }) ∨
     (∃ x : SkArgs, x.sd = d ∧ n = 1 ∧ len = 12 ∧ ∃ c ∈ [Instr.skMov, .skAdd, .skAnd, .skOr, .skXor, .skCmp],
        i = c x ∧ j = c { x with sd := 0 }) ∨
     (∃ x : SyArgs, x.sd = d ∧ len = 8 ∧ ((n = 1 ∧ i = .syCsrr x ∧ j = .syCsrr { x with sd := 0 }) ∨
        (n = 2 ∧ i = .syClk x ∧ j = .syClk { x with sd := 0 })))) →
    exec j s = .next u →
    Completes (exec i s) fun t =>
      Past s t len ∧ KeptButEm s t ∧
      (∀ g, { t.group g with s := (s.group g).s } = s.group g ∧ ∀ m,
        (Supplies s g ∧ d = 126 ∧ n = 2 ∧ m = 127 → SMap.look 0 (t.group g).s m = u.readS g 1) ∧
        (¬(Supplies s g ∧ d = 126 ∧ n = 2 ∧ m = 127) → SMap.look 0 (t.group g).s m = SMap.look 0 (s.group g).s m)) ∧
      ∀ h l, h < 32 → l < 96 → (t.role s.cur.role).em.getLsbD (96 * h + l) =
        if h ∈ s.suppliers s.cur ∧ d ≤ 124 + l / 32 ∧ 124 + l / 32 < d + n ∧
            liveThread s h l = true
        then (u.readS (s.gid h) (124 + l / 32 - d)).getLsbD (l % 32)
        else (s.role s.cur.role).em.getLsbD (96 * h + l)

/-- R267, R268: the vo integer and bitwise operations on register pairs and registers: each active lane receives the
wrapped or clamped result of its own operands; no flag is set. R263, R268: the vo shifts, bit fields and bit counts give
what the so operations of the same name give. R271: sel and mov, on words or pairs. -/
def Obligations.VectorIntegerForms : Prop :=
  (∀ (x : VoArgs) (s : State),
     let wide := x.ty.is64
     let m := if wide then 2 ^ 64 else 2 ^ 32
     let a := fun g l => s.opnd g l x.a wide
     let b := fun g l => s.opnd g l x.b wide
     let w := fun g l => BitVec.ofNat 32 (a g l)
     let v := fun g l => BitVec.ofNat 32 (b g l)
     let vec := fun i f => WritesVector s i 8 x.d wide fun g l => (f g l, 0)
     (x.ty ∈ [Ty.i32, .n32, .i64, .n64] → x.sat = false →
       vec (.voAdd x) (fun g l => (a g l + b g l) % m) ∧ vec (.voSub x) (fun g l => (m + a g l - b g l) % m)) ∧
     (x.ty = .i32 → x.sat = true →
       let clamp := fun z : Int => (BitVec.ofInt 32 (max (-2 ^ 31) (min (2 ^ 31 - 1) z))).toNat
       vec (.voAdd x) (fun g l => clamp ((w g l).toInt + (v g l).toInt)) ∧
       vec (.voSub x) (fun g l => clamp ((w g l).toInt - (v g l).toInt))) ∧
     (x.ty = .n32 → x.sat = true →
       vec (.voAdd x) (fun g l => min (2 ^ 32 - 1) (a g l + b g l)) ∧ vec (.voSub x) (fun g l => a g l - b g l)) ∧
     (x.ty = .i32 →
       vec (.voMull x) (fun g l => (w g l * v g l).toNat) ∧
       vec (.voMulh x) (fun g l => ((w g l).signExtend 64 * (v g l).signExtend 64).toNat / 2 ^ 32) ∧
       vec (.voMin x) (fun g l => if (w g l).toInt ≤ (v g l).toInt then a g l else b g l) ∧
       vec (.voMax x) (fun g l => if (w g l).toInt ≤ (v g l).toInt then b g l else a g l) ∧
       vec (.voAbs x) (fun g l => if (w g l).toInt = -2 ^ 31 ∧ x.sat = true then 2 ^ 31 - 1 else (w g l).toInt.natAbs)) ∧
     (x.ty = .n32 →
       vec (.voMull x) (fun g l => a g l * b g l % 2 ^ 32) ∧ vec (.voMulh x) (fun g l => a g l * b g l / 2 ^ 32) ∧
       vec (.voMin x) (fun g l => min (a g l) (b g l)) ∧ vec (.voMax x) (fun g l => max (a g l) (b g l))) ∧
     vec (.voAnd x) (fun g l => a g l &&& b g l) ∧ vec (.voOr x) (fun g l => a g l ||| b g l) ∧
     vec (.voXor x) (fun g l => a g l ^^^ b g l)) ∧
  (∀ (x : VoArgs) (s : State), x.ty.is64 = false →
     let a := fun g l => s.src g l x.a
     let b := fun g l => s.src g l x.b
     let n := fun g l => (b g l).toNat % 64
     let vec := fun i (f : Nat → Nat → Word) => WritesVector s i 8 x.d false fun g l => ((f g l).toNat, 0)
     vec (.voShl x) (fun g l => if 32 ≤ n g l then 0 else a g l <<< n g l) ∧
     vec (.voShr x) (fun g l => if 32 ≤ n g l then 0 else a g l >>> n g l) ∧
     vec (.voSra x) (fun g l => (a g l).sshiftRight (min (n g l) 32)) ∧
     vec (.voBfe x) (fun g l => bfe32 x.ty (a g l) (b g l)) ∧
     vec (.voPopc x) (fun g l => BitVec.ofNat 32 ((List.range 32).countP fun i => (a g l).getLsbD i)) ∧
     vec (.voClz x) (fun g l => clz32 (a g l)) ∧
     (∃ f : Nat → Nat → Word, vec (.voBrev x) f ∧ ∀ g l i, i < 32 → (f g l).getLsbD i = (a g l).getLsbD (31 - i))) ∧
  (∀ (x : VoArgs) (s : State),
     let wide := x.ty.is64
     WritesVector s (.voSel x) 8 x.d wide (fun g l =>
       (if (s.triple g (8 * x.sel)).getLsbD l then s.opnd g l x.a wide else s.opnd g l x.b wide, 0)) ∧
     WritesVector s (.voMov x) 8 x.d wide (fun g l => (s.opnd g l x.a wide, 0)))

/-- R267, R269, R270: the vo float operations: the result and the flags of the number format's own operation, applied to
both elements of the 16-bit types. R270: conversion and rounding to an integral value: a wide result fills the register, a
narrow one is placed as element SEL with every other bit 0; a narrow source of a wide result is element SEL. -/
def Obligations.VectorFloatForms : Prop :=
  (∀ (x : VoArgs) (s : State), x.ty ∈ [Ty.f64, .f32, .f16, .bf16] →
     let t := x.ty
     let wide := t.is64
     let inv := fun a b => if isSNaN t a || isSNaN t b then fINV else 0
     let vec := fun i (f : Nat → Nat → Flagged) => WritesVector s i 8 x.d wide fun g l =>
       perElem t (fun a b _ => f a b) (s.opnd g l x.a wide) (s.opnd g l x.b wide) 0
     vec (.voFadd x) (fun a b => addF t a b x.rm x.sat) ∧
     vec (.voFsub x) (fun a b => subF t a b x.rm x.sat) ∧
     vec (.voFmul x) (fun a b => mulF t a b x.rm x.sat) ∧
     vec (.voMin x) (fun a b => (minmaxF false t a b, inv a b)) ∧
     vec (.voMax x) (fun a b => (minmaxF true t a b, inv a b)) ∧
     vec (.voAbs x) (fun a _ => (absF t a, 0)) ∧
     vec (.voFmin x) (fun a b => (if isNaN t a && !isNaN t b then b else if isNaN t b && !isNaN t a then a
       else minmaxF false t a b, inv a b)) ∧
     vec (.voFmax x) (fun a b => (if isNaN t a && !isNaN t b then b else if isNaN t b && !isNaN t a then a
       else minmaxF true t a b, inv a b))) ∧
  (∀ (x : VoArgs) (s : State),
     let narrow := fun t => WellFormed.narrowPerWord t != 0
     let a := fun g l => s.opnd g l x.a x.ty2.is64
     (Instr.wf (.voCvt x) = true → WritesVector s (.voCvt x) 8 x.d x.ty.is64 fun g l =>
       if narrow x.ty then
         let r := cvtElem x.ty x.ty2 x.rm x.sat (a g l % 2 ^ elemBits x.ty2)
         (r.1 * 2 ^ (elemBits x.ty * x.sel), r.2)
       else
         let e := if narrow x.ty2 then a g l / 2 ^ (elemBits x.ty2 * x.sel) % 2 ^ elemBits x.ty2
           else a g l % 2 ^ elemBits x.ty2
         let r := cvtElem x.ty x.ty2 x.rm x.sat e
         (extendInt x.ty r.1, r.2)) ∧
     (Instr.wf (.voRnd x) = true → WritesVector s (.voRnd x) 8 x.d x.ty.is64 fun g l =>
       let v := s.opnd g l x.a x.ty.is64
       if narrow x.ty then
         let r := rndF x.ty (v % 2 ^ elemBits x.ty) x.rm
         (r.1 * 2 ^ (elemBits x.ty * x.sel), r.2)
       else rndF x.ty v x.rm))

/-- R207: e8_floor gives a NaN 0xFF, a zero 0x00, an infinity 0xFE, and any other value of a float format the floor of the
base-2 logarithm of its magnitude plus 127, held between 0 and 254. The conversion to e8 is that code, and sets no flag.
-/
def Obligations.ScaleCodes : Prop :=
  ∀ t ∈ [Ty.f64, .f32, .bf16, .f16, .f8e5, .f8e4, .f4], ∀ (x : Nat) (rm : Rm) (sat : Bool), x < 2 ^ ((fmt t).sign + 1) →
    let m := x % 2 ^ (fmt t).sign
    let top := (fmt t).maxFin
    cvtElem .e8 t rm sat x = (e8Floor t x, 0) ∧
    ((if (fmt t).hasInf then top + 1 < m else top < m) → e8Floor t x = 0xFF) ∧
    (m = 0 → e8Floor t x = 0) ∧
    ((fmt t).hasInf = true → m = top + 1 → e8Floor t x = 0xFE) ∧
    (0 < m → m ≤ top → (e8Floor t x : Int) = max 0 (min 254 (Int.log 2 |ratOf t x| + 127)))

/-- R195, R196, R202, R203, R205: the sum, difference, product, quotient and fused sum of finite values of a format, and
the conversion of one, are rounded once, as the mode says, with the flags of R203; an exact zero has the sign that R203
gives it. An infinity follows IEEE 754, an invalid operation gives the default NaN and INV, and a NaN operand, the lowest-
numbered, comes out quiet, with INV where one is signalling. The layouts are those of R195. -/
def Obligations.FloatRounding : Prop :=
  (fmt .f64 = ⟨52, 1023, 0x7FEFFFFFFFFFFFFF, true, 63⟩ ∧ fmt .f32 = ⟨23, 127, 0x7F7FFFFF, true, 31⟩ ∧
    fmt .bf16 = ⟨7, 127, 0x7F7F, true, 15⟩ ∧ fmt .f16 = ⟨10, 15, 0x7BFF, true, 15⟩ ∧ fmt .f8e5 = ⟨2, 15, 0x7B, true, 7⟩ ∧
    fmt .f8e4 = ⟨3, 7, 0x7E, false, 7⟩ ∧ fmt .f4 = ⟨1, 1, 0x7, false, 3⟩) ∧
  (∀ t ∈ [Ty.f64, .f32, .f16, .bf16, .f8e5, .f8e4, .f4], ∀ u ∈ [Ty.f64, .f32, .f16, .bf16, .f8e5, .f8e4, .f4],
    ∀ (x : Nat) (rm : Rm) (sat : Bool), x % 2 ^ (fmt t).sign ≤ (fmt t).maxFin → ratOf t x ≠ 0 →
      RoundsTo u (ratOf t x) rm sat (cvtF u t x rm sat)) ∧
  ∀ p ∈ [(Ty.f64, 0x7FF8000000000000), (.f32, 0x7FC00000), (.f16, 0x7E00), (.bf16, 0x7FC0)],
    let t := p.1
    let f := fmt t
    let top := 2 ^ f.sign
    ∀ (a b c : Nat) (rm : Rm) (sat : Bool), a < 2 * top → b < 2 * top → c < 2 * top →
    let fin := fun x => x % top ≤ f.maxFin
    let inf := fun x => x % top = f.maxFin + 1
    let nan := fun x => f.maxFin + 1 < x % top
    let v := ratOf t
    let sgn := fun (x : Nat) => x / top
    let cross := (a / top + b / top) % 2
    let signed := fun s m => (s * top + m, 0)
    let invalid := (p.2, 8)
    let quiet := fun (x : Nat) (xs : List Nat) => (x ||| 2 ^ (f.m - 1),
      if xs.any (fun y => decide (f.maxFin + 1 < y % top) && !y.testBit (f.m - 1)) then 8 else 0)
    let rounds := fun x s r => (x ≠ 0 → RoundsTo t x rm sat r) ∧ (x = 0 → r = signed s 0)
    let zero := fun s u => if s = u then s else if rm = .rdn then 1 else 0
    let nans := fun (g : Nat → Nat → Nat × Nat) => (nan a → g a b = quiet a [a, b]) ∧ (¬nan a → nan b → g a b = quiet b [a, b])
    (fin a → fin b → rounds (v a + v b) (zero (sgn a) (sgn b)) (addF t a b rm sat) ∧
      rounds (v a * v b) cross (mulF t a b rm sat) ∧
      (v b ≠ 0 → rounds (v a / v b) cross (divF t a b rm sat)) ∧
      (v b = 0 → divF t a b rm sat = if v a = 0 then invalid else (cross * top + f.maxFin + 1, 4)) ∧
      (fin c → rounds (v a * v b + v c) (zero cross (sgn c)) (fmaF t a b c rm sat))) ∧
    (¬nan a → ¬nan b → subF t a b rm sat = addF t a (b ^^^ top) rm sat) ∧
    (nans (fun a b => addF t a b rm sat) ∧ nans (fun a b => subF t a b rm sat) ∧ nans (fun a b => mulF t a b rm sat) ∧
      nans fun a b => divF t a b rm sat) ∧
    (inf a → inf b → addF t a b rm sat = (if sgn a = sgn b then (a, 0) else invalid) ∧
      mulF t a b rm sat = signed cross (f.maxFin + 1) ∧ divF t a b rm sat = invalid) ∧
    (inf a → fin b → addF t a b rm sat = (a, 0) ∧ addF t b a rm sat = (a, 0) ∧
      mulF t a b rm sat = (if v b = 0 then invalid else signed cross (f.maxFin + 1)) ∧
      mulF t b a rm sat = (if v b = 0 then invalid else signed cross (f.maxFin + 1)) ∧
      divF t a b rm sat = signed cross (f.maxFin + 1) ∧ divF t b a rm sat = signed cross 0) ∧
    (let product := inf a ∨ inf b
     let bad := inf a ∧ fin b ∧ v b = 0 ∨ inf b ∧ fin a ∧ v a = 0
     (bad → fmaF t a b c rm sat = invalid) ∧
     (¬bad → (nan a → fmaF t a b c rm sat = quiet a [a, b, c]) ∧
      (¬nan a → nan b → fmaF t a b c rm sat = quiet b [a, b, c]) ∧
      (¬nan a → ¬nan b → nan c → fmaF t a b c rm sat = quiet c [a, b, c]) ∧
      (¬nan a → ¬nan b → inf c → fmaF t a b c rm sat = if product ∧ cross ≠ sgn c then invalid else (c, 0)) ∧
      (¬nan a → ¬nan b → fin c → product → fmaF t a b c rm sat = signed cross (f.maxFin + 1))))

/-- R272: the four-operand forms. R273: the vk forms: A, the constant and, for fma, the old D. -/
def Obligations.VectorLongForms : Prop :=
  (∀ (x : VwArgs) (s : State),
     let wide := x.ty.is64
     let a := fun g l => s.opnd g l x.a wide
     let b := fun g l => s.opnd g l x.b wide
     let c := fun g l => s.opnd g l x.c wide
     let neg := fun k v => if x.neg / 2 ^ k % 2 = 1 then negF x.ty v else v
     WritesVector s (.vwFma x) 12 x.d wide (fun g l =>
       perElem x.ty (fun p q r => fmaF x.ty (neg 0 p) (neg 1 q) (neg 2 r) x.rm x.sat) (a g l) (b g l) (c g l)) ∧
     (x.ty = .i32 → WritesVector s (.vwMad x) 12 x.d false (fun g l =>
       let w := fun r => (s.src g l r).toInt
       let z := w x.a * w x.b + w x.c
       ((BitVec.ofInt 32 (if x.sat then max (-2 ^ 31) (min (2 ^ 31 - 1) z) else z)).toNat, 0))) ∧
     (x.ty = .n32 → WritesVector s (.vwMad x) 12 x.d false (fun g l =>
       let z := a g l * b g l + c g l
       (if x.sat then min (2 ^ 32 - 1) z else z % 2 ^ 32, 0))) ∧
     (x.ty = .b32 → WritesVector s (.vwBfi x) 12 x.d false (fun g l =>
       ((bfi32 (s.src g l x.a) (s.src g l x.b) (s.src g l x.c)).toNat, 0))) ∧
     WritesVector s (.vwPack x) 12 x.d false (fun g l =>
       let p := cvtElem x.ty x.ty2 x.rm x.sat (s.opnd g l x.a false)
       let q := cvtElem x.ty x.ty2 x.rm x.sat (s.opnd g l x.b false)
       (putElem x.ty (2 * x.sel + 1) q.1 (putElem x.ty (2 * x.sel) p.1 (s.opnd g l x.c false)), p.2 ||| q.2))) ∧
  (∀ (x : VkArgs) (s : State), x.imm < 2 ^ 32 →
     let a := fun g l => (s.src g l x.a).toNat
     let vec := fun i f => WritesVector s i 12 x.d false f
     vec (.vkAnd x) (fun g l => (a g l &&& x.imm, 0)) ∧ vec (.vkOr x) (fun g l => (a g l ||| x.imm, 0)) ∧
     vec (.vkMov x) (fun _ _ => (x.imm, 0)) ∧
     vec (.vkFma x) (fun g l => fmaF .f32 (a g l) x.imm (s.src g l x.d).toNat x.rm x.sat) ∧
     (x.ty = .f32 → vec (.vkAdd x) (fun g l => addF .f32 (a g l) x.imm x.rm x.sat) ∧
       vec (.vkMul x) (fun g l => mulF .f32 (a g l) x.imm x.rm x.sat)) ∧
     (x.ty = .i32 ∨ x.ty = .n32 → vec (.vkMul x) (fun g l => (a g l * x.imm % 2 ^ 32, 0)) ∧
       (x.sat = false → vec (.vkAdd x) (fun g l => ((a g l + x.imm) % 2 ^ 32, 0)))) ∧
     (x.ty = .n32 → x.sat = true → vec (.vkAdd x) (fun g l => (min (2 ^ 32 - 1) (a g l + x.imm), 0))) ∧
     (x.ty = .i32 → x.sat = true → vec (.vkAdd x) (fun g l => ((BitVec.ofInt 32 (max (-2 ^ 31) (min (2 ^ 31 - 1)
       ((s.src g l x.a).toInt + (BitVec.ofNat 32 x.imm).toInt)))).toNat, 0))))

/-- R233: a pair reads the sources of both operations before either writes, and raises the flags of both. -/
def Obligations.VectorPairReadsFirst : Prop :=
  ∀ (op1 op2 : VoOp) (x1 x2 : VoArgs) (s : State), Instr.wf (.vp op1 x1 op2 x2) = true →
    Completes (exec (.vp op1 x1 op2 x2) s) fun t => Kept s t ∧ Past s t 16 ∧
      (∀ g l, ActiveLane s g l → t.readV g x1.d l = BitVec.ofNat 32 (s.voAt op1 x1 g l).1 ∧
        t.readV g x2.d l = BitVec.ofNat 32 (s.voAt op2 x2 g l).1 ∧
        (x1.ty.is64 = true → t.readV g (x1.d + 1) l = BitVec.ofNat 32 ((s.voAt op1 x1 g l).1 / 2 ^ 32)) ∧
        (x2.ty.is64 = true → t.readV g (x2.d + 1) l = BitVec.ofNat 32 ((s.voAt op2 x2 g l).1 / 2 ^ 32))) ∧
      (∀ g r l, l < 96 → ¬(ActiveLane s g l ∧ (r ∈ voWrites x1 ∨ r ∈ voWrites x2)) → t.readV g r l = s.readV g r l) ∧
      (∀ h ∈ s.suppliers s.cur, (t.group (s.gid h)).fpflags = (s.group (s.gid h)).fpflags |||
        BitVec.ofNat 32 (flagsOf (maskOf (s.lanes s.cur) h) (s.voAt op1 x1 (s.gid h)) % 16) |||
        BitVec.ofNat 32 (flagsOf (maskOf (s.lanes s.cur) h) (s.voAt op2 x2 (s.gid h)) % 16)) ∧
      (∀ g, { t.group g with v := (s.group g).v, fpflags := (s.group g).fpflags } = s.group g) ∧
      ∀ g, ¬Supplies s g → t.group g = s.group g

/-- R208, R209: cvtsr takes one step of each active lane's generator, and rounds with the number it gives. R208, R369:
sy.clk reads the clock into a pair; sy.rng starts the generator of each active lane at the seed pair plus 96 times the
home group's number plus the lane. -/
def Obligations.StochasticRounding : Prop :=
  (∀ (x : VwArgs) (s : State), Completes (exec (.vwCvtsr x) s) fun t =>
     Kept s t ∧ Past s t 12 ∧
     (∀ g l, ActiveLane s g l → t.readV g x.d l = BitVec.ofNat 32 (putElem x.ty x.sel
       (cvtWith x.ty x.ty2 (s.opnd g l x.a x.ty2.is64) (.sr (srNext (s.genState g l)).2) x.sat).1
       (s.opnd g l x.c false))) ∧
     (∀ g r l, l < 96 → ¬(ActiveLane s g l ∧ r = x.d) → t.readV g r l = s.readV g r l) ∧
     (∀ h ∈ s.suppliers s.cur, (t.group (s.gid h)).fpflags = (s.group (s.gid h)).fpflags ||| BitVec.ofNat 32
       (flagsOf (maskOf (s.lanes s.cur) h) (fun l => cvtWith x.ty x.ty2 (s.opnd (s.gid h) l x.a x.ty2.is64)
         (.sr (srNext (s.genState (s.gid h) l)).2) x.sat) % 16)) ∧
     (∀ g l, ActiveLane s g l → t.genState g l = (srNext (s.genState g l)).1) ∧
     (∀ g l, ¬ActiveLane s g l → t.genState g l = s.genState g l) ∧
     (∀ g, { t.group g with v := (s.group g).v, fpflags := (s.group g).fpflags, rng := (s.group g).rng } = s.group g) ∧
     ∀ g, ¬Supplies s g → t.group g = s.group g) ∧
  (∀ (x : SyArgs) (s : State),
     (isEm x.sd = false → isEm (x.sd + 1) = false → WritesScalar s (.syClk x) 8 (fun _ => pairOf64 x.sd s.clock)) ∧
     Completes (exec (.syRng x) s) fun t => Kept s t ∧ Past s t 8 ∧
       (∀ g l, ActiveLane s g l → t.genState g l = (s.readS g (x.sa + 1) ++ s.readS g x.sa) +
         BitVec.ofNat 64 (96 * (s.group g).home + l)) ∧
       (∀ g l, ¬ActiveLane s g l → t.genState g l = s.genState g l) ∧
       (∀ g, { t.group g with rng := (s.group g).rng } = s.group g) ∧ ∀ g, ¬Supplies s g → t.group g = s.group g)

/-- R276, R277: vm.cmp and vm.class write a mask triple, em0 to em2 included. R264, R276: float comparisons. With a NaN
operand eq, lt, le, gt, ge and ord are false and ne and uno true; lt, le, gt and ge set INV for any NaN, the others only
for a signalling one; without one, exactly one of lt, eq and gt holds, the two zeros are equal, and no flag is set. R277:
the classes. -/
def Obligations.MasksAndComparisons : Prop :=
  (∀ (x : VmArgs) (s : State), Records s →
     let low := fun v => if x.ty = .f16 ∨ x.ty = .bf16 then v % 2 ^ 16 else v
     let a := fun g l => low (s.opnd g l x.a x.ty.is64)
     let b := fun g l => low (s.opnd g l x.b x.ty.is64)
     Completes (exec (.vmCmp x) s) (fun t => Past s t 8 ∧ MaskResult s t x.sd fun g l =>
       if x.ty.isFloat then condFloat x.ty x.sel (a g l) (b g l)
       else (condInt x.sel (intVal x.ty (a g l)) (intVal x.ty (b g l)), 0)) ∧
     Completes (exec (.vmClass x) s) (fun t => Past s t 8 ∧ MaskResult s t x.sd fun g l =>
       (decide (x.b / 2 ^ classOf x.ty (a g l) % 2 = 1), 0))) ∧
  (∀ (t : Ty) (a b : Nat), t ∈ [Ty.f64, .f32, .f16, .bf16] →
     let c := fun sel => (condFloat t sel a b).1
     let f := fun sel => (condFloat t sel a b).2
     ((isNaN t a || isNaN t b) = true →
       c 0 = false ∧ c 1 = true ∧ c 2 = false ∧ c 3 = false ∧ c 4 = false ∧ c 5 = false ∧ c 6 = false ∧ c 7 = true ∧
       (∀ sel, 2 ≤ sel → sel ≤ 5 → f sel = fINV) ∧
       ∀ sel ∈ [0, 1, 6, 7], f sel = if isSNaN t a || isSNaN t b then fINV else 0) ∧
     ((isNaN t a || isNaN t b) = false →
       c 1 = !c 0 ∧ c 3 = (c 2 || c 0) ∧ c 5 = (c 4 || c 0) ∧ c 6 = true ∧ c 7 = false ∧
       ((c 2 = true ∧ c 0 = false ∧ c 4 = false) ∨ (c 2 = false ∧ c 0 = true ∧ c 4 = false) ∨
         (c 2 = false ∧ c 0 = false ∧ c 4 = true)) ∧
       (isZeroF t a = true → isZeroF t b = true → c 0 = true) ∧ ∀ sel, f sel = 0)) ∧
  (∀ (t : Ty) (x : Nat), t ∈ [Ty.f64, .f32, .f16, .bf16] →
     let k := classOf t x
     (k = 0 ↔ isNaN t x = true) ∧ (k = 1 ∨ k = 8 ↔ isInf t x = true) ∧ (k = 4 ∨ k = 5 ↔ isZeroF t x = true) ∧
     (k = 3 ∨ k = 6 ↔ isZeroF t x = false ∧ mag t x < 2 ^ (fmt t).m) ∧
     (k = 2 ∨ k = 7 ↔ 2 ^ (fmt t).m ≤ mag t x ∧ isFiniteF t x = true) ∧
     (k ≠ 0 → (k ≤ 4 ↔ sgn t x = true)) ∧ k ≤ 8)

/-- R229, R231, R278: a special function of A in every active lane, of both elements for the 16-bit types; inside a clause
the result is to come, and a full flag makes the instruction wait. R213: the special operands of the special functions, in
every format. -/
def Obligations.SpecialFunctionForms : Prop :=
  (∀ (x : SfArgs) (s : State),
     let apply := fun fn => fun g l => perElem x.ty (fun a _ _ => sfElem fn x.ty a) (s.src g l x.a).toNat 0 0
     let vec := fun i fn =>
       ((s.ig s.cur).clause = none → WritesVector s i 8 x.d false (apply fn)) ∧
       ((s.ig s.cur).clause ≠ none → s.room none x.cf = true → LeavesVector s i 8 x.cf x.d (apply fn)) ∧
       (s.room none x.cf = false → exec i s = .next s.stall)
     vec (.sfRcp x) .rcp ∧ vec (.sfRsq x) .rsq ∧ vec (.sfSqrt x) .sqrt ∧ vec (.sfExp2 x) .exp2 ∧ vec (.sfLog2 x) .log2 ∧
     vec (.sfSin x) .sin ∧ vec (.sfCos x) .cos ∧ vec (.sfTanh x) .tanh ∧ vec (.sfSigm x) .sigm ∧ vec (.sfGelu x) .gelu ∧
     vec (.sfSilu x) .silu ∧ vec (.sfErf x) .erf) ∧
  (∀ (t : Ty), t ∈ [Ty.f32, .f16, .bf16] → ∀ n : Bool,
     let z := zeroOf t n
     let i := infOf t n
     let one := oneOf t
     (∀ f x, isNaN t x = true → sfElem f t x = (quieten t x, if isSNaN t x then fINV else 0)) ∧
     sfElem .rcp t z = (infOf t n, fOVF) ∧ sfElem .rsq t z = (infOf t n, fOVF) ∧ sfElem .sqrt t z = (z, 0) ∧
     sfElem .exp2 t z = (one, 0) ∧ sfElem .log2 t z = (infOf t true, fOVF) ∧ sfElem .sin t z = (z, 0) ∧
     sfElem .cos t z = (one, 0) ∧ sfElem .tanh t z = (z, 0) ∧ sfElem .erf t z = (z, 0) ∧ sfElem .gelu t z = (z, 0) ∧
     sfElem .silu t z = (z, 0) ∧
     sfElem .sigm t z = (halfOf t, 0) ∧ sfElem .sigm t i = (if n then zeroOf t false else one, 0) ∧
     sfElem .gelu t i = (if n then zeroOf t true else i, 0) ∧ sfElem .silu t i = (if n then zeroOf t true else i, 0) ∧
     sfElem .rcp t i = (z, 0) ∧ sfElem .tanh t i = (withSign t n one, 0) ∧ sfElem .erf t i = (withSign t n one, 0) ∧
     sfElem .sin t i = (defNaN t, fINV) ∧ sfElem .cos t i = (defNaN t, fINV) ∧
     sfElem .exp2 t i = (if n then zeroOf t false else i, 0) ∧
     (n = true → sfElem .rsq t i = (defNaN t, fINV) ∧ sfElem .sqrt t i = (defNaN t, fINV) ∧
       sfElem .log2 t i = (defNaN t, fINV)) ∧
     (∀ f ∈ [SfFn.rsq, .sqrt, .log2], ∀ x p q, decodeF t x = .fin true p q → sfElem f t x = (defNaN t, fINV)))

/-- R279, R281, R282, R283: the cross-lane forms, executed in one step by the issue groups that meet at it (R280), once no
member lane outside the step (for xl.rdln, no lane) has a write to A to come and no flag it would hold is full; inside a
clause the results are to come (R231). R282: what the members' values combine to: the identity of no members, and
otherwise the combination in ascending order; for the integer and bitwise operations the sum, the least, the greatest, and
so on. R229, R279: a cross-lane instruction waits, without effect, until the issue groups of its path on its core have
met, and while a member lane outside the step has a write to A to come or a flag it would hold is full. -/
def Obligations.CrossLaneForms : Prop :=
  (∀ (x : XlArgs) (s : State) (party : List IgRef), s.lanes s.cur ≠ [] → s.xlParty = some party →
     let own := fun g l => (s.src g l x.a).toNat
     let val := fun g k => if (s.triple g x.sm).getLsbD k ∧ s.gone g k = false then own g k else 0
     let runs := fun i (mem : Nat → LaneMask) sel f => (∀ h ∈ homesOf (party.flatMap s.lanes),
         s.pendingElsewhere (s.gid h) x.a (mem (s.gid h)) (maskOf (party.flatMap s.lanes) h) = false ∧
         ∀ f, s.flagOf x.cf = some f → SMap.look 0 (s.group (s.gid h)).cf f < 63) → Completes (exec i s) fun t =>
       ((s.ig s.cur).clause = none → CrossResult s t party x.d sel f) ∧
       ((s.ig s.cur).clause ≠ none → CrossToCome s t party x.cf x.d sel f)
     let does := fun i => runs i fun g => s.triple g x.sm
     let all := fun (_ : Nat) (m : LaneMask) => m
     let members := fun g n => (List.range n).filter fun k => (s.triple g x.sm).getLsbD k
     let voters := fun g (m : LaneMask) => (List.range 96).filter fun k => m.getLsbD k && (s.triple g x.sm).getLsbD k
     let yes := fun g (m : LaneMask) => (voters g m).filter fun k => own g k != 0
     does (.xlShfl x) all (fun g _ l =>
       let p := (s.src g l x.b).toNat
       (if p < 96 then val g p else own g l, 0)) ∧
     (x.sel < 4 → does (.xlShflx x) all (fun g _ l =>
       let p : Int := [((l ^^^ x.b : Nat) : Int), (l : Int) - x.b, (l : Int) + x.b, (((l + x.b) % 96 : Nat) : Int)].getD x.sel 0
       (if 0 ≤ p ∧ p < 96 then val g p.toNat else own g l, 0))) ∧
     does (.xlBfly x) all (fun g _ l =>
       let m := 2 ^ (x.sel % 8)
       let hi := l / m % 2 = 1
       (if (x.sel / 8 % 2 = 0 ∧ hi) ∨ (x.sel / 8 % 2 ≠ 0 ∧ ¬hi) then val g (l ^^^ m) else (s.src g l x.b).toNat, 0)) ∧
     (x.sel < 4 → does (.xlVote x) all (fun g m l =>
       ([if yes g m = [] then 0 else 1, if (yes g m).length = (voters g m).length then 1 else 0, (yes g m).length,
         (yes g m).foldl (fun w k => if k / 32 = l / 32 then w + 2 ^ (k % 32) else w) 0].getD x.sel 0, 0))) ∧
     runs (.xlRdln x) (fun _ => BitVec.allOnes 96) all (fun g _ _ =>
       let k := (s.readS g (x.b - 384)).toNat
       (if k < 96 ∧ s.gone g k = false then own g k else 0, 0)) ∧
     runs (.xlWrln x) (fun _ => 0) (fun g m => m &&& BitVec.twoPow 96 (s.readS g (x.b - 384)).toNat)
       (fun g _ _ => ((s.readS g (x.a - 384)).toNat, 0)) ∧
     does (.xlScan x) all (fun g _ l =>
       combineAll (x.sel % 8) x.ty ((members g (if 8 ≤ x.sel then l else l + 1)).map (val g))) ∧
     does (.xlRed x) all (fun g _ _ => combineAll x.sel x.ty ((members g 96).map (val g)))) ∧
  (∀ (vs : List Nat) (t : Ty), (∀ v ∈ vs, v < 2 ^ 32) → (t = .i32 ∨ t = .n32) →
     (combineAll 0 t vs).1 = vs.sum % 2 ^ 32 ∧
     (∀ v ∈ vs, intVal t (combineAll 1 t vs).1 ≤ intVal t v ∧ intVal t v ≤ intVal t (combineAll 2 t vs).1) ∧
     (vs ≠ [] → (combineAll 1 t vs).1 ∈ vs ∧ (combineAll 2 t vs).1 ∈ vs) ∧
     (vs = [] → intVal t (combineAll 1 t vs).1 = intMax t ∧ intVal t (combineAll 2 t vs).1 = intMin t) ∧
     (∀ i, i < 32 → ((combineAll 3 .b32 vs).1.testBit i = vs.all (·.testBit i)) ∧
       ((combineAll 4 .b32 vs).1.testBit i = vs.any (·.testBit i)) ∧
       ((combineAll 5 .b32 vs).1.testBit i = decide ((vs.filter (·.testBit i)).length % 2 = 1))) ∧
     ∀ op, op < 6 → (combineAll op t vs).2 = 0) ∧
  (∀ (x : XlArgs) (s : State), s.lanes s.cur ≠ [] →
     let members := fun g => s.triple g x.sm
     ∀ p ∈ [(Instr.xlShfl x, members), (.xlShflx x, members), (.xlBfly x, members), (.xlVote x, members),
         (.xlRdln x, fun _ => BitVec.allOnes 96), (.xlWrln x, fun _ => 0), (.xlScan x, members), (.xlRed x, members)],
       (s.xlParty = none ∨ ∃ party, s.xlParty = some party ∧ ∃ h ∈ homesOf (party.flatMap s.lanes),
         (s.pendingElsewhere (s.gid h) x.a (p.2 (s.gid h)) (maskOf (party.flatMap s.lanes) h) = true ∨
           ∃ f, s.flagOf x.cf = some f ∧ 63 ≤ SMap.look 0 (s.group (s.gid h)).cf f)) →
       Completes (exec p.1 s) fun t => t.groups = s.groups ∧ SameElsewhere s t ∧
         (∀ r, r ≠ s.cur.role → t.role r = s.role r) ∧ (Issuing s → t.ig s.cur = { s.ig s.cur with wait := .xl }) ∧
         (∀ q, q ≠ s.cur → t.ig q = s.ig q) ∧ t.ctxs = s.ctxs)

/-- R260: ch writes no register, flag count or memory: it opens the clause and counts once. R169, R285, R286, R376: bc.br,
bc.jmp, bc.call, bc.ret and bc.nop, with every way bc.br and bc.ret can go; TRAPADDR of addresses that differ is the
lowest active lane whose address is not that of the first. -/
def Obligations.ClausesAndBranches : Prop :=
  (∀ (x : ChArgs) (s : State), (s.ig s.cur).resume = none → Issuing s →
     Completes (exec (.ch x) s) fun t => t.groups = s.groups ∧ Kept s t ∧ Past s t 8 ∧
       (t.ig s.cur).clause = some { hdr := (s.ig s.cur).pc, len := x.clen + 1, fa := if x.fav then some x.fa else none,
                                    fb := if x.fbv then some x.fb else none, idx := 0 }) ∧
  (∀ (x : BcArgs) (s : State),
     let pc := (s.ig s.cur).pc
     let target := pc + (BitVec.ofNat 20 x.toff).signExtend 64 * 4
     let ls := s.lanes s.cur
     let cond := fun p : Nat × Nat => s.src (s.gid p.2) p.1 x.cv != 0
     let addr := fun p : Nat × Nat =>
       (s.src (s.gid p.2) p.1 x.cv).toNat + 2 ^ 32 * (s.src (s.gid p.2) p.1 (x.cv + 1)).toNat
     let past := fun t => t.groups = s.groups ∧ Kept s t ∧ Past s t 8
     let goes := fun t a => t.groups = s.groups ∧ Kept s t ∧ Went s t a
     let at_ := (s.ig s.cur).resumePoint
     ((∀ p ∈ ls, cond p = false) → Completes (exec (.bcBr x) s) past) ∧
     (ls ≠ [] → (∀ p ∈ ls, cond p = true) → Completes (exec (.bcBr x) s) (goes · target)) ∧
     (Handled s → (∃ p ∈ ls, cond p = true) → (∃ p ∈ ls, cond p = false) → Completes (exec (.bcBr x) s) fun t =>
       TrapTaken s t 17 at_ (BitVec.ofNat 64 (ls.filter cond).length) 0) ∧
     Completes (exec (.bcJmp x) s) (goes · target) ∧
     Completes (exec (.bcCall x) s) (fun t => VectorResult s t x.cv true (fun _ _ => ((pc + 8).toNat, 0)) ∧ Kept s t ∧
       Went s t target) ∧
     (ls = [] → Completes (exec (.bcRet x) s) past) ∧
     (∀ p ∈ ls, (∀ q ∈ ls, addr q = addr p) → addr p % 4 = 0 →
       Completes (exec (.bcRet x) s) (goes · (BitVec.ofNat 64 (addr p)))) ∧
     (Handled s → ∀ p ∈ ls, (∀ q ∈ ls, addr q = addr p) → addr p % 4 ≠ 0 → Completes (exec (.bcRet x) s) fun t =>
       TrapTaken s t 3 at_ (BitVec.ofNat 64 (addr p)) 0) ∧
     (Handled s → ∀ p pre q post, ls = p :: pre ++ q :: post → (∀ r ∈ pre, addr r = addr p) → addr q ≠ addr p →
       Completes (exec (.bcRet x) s) fun t => TrapTaken s t 17 at_ (BitVec.ofNat 64 q.1) 0) ∧
     Completes (exec (.bcNop x) s) past)

/-- R166, R285: bc.exit takes the active threads of the issue group out of every entry of its role's stack and out of the
issue groups, of which those stay that hold a thread that has not exited, marks the home groups whose threads have all
exited, and counts once, with the role's blocked time unless one of its issue groups is still blocked; then the role
settles. R165, R167, R285: bc.brd makes the issue group wait at the meet: its active threads join those arrived at its
address in the MEET field of the current path's entry; the instruction counts once; then the role settles. R167: how a
meet at one address `a` resolves, for threads whose condition is true in `T`: with none of the path's threads in T it goes
on past the instruction; with all of them, at the target; otherwise the entry becomes a reconvergence entry at rpc under
the two paths, the taken one on top and current; but a stack that would hold a 65th entry stays as it stood. -/
def Obligations.ExitAndMeet : Prop :=
  (∀ (x : BcArgs) (s : State), Completes (exec (.bcExit x) s) fun t => ∃ u : State, t = u.settle s.cur.role ∧
     let m := activeThreads (s.role s.cur.role).active (s.ig s.cur)
     let y := s.role s.cur.role
     (u.role s.cur.role).exited = y.exited ||| m ∧
     (u.role s.cur.role).entries = y.entries.map (fun e => { e with mask := e.mask &&& ~~~m }) ∧
     (∀ g ∈ (u.role s.cur.role).igs, ∃ g' ∈ y.igs, g.uid = g'.uid ∧ g.slots = g'.slots ∧
       ∃ p ∈ g.slots.zipIdx, ∃ h, p.1 = some h ∧ (y.exited ||| m).getLsbD (96 * h + p.2) = false) ∧
     (∀ g' ∈ y.igs, (∃ p ∈ g'.slots.zipIdx, ∃ h, p.1 = some h ∧ (y.exited ||| m).getLsbD (96 * h + p.2) = false) →
       ∃ g ∈ (u.role s.cur.role).igs, g.uid = g'.uid ∧ g.slots = g'.slots ∧ (g'.uid ≠ s.cur.ig → g = g')) ∧
     (∀ r, r ≠ s.cur.role → u.role r = s.role r) ∧ SameElsewhere s u ∧
     (∀ g, u.group g = s.group g ∨ (s.group g).team = s.curTeam ∧ (s.group g).role = s.cur.role % 4 ∧
       homeMask ((u.role s.cur.role).threads &&& ~~~(u.role s.cur.role).exited) (s.group g).home = 0 ∧
       u.group g = { s.group g with exited := true }) ∧
     (u.role s.cur.role).count = 1 + (if (u.role s.cur.role).igs.any fun g => g.wait = .blocked then y.count
       else (y.ticked s.clock.toNat).count) ∧
     (u.ctx s.curCtx).retired = (s.ctx s.curCtx).retired + 1) ∧
  (∀ (x : BcArgs) (s : State), Completes (exec (.bcBrd x) s) fun t => ∃ u : State, t = u.settle s.cur.role ∧
     Kept (s.noteArrival) u ∧ u.groups = s.groups ∧
     (Issuing s → u.ig s.cur = { s.ig s.cur with wait := .brd x }) ∧
     (u.role s.cur.role).count = (s.role s.cur.role).count + 1 ∧
     (u.ctx s.curCtx).retired = (s.ctx s.curCtx).retired + 1 ∧
     ∀ e, (s.role s.cur.role).path = some e → (u.role s.cur.role).path =
       some { e with meet := enterAddr (s.ig s.cur).pc (activeThreads (s.role s.cur.role).active (s.ig s.cur)) e.meet }) ∧
  (∀ (s : State) (r : Nat) (e : Entry) (a : DWord) (x : BcArgs) (T : ThreadMask), (s.role r).path = some e →
     (s.role r).entries.head? = some e → T &&& ~~~(e.mask &&& ~~~(s.role r).exited) = 0 →
     let t := s.resolveAt r e a x T false false []
     let rest := (s.role r).entries.drop 1
     let N := e.mask &&& ~~~(s.role r).exited &&& ~~~T
     let target := a + (BitVec.ofNat 20 x.toff).signExtend 64 * 4
     let rpc := a + (BitVec.ofNat 19 x.roff).signExtend 64 * 4
     (T = 0 → (t.role r).entries = { e with pc := a + 8, meet := [] } :: rest) ∧
     (T ≠ 0 → N = 0 → (t.role r).entries = { e with pc := target, meet := [] } :: rest) ∧
     ((s.grid (s.team (roleTeam r)).grid).lost = false → T ≠ 0 → N ≠ 0 → (s.role r).entries.length ≤ 62 →
       (t.role r).entries =
       { kind := .path, pc := target, rpc := some rpc, mask := T } ::
       { kind := .path, pc := a + 8, rpc := some rpc, mask := N } ::
       { e with kind := .reconv, pc := rpc, meet := [], recd := [] } :: rest) ∧
     ((s.grid (s.team (roleTeam r)).grid).lost = false → T ≠ 0 → N ≠ 0 → (s.role r).entries.length ≤ 62 →
       ∀ g ∈ (t.role r).igs, g.pc = target) ∧
     (T ≠ 0 → N ≠ 0 → 62 < (s.role r).entries.length → t = s.trapWaiting r 5 64))

/-- R373: an issue group that takes a trap, other than the path timeout, with a handler: step 1 writes CODE, TRAPPC,
TRAPCLAUSE and TRAPADDR in every home group that supplies it, and step 3 sets ACT there and continues at TRAPVEC outside
any clause; nothing else changes. R373, R177: with TRAPVEC 0 or misaligned, or ACT already 1, the team is terminated: it
has no path left, all its threads have exited, and the record for the host holds its number, its TRAPCAUSE, with ACT as it
was, and the saved PC. -/
def Obligations.TrapIsTaken : Prop :=
  (∀ (s : State) (code : Nat) (pt : DWord × Word) (addr : DWord), Handled s → code ≠ 8 →
     TrapTaken s (s.takeTrap s.cur code pt addr) code pt addr 0) ∧
  (∀ (s : State) (code : Nat) (pt : DWord × Word) (addr : DWord),
     let v := (s.team s.curTeam).trapvec
     (v = 0 ∨ v.toNat % 4 ≠ 0 ∨ ∃ h ∈ (s.ig s.cur).homes, (s.group (s.gid h)).act = true) →
     (s.team s.curTeam).terminated = false →
     (s.grid (s.team s.curTeam).grid).krec.coop = false →
     let t := s.takeTrap s.cur code pt addr
     (t.team s.curTeam).terminated = true ∧
     (∀ r, r < 4 → (t.role (teamRole s.curTeam r)).igs = [] ∧ (t.role (teamRole s.curTeam r)).entries = [] ∧
       (t.role (teamRole s.curTeam r)).exited = (s.role (teamRole s.curTeam r)).threads) ∧
     (∀ r, roleTeam r ≠ s.curTeam → t.role r = s.role r) ∧ t.mem = s.mem ∧
     ∃ (d : DmaEntry) (c : Nat), t.dmaQ = s.dmaQ ++ [.entry d] ∧ d.ctx = (s.team s.curTeam).ctx ∧
       d.record = .terminated (s.team s.curTeam).num c pt.1 ∧ ((s.ig s.cur).homes ≠ [] →
         c = (BitVec.ofNat 32 code ||| if (s.ig s.cur).homes.any (fun h => (s.group (s.gid h)).act) then 0x80000000#32
           else 0).toNat))

/-- R234, R285, R286, R369: sy.trap and bc.brk trap after the instruction, with the number or the code in TRAPADDR and the
resume point that follows it; with no active lane they do nothing (R286), sy.trap by the model's choice (log 83). -/
def Obligations.SoftwareTrapForms : Prop :=
  ∀ (s : State) (x : SyArgs) (b : BcArgs),
    let next := (s.ig s.cur).pc + 8
    let pt := match (s.ig s.cur).clause with
      | some c => (c.hdr, BitVec.ofNat 32 (32 + (c.idx + 1)))
      | none => (next, 0)
    (s.lanes s.cur ≠ [] → Handled s →
      Completes (exec (.syTrap x) s) (fun t => TrapTaken s t 15 pt (BitVec.ofNat 64 x.imm) 1) ∧
      Completes (exec (.bcBrk b) s) (fun t => TrapTaken s t 16 pt (BitVec.ofNat 64 b.toff) 1)) ∧
    (s.lanes s.cur = [] →
      Completes (exec (.syTrap x) s) (fun t => t.groups = s.groups ∧ Kept s t ∧ Past s t 8) ∧
      Completes (exec (.bcBrk b) s) (fun t => t.groups = s.groups ∧ Kept s t ∧ Past s t 8))

/-- R342, R374: sy.tret clears ACT in every home group, lets the held tile entries of those home groups try their commit
again, and resumes the whole issue group at the lowest one's TRAPPC, inside the clause at TRAPCLAUSE.OFFSET when V is 1;
with no such entry nothing else changes. A misaligned TRAPPC raises its trap; without ACT in each home group sy.tret
raises the illegal-encoding trap, which terminates the team (R373). That it returns with no active thread too, the home
groups being those of the issue group's slots, is the model's choice (log 83). -/
def Obligations.TrapReturns : Prop :=
  ∀ (s : State) (x : SyArgs),
    let homes := (s.ig s.cur).homes
    let low := s.group (s.gid (homes.headD 0))
    let left := homes.foldl (fun t h => t.modGroup (s.gid h) fun y => { y with trapCause := y.trapCause &&& 0x7FFFFFFF#32 }) s
    (homes ≠ [] → (∀ h ∈ homes, (s.group (s.gid h)).act = true) → low.trapPc.toNat % 4 = 0 →
      exec (.syTret x) s = .next ((left.retryTiles (homes.map s.gid)).modIg s.cur fun g =>
        { g with pc := low.trapPc, clause := none, wait := .none,
                 resume := if low.trapClause.getLsbD 5 then some (low.trapClause.toNat % 32) else none }).count) ∧
    (homes ≠ [] → (∀ h ∈ homes, (s.group (s.gid h)).act = true) → low.trapPc.toNat % 4 = 0 →
      (∀ p ∈ s.pairs, ∀ e ∈ p.2.window, e.held = true → ∀ h ∈ homes, e.group ≠ s.gid h) →
      Completes (exec (.syTret x) s) fun t =>
        (∀ h ∈ homes, t.group (s.gid h) =
          { s.group (s.gid h) with trapCause := (s.group (s.gid h)).trapCause &&& 0x7FFFFFFF#32 }) ∧
        (∀ g, (∀ h ∈ homes, g ≠ s.gid h) → t.group g = s.group g) ∧
        (Issuing s → t.ig s.cur = { s.ig s.cur with
                                    pc := low.trapPc, clause := none, wait := .none,
                                    resume := if low.trapClause.getLsbD 5 then some (low.trapClause.toNat % 32)
                                      else none }) ∧
        (∀ q, q ≠ s.cur → t.ig q = s.ig q) ∧ SameElsewhere s t ∧
        (t.role s.cur.role).count = (s.role s.cur.role).count + 1 ∧
        (t.ctx s.curCtx).retired = (s.ctx s.curCtx).retired + 1) ∧
    (homes ≠ [] → (∀ h ∈ homes, (s.group (s.gid h)).act = true) → low.trapPc.toNat % 4 ≠ 0 →
      exec (.syTret x) s = .next (s.takeTrap s.cur 3 (s.ig s.cur).resumePoint low.trapPc)) ∧
    ((∃ h ∈ homes, (s.group (s.gid h)).act = false) →
      exec (.syTret x) s = .next (s.takeTrap s.cur 1 (s.ig s.cur).resumePoint (BitVec.ofNat 64 (encode (.syTret x) % 2 ^ 32))))

/-- R146, R349, R369 to R371: sy.csrr reads the register into SD; every register of the map has its home there, of the
device, context, team or group, and the test registers read zero outside a test context. R146, R147, R181, R204, R235,
R322, R349, R370, R371: what a register reads after a write of it: the value; for the tape addresses without bit 0; the
old value when a reserved bit is set, and for a gossip register where R147 ignores the write; the stored bound for
RANKCEIL and TILEQUOTA. A write of TAPEBASE or TAPEBASEHI sets TAPEPOS. Read-only registers do not change, and no other
register does. -/
def Obligations.ControlRegisterValues : Prop :=
  (∀ (x : SyArgs) (s : State), isEm x.sd = false →
     WritesScalar s (.syCsrr x) 8 (fun g => [(x.sd, s.readCsr g x.csr)]) ∧
     ∀ g, let y := s.group g
       let c := s.ctx (s.groupCtx g)
       s.readCsr g 0 = 0x0F128000 ∧ s.readCsr g 1 = 1 ∧ s.readCsr g 2 = s.devnum.setWidth 32 ∧ s.readCsr g 3 = 0x80 ∧
       s.readCsr g 4 = 0x3E8 ∧ s.readCsr g 0x100 = c.pathBudget ∧ s.readCsr g 0x101 = c.spawnTimer ∧
       s.readCsr g 0x102 = y.fpflags ∧ s.readCsr g 0x200 = c.rankCeil ∧ s.readCsr g 0x201 = c.rankMode ∧
       s.readCsr g 0x203 ++ s.readCsr g 0x202 = c.rankTol ∧ s.readCsr g 0x204 = c.tileQuota ∧ s.readCsr g 0x205 = c.tileTrap ∧
       s.readCsr g 0x301 ++ s.readCsr g 0x300 = y.tapeBase ∧ s.readCsr g 0x303 ++ s.readCsr g 0x302 = y.tapeLimit ∧
       s.readCsr g 0x304 = y.tapeCtl ∧ s.readCsr g 0x306 ++ s.readCsr g 0x305 = y.tapePos ∧
       s.readCsr g 0x308 ++ s.readCsr g 0x307 = y.tapeHash ∧
       (∀ k, k < 4 → s.readCsr g (0x400 + 4 * k) = (c.region k).addr ∧ s.readCsr g (0x401 + 4 * k) = (c.region k).len ∧
         s.readCsr g (0x402 + 4 * k) = (c.region k).cfg ∧ s.readCsr g (0x403 + 4 * k) = (c.region k).stat) ∧
       s.readCsr g 0x501 = y.trapCause ∧ s.readCsr g 0x503 = y.trapClause ∧
       s.readCsr g 0x505 ++ s.readCsr g 0x500 = (s.team y.team).trapvec ∧
       s.readCsr g 0x506 ++ s.readCsr g 0x502 = y.trapPc ∧ s.readCsr g 0x507 ++ s.readCsr g 0x504 = y.trapAddr ∧
       (c.test = true → s.readCsr g 0x601 ++ s.readCsr g 0x600 = c.preemptAt ∧
         s.readCsr g 0x603 ++ s.readCsr g 0x602 = c.retired ∧ s.readCsr g 0x604 = c.trigCtl) ∧
       (c.test = false → ∀ n, 0x600 ≤ n → n ≤ 0x604 → s.readCsr g n = 0)) ∧
  (∀ (s : State) (g n : Nat) (v : Word),
     let old := s.readCsr g n
     let new := (s.writeCsr g n v).readCsr g n
     (n ∈ [0x100, 0x202, 0x203, 0x301, 0x303, 0x306, 0x307, 0x308, 0x500, 0x502, 0x505, 0x506] → new = v) ∧
     (n ∈ [0x300, 0x302, 0x305] → new = v &&& ~~~1#32) ∧
     (n = 0x101 → new = if v.toNat < 2 ^ 20 then v else old) ∧ (n = 0x102 → new = if v.toNat < 16 then v else old) ∧
     (n = 0x200 → new = if 64 ≤ v.toNat then old else if 48 ≤ v.toNat then 47 else v) ∧
     (n = 0x201 → new = if v &&& 0xFFFFC0FC#32 = 0 ∧ v.toNat % 4 ≠ 3 ∧ 1 ≤ v.toNat / 256 ∧ v.toNat / 256 ≤ 47 then v
       else old) ∧
     (n = 0x204 → new = if 0x600 < v.toNat then 0x600 else v) ∧ (n = 0x205 → new = if v.toNat < 2 then v else old) ∧
     (n = 0x304 → (s.group g).tapeIdle = true → new = if v &&& 0xFF80FFCC#32 = 0 then
       (old &&& 0x007F0000#32) ||| (if v.getLsbD 5 then 0 else old &&& 0x20#32) ||| (v &&& 0x13#32) else old) ∧
     (n = 0x503 → new = if v.toNat < 64 then v else old) ∧
     ((s.ctx (s.groupCtx g)).test = true → (n = 0x600 ∨ n = 0x601 → new = v) ∧
       (n = 0x604 → new = if v.toNat < 2 then v else old)) ∧
     (n ∈ [0x403, 0x407, 0x40B, 0x40F] → new = old &&& ~~~(v &&& 0x001F0000#32)) ∧
     (∀ k, k < 4 →
       let c := s.groupCtx g
       let r := (s.ctx c).region k
       (n = 0x400 + 4 * k → new = if r.mode = 0 then v else old) ∧
       (n = 0x401 + 4 * k → new = if r.mode = 0 ∧ (v = 0 ∨ v.toNat ≤ 0x08000000 ∧
         s.allClass3 c (r.addr.toNat * 65536) (32 * v.toNat) = true) then v else old) ∧
       (n = 0x402 + 4 * k → new = if v &&& 0x0000C0FC#32 = 0 ∧ v.toNat / 256 % 64 ≤ 48 ∧ v.toNat % 4 ≠ 3 ∧
         (r.mode = 0 ∨ (v ^^^ old) &&& 0x00FF3F00#32 = 0) then v else old)) ∧
     (n ∈ [0x300, 0x301] → (s.writeCsr g n v).readCsr g 0x305 = (s.writeCsr g n v).readCsr g 0x300 ∧
       (s.writeCsr g n v).readCsr g 0x306 = (s.writeCsr g n v).readCsr g 0x301) ∧
     (n ∈ [0, 1, 2, 3, 4, 0x501, 0x504, 0x507, 0x602, 0x603] → s.writeCsr g n v = s) ∧
     ∀ m, m ≠ n → ¬(n ∈ [0x300, 0x301] ∧ m ∈ [0x305, 0x306]) →
       (s.writeCsr g n v).readCsr g m =
         if n ∈ [0x301, 0x303, 0x306] ∧ m + 1 = n then s.readCsr g m &&& ~~~1#32 else s.readCsr g m)

/-- R369, R370: sy.csrw, sy.csrs and sy.csrc write in each supplying home group, in ascending order, SA, the old value
with the bits of SA set, or with them cleared; a bit that is cleared by writing 1 takes SA's bit in all three. A write of
TAPECTL waits for the earlier tape entries. R56, R147, R148, R322, R349, R350, R370: a write of a control register from
outside a program is the write that sy.csrw makes, on a home group's registers or on its context's. -/
def Obligations.ControlRegisterForms : Prop :=
  (∀ (x : SyArgs) (s : State),
     let busy := x.csr = 0x304 ∧ ∃ h ∈ s.suppliers s.cur, (s.group (s.gid h)).tapeIdle = false
     let w1c : Word := if x.csr = 0x304 then 0x20#32 else if x.csr ∈ [0x403, 0x407, 0x40B, 0x40F] then 0x001F0000#32 else 0
     let does := fun i (f : Word → Word → Word) =>
       (¬busy → exec i s = .next (((s.suppliers s.cur).foldl (fun t h =>
         t.writeCsr (s.gid h) x.csr (f (t.readCsr (s.gid h) x.csr) (t.readS (s.gid h) x.sa))) s).next 8)) ∧
       (busy → exec i s = .next s.stall)
     does (.syCsrw x) (fun _ a => a) ∧
     does (.syCsrs x) (fun old a => ((old ||| a) &&& ~~~w1c) ||| (a &&& w1c)) ∧
     does (.syCsrc x) (fun old a => ((old &&& ~~~a) &&& ~~~w1c) ||| (a &&& w1c))) ∧
  (∀ (s : State) (g c k n : Nat) (v : Word) (hi : Bool),
     exec (.csrWrite g n v) s = .next (s.writeCsr g n v) ∧
     exec (.tapebaseWrite g hi v) s = .next (s.writeCsr g (if hi then 0x301 else 0x300) v) ∧
     exec (.tapectlWrite g v) s = .next (s.writeCsr g 0x304 v) ∧
     (s.groupCtx g = c →
       exec (.rankceilWrite c v) s = .next (s.writeCsr g 0x200 v) ∧
       exec (.rankmodeWrite c v) s = .next (s.writeCsr g 0x201 v) ∧
       exec (.tilequotaWrite c v) s = .next (s.writeCsr g 0x204 v) ∧
       (k < 4 → exec (.gxlenWrite c k v) s = .next (s.writeCsr g (0x401 + 4 * k) v) ∧
         exec (.gxcfgWrite c k v) s = .next (s.writeCsr g (0x402 + 4 * k) v) ∧
         exec (.gxstatWrite c k v) s = .next (s.writeCsr g (0x403 + 4 * k) v))))

/-- R291 to R296: a load enters the outstanding set of each supplying home group with, for each active lane, the address
that its form gives, translated; the destination registers are written later. R291 to R296: a store takes its data at
issue; a form that does not convert takes the low bytes of its registers, and raises no flag; with no tape hash running
the hash stays as it is. That R21 is applied to a store without a scope is the model's choice (log 62). R298: a prefetch
completes without an operation, a register or a trap. It only brings lines that its lanes name into the levels: every byte
that comes into a core level is clean and of such a line, and a byte that is valid at home, of another line none of whose
bytes is dirty in a level, keeps its value. Beside the levels, the home points, their counters and records, nothing
changes; with no lane whose address passes the checks nothing at all. -/
def Obligations.LoadsAndStoresIssue : Prop :=
  (∀ (x : MaArgs) (s : State), s.room (some x.ac) x.cf = true →
     let n := 2 ^ (x.sel % 4) * WellFormed.memBytes x.ty
     let off := (BitVec.ofNat 24 x.off).signExtend 64
     let base := fun g => s.readS g (x.bp + 1) ++ s.readS g x.bp
     let pair := fun g l => s.src g l (x.x + 1) ++ s.src g l x.x
     let line := fun g l => base g + off + BitVec.ofNat 64 (l * n)
     let line' := fun g (l : Nat) => ((s.readS g x.bp).toNat : Int) + off.toInt + (l * n : Nat)
     let index := fun g l => ((s.readS g x.bp).toNat : Int) + off.toInt + (s.src g l x.x).toNat
     let global := fun i a => LanesPass s .rd maClass false n a → Completes (exec i s) fun t => OpQuiet s t ∧
       OpIssued s t 12 (loadOp x s false) fun g l => s.globalLane .rd maClass l n (a g l)
     let scratch := fun i a => OffsetsPass s n a → Completes (exec i s) fun t => OpQuiet s t ∧
       OpIssued s t 12 (loadOp x s true) fun g l => { lane := l, addr := (a g l).toNat, size := n }
     global (.maLd x) line ∧ global (.maLdg x) (fun g l => pair g l + off) ∧
     scratch (.maLds x) line' ∧ scratch (.maLdsc x) index) ∧
  (∀ (x : MaArgs) (s : State), s.room (some x.ac) 0 = true → x.sel / 4 % 2 = 0 →
     (∀ h ∈ s.suppliers s.cur, (s.group (s.gid h)).tapeHashing = false) →
     let b := WellFormed.memBytes x.ty
     let c := 2 ^ (x.sel % 4)
     let off := (BitVec.ofNat 24 x.off).signExtend 64
     let data := fun g l => (List.range c).flatMap fun e =>
       leBytes b ((if x.ty.is64 then s.opnd g l (x.d + 2 * e) true else s.opnd g l (x.d + e) false) % 2 ^ (8 * b))
     let line := fun g l => (s.readS g (x.bp + 1) ++ s.readS g x.bp) + off + BitVec.ofNat 64 (l * (c * b))
     let pair := fun g l => (s.src g l (x.x + 1) ++ s.src g l x.x) + off
     let line' := fun g (l : Nat) => ((s.readS g x.bp).toNat : Int) + off.toInt + (l * (c * b) : Nat)
     let global := fun i a => LanesPass s .wr maClass (decide (x.scp = .none)) (c * b) a →
       Completes (exec i s) fun t => OpQuiet s t ∧ OpIssued s t 12 (storeOp x false) fun g l =>
         { s.globalLane .wr maClass l (c * b) (a g l) with data := data g l }
     global (.maSt x) line ∧ global (.maStg x) pair ∧
     (OffsetsPass s (c * b) line' → Completes (exec (.maSts x) s) fun t => OpQuiet s t ∧
       OpIssued s t 12 (storeOp x true) fun g l => { lane := l, addr := (line' g l).toNat, size := c * b, data := data g l })) ∧
  (∀ (x : MaArgs) (s : State),
     let a := fun p : Nat × Nat => (s.src (s.gid p.2) p.1 (x.x + 1) ++ s.src (s.gid p.2) p.1 x.x) +
       (BitVec.ofNat 24 x.off).signExtend 64
     let named := fun line => ∃ p ∈ s.lanes s.cur, ∃ tr, s.check s.curCtx .rd maClass false (a p).toNat = .ok tr ∧
       (tr.cls = 0 ∨ tr.cls = 5) ∧ tr.loc.key / 64 = line
     Completes (exec (.maPf x) s) (fun t => t.groups = s.groups ∧ Past s t 12 ∧ Kept (s.withLevelsOf t) t ∧
       (∀ c, { t.core c with level := (s.core c).level } = s.core c ∧ ∀ p ∈ (t.core c).level.bytes,
         p ∈ (s.core c).level.bytes ∨ (p.2.dirty = false ∧ p.1 / 2 ^ 66 = s.curCtx ∧ named (p.1 % 2 ^ 66 / 64))) ∧
       (∀ c, { t.cluster c with level := (s.cluster c).level, lines := (s.cluster c).lines, newest := (s.cluster c).newest,
                                nextOut := (s.cluster c).nextOut, accesses := (s.cluster c).accesses } = s.cluster c) ∧
       (∀ k, { t.stack k with corrected := (s.stack k).corrected } = s.stack k) ∧
       ∀ k, ¬named (k / 64) → (k < 2 ^ 64 → ∃ slot, s.validAt slot k = true) →
         (∀ c, ∀ p ∈ (s.core c).level.bytes, p.2.dirty = true → p.1 % 2 ^ 66 / 64 ≠ k / 64) →
         (∀ c, ∀ p ∈ (s.cluster c).level.bytes, p.2.dirty = true → p.1 / 64 ≠ k / 64) → t.readMem k = s.readMem k) ∧
     ((∀ p ∈ s.lanes s.cur, ∀ t, s.check s.curCtx .rd maClass false (a p).toNat ≠ .ok t) →
       Completes (exec (.maPf x) s) fun t => t.groups = s.groups ∧ Kept s t ∧ Past s t 12))

/-- R10, R24, R25, R295, R300: the lowest active lane whose address is misaligned or fails a check decides, of loads,
stores and atomics: it traps with that cause and its address, or, where the translation is absent, the issue group is
descheduled with a fault record; a scratch offset that is misaligned or out of range traps with the offset. R26, R234: a
descheduled issue group is marked with its fault record's number and waits for nothing else; its blocked time is counted;
its home groups hold the resume point, but for one in whose handler it stood (log 68); and the record that goes to the
host names the address, the kind of access, the team and the lowest home group, under a ring index that holds no earlier
record any more. -/
def Obligations.AccessFailures : Prop :=
  (∀ (x : MaArgs) (y : MxArgs) (s : State),
     let n := 2 ^ (x.sel % 4) * WellFormed.memBytes x.ty
     let m := if y.ty.is64 then 8 else 4
     let off := (BitVec.ofNat 24 x.off).signExtend 64
     let off' := (BitVec.ofNat 24 y.off).signExtend 64
     let at_ := (s.ig s.cur).resumePoint
     let pair := fun r (p : Nat × Nat) => s.src (s.gid p.2) p.1 (r + 1) ++ s.src (s.gid p.2) p.1 r
     let base := fun b (p : Nat × Nat) => s.readS (s.gid p.2) (b + 1) ++ s.readS (s.gid p.2) b
     let low := fun b (p : Nat × Nat) => ((s.readS (s.gid p.2) b).toNat : Int)
     let fails := fun need permits store n kind (a : Nat × Nat → DWord) i => ∀ pre p post, s.lanes s.cur = pre ++ p :: post →
       (∀ q ∈ pre, (a q).toNat % n = 0 ∧ ∃ t, s.check s.curCtx need permits store (a q).toNat = .ok t) →
       ((a p).toNat % n ≠ 0 → exec i s = .next (s.takeTrap s.cur 3 at_ (a p))) ∧
       ((a p).toNat % n = 0 → ∀ c, s.check s.curCtx need permits store (a p).toNat = .bad c →
         (c ≠ 4 → exec i s = .next (s.takeTrap s.cur c at_ (a p))) ∧
         (c = 4 → exec i s = .next (s.deschedule s.cur (a p).toNat kind)))
     let misses := fun n (o : Nat × Nat → Int) i => ∀ pre p post, s.lanes s.cur = pre ++ p :: post →
       let fits := fun q => 0 ≤ o q ∧ o q + (n : Nat) ≤ (s.scratchOf s.curTeam).size
       (∀ q ∈ pre, o q % (n : Nat) = 0 ∧ fits q) → ¬(o p % (n : Nat) = 0 ∧ fits p) →
       exec i s = .next (s.takeTrap s.cur (if o p % (n : Nat) ≠ 0 then 3 else 5) at_ (BitVec.ofInt 64 (o p)))
     let line := fun p => base x.bp p + off + BitVec.ofNat 64 (p.1 * n)
     let gather := fun p => pair x.x p + off
     let line' := fun p => low x.bp p + off.toInt + (p.1 * n : Nat)
     (s.room (some x.ac) x.cf = true → fails .rd maClass false n 0 line (.maLd x) ∧ fails .rd maClass false n 0 gather (.maLdg x) ∧
       misses n line' (.maLds x) ∧ misses n (fun p => low x.bp p + off.toInt + (s.src (s.gid p.2) p.1 x.x).toNat) (.maLdsc x)) ∧
     (s.room (some x.ac) 0 = true → fails .wr maClass (decide (x.scp = .none)) n 1 line (.maSt x) ∧
       fails .wr maClass (decide (x.scp = .none)) n 1 gather (.maStg x) ∧ misses n line' (.maSts x)) ∧
     (s.room (some y.ac) y.cf = true →
       (∀ i ∈ [Instr.mxAtom96 y, .mxCas96 y, .mxFatom96 y, .mxRed96 y], fails .both mxClass false m 2 (pair y.x) i) ∧
       ∀ i ∈ [Instr.mxAtom128 y, .mxCas128 y, .mxFatom128 y, .mxRed128 y],
         (y.sel / 16 % 2 = 0 →
           fails .both mxClass false m 2 (fun p => base y.bp p + off' + (s.src (s.gid p.2) p.1 y.x).setWidth 64) i) ∧
         (y.sel / 16 % 2 = 1 →
           misses m (fun p => low y.bp p + off'.toInt + (s.src (s.gid p.2) p.1 y.x).toNat) i))) ∧
  (∀ (s : State) (va kind : Nat), Issuing s →
     let t := s.deschedule s.cur va kind
     let n := (s.ctx s.curCtx).ringNext
     t.ig s.cur = { s.ig s.cur with fault := some n, wait := .none } ∧
     t.dmaQ = s.dmaQ ++ [.entry { ctx := s.curCtx, idx := n,
                                  record := .access va kind (s.team s.curTeam).num ((s.ig s.cur).homes.headD 0) }] ∧
     (∀ h ∈ (s.ig s.cur).homes, t.group (s.gid h) = if (s.group (s.gid h)).act then s.group (s.gid h) else
       { s.group (s.gid h) with trapPc := (s.ig s.cur).resumePoint.1, trapClause := (s.ig s.cur).resumePoint.2 }) ∧
     (∀ g, (∀ h ∈ (s.ig s.cur).homes, g ≠ s.gid h) → t.group g = s.group g) ∧
     t.mem = s.mem ∧ (∀ q, q ≠ s.cur → t.ig q = s.ig q) ∧ (t.role s.cur.role).count = s.pathCount ∧
     { t.ctx s.curCtx with ringNext := n, ring := (s.ctx s.curCtx).ring } = s.ctx s.curCtx ∧
     findKey (t.ctx s.curCtx).ring n = none)

/-- R299, R389: a FIFO form at a bank in FIFO mode attached to the context enters the outstanding set, and its team is
marked as one that has used a FIFO bank; at another bank it raises the protection trap, in which the bank number as
TRAPADDR is the model's choice (log 27); with no active lane it does nothing. R78, R231, R299: a push appends one entry of
the whole issue group to its bank: the word of each thread it holds, 0 in a slot that holds none, and the mask of the
active ones. A pop hands the oldest entry to its lanes: the word, and whether the lane was pushed; in a clause its
registers are still to come. -/
def Obligations.FifoBanks : Prop :=
  (∀ (x : MaArgs) (s : State),
     let k := x.sel % 64
     let b := (s.cluster (s.groupCluster s.lowest)).bank k
     let ok := b.mode = 3 ∧ b.ctl.toNat / 2 ^ 16 % 256 = s.curCtx
     (∀ n, s.usedFifo.team n = if n = s.curTeam then { s.team n with fifo := true } else s.team n) ∧
     (s.lanes s.cur ≠ [] → s.room (some x.ac) 0 = true → ok → Completes (exec (.maFpush x) s) fun t => OpQuiet s t ∧
       OpIssued s.usedFifo t 12 { id := 0, kind := .push, ig := 0, ac := x.ac, bank := k }
         (fun g l => { lane := l, addr := 0, a := (s.src g l x.d).setWidth 64 })
         fun g => if g = s.lowest then s.idleLanes x.d else []) ∧
     (∀ a, a ∈ s.idleLanes x.d ↔ ∃ l h, (s.ig s.cur).slots[l]? = some (some h) ∧ l ∉ (s.lanes s.cur).map (·.1) ∧
       a = { lane := l, addr := 0, a := (s.src (s.gid h) l x.d).setWidth 64, done := true }) ∧
     (s.lanes s.cur ≠ [] → s.room (some x.ac) x.cf = true → ok → Completes (exec (.maFpop x) s) fun t => OpQuiet s t ∧
       OpIssued s.usedFifo t 12
         { id := 0, kind := .pop, ig := 0, ac := x.ac, cf := s.flagOf x.cf, bank := k, d := x.d, writes := [x.d, x.d + 1] }
         fun _ l => { lane := l, addr := 0 }) ∧
     (s.lanes s.cur ≠ [] → s.room (some x.ac) x.cf = true → s.room (some x.ac) 0 = true → ¬ok →
       ∀ i ∈ [Instr.maFpush x, .maFpop x],
         exec i s = .next (s.takeTrap s.cur 5 (s.ig s.cur).resumePoint (BitVec.ofNat 64 k))) ∧
     (s.lanes s.cur = [] → ∀ i ∈ [Instr.maFpush x, .maFpop x],
       Completes (exec i s) fun t => t.groups = s.groups ∧ Kept s t ∧ Past s t 12)) ∧
  (∀ (s : State) (g id : Nat) (o : Op), s.op? g id = some o → s.opGroups g id = [g] → OneOp s g o →
     (o.lanes.map (·.lane)).Nodup → (∀ a ∈ o.lanes, a.lane < 96) →
     let c := s.groupCluster g
     let b := (s.cluster c).bank o.bank
     (o.kind = .push → b.mode = 3 → b.zero = false → b.fifo.length < 512 →
       Completes (exec (.fifoPushPerform g id) s) fun t => OpEnded s t g o ∧ ∃ m v,
         (t.cluster c).bank o.bank = { b with fifo := b.fifo ++ [(m, v)] } ∧
         (∀ l, l < 96 → (m.getLsbD l = true ↔ ∃ a ∈ o.lanes, a.lane = l ∧ a.done = false)) ∧
         (∀ a ∈ o.lanes, v.getD a.lane 0 = a.a.setWidth 32) ∧
         (∀ l, l < 96 → (∀ a ∈ o.lanes, a.lane ≠ l) → v.getD l 0 = 0)) ∧
     (o.kind = .pop → o.ready = false → (∀ a ∈ o.lanes, a.landed = []) → b.mode = 3 → ∀ m v rest, b.fifo = (m, v) :: rest →
       Completes (exec (.fifoPopPerform g id) s) fun t => (t.cluster c).bank o.bank = { b with fifo := rest } ∧
         (o.outside = true → OpEnded s t g o ∧ ∀ a ∈ o.lanes, o.d + 1 < 384 → o.d + 1 < 8 * (s.group g).gran →
           t.readV g o.d a.lane = v.getD a.lane 0 ∧ t.readV g (o.d + 1) a.lane = if m.getLsbD a.lane then 1 else 0) ∧
         (o.outside = false → o.acq = false → o.lanes ≠ [] → (∀ r l, t.readV g r l = s.readV g r l) ∧
           ∃ q, t.op? g id = some q ∧ q.ready = true ∧ ∀ a ∈ q.lanes, q.results a =
             [(o.d, (v.getD a.lane 0).toNat), (o.d + 1, if m.getLsbD a.lane then 1 else 0)])))

/-- R300, R301: an atomic takes its operands at issue and enters the outstanding set; the 96-bit forms address with a
pair, the 128-bit forms with an index from a base pair, or from a scratch base. R86, R229, R291: an instruction whose
arrival counter or completion flag has no room waits, without effect. -/
def Obligations.AtomicsIssue : Prop :=
  (∀ (x : MxArgs) (s : State), s.room (some x.ac) x.cf = true →
     let n := if x.ty.is64 then 8 else 4
     let off := (BitVec.ofNat 24 x.off).signExtend 64
     let wide := x.ty.is64
     let part := fun (cas : Bool) (a : LaneAcc) g l =>
       { a with a := BitVec.ofNat 64 (s.opnd g l x.a wide),
                c := if cas then BitVec.ofNat 64 (s.opnd g l x.c wide) else 0 }
     let op := fun (sel : Nat) (res scratch : Bool) =>
       ({ id := 0, kind := .atomic, ig := 0, ac := x.ac, cf := s.flagOf x.cf, scratch := scratch, scope := x.scp,
          acq := x.acq, rel := x.rel, ty := x.ty, sel := sel, d := x.d, cnt := if res then 1 else 0,
          writes := if res then operandRegs wide x.d else [] } : Op)
     let global := fun i len sel res cas a => LanesPass s .both mxClass false n a → Completes (exec i s) fun t =>
       OpQuiet s t ∧ OpIssued s t len (op sel res false) fun g l =>
         part cas (s.globalLane .both mxClass l n (a g l)) g l
     let scratch := fun i sel res cas a => OffsetsPass s n a → Completes (exec i s) fun t =>
       OpQuiet s t ∧ OpIssued s t 16 (op sel res true) fun g l =>
         part cas { lane := l, addr := (a g l).toNat, size := n } g l
     let pair := fun g l => s.src g l (x.x + 1) ++ s.src g l x.x
     let index := fun g l => (s.readS g (x.bp + 1) ++ s.readS g x.bp) + off + (s.src g l x.x).setWidth 64
     let spot := fun g l => ((s.readS g x.bp).toNat : Int) + off.toInt + (s.src g l x.x).toNat
     let k := x.sel % 16
     let red := if x.ty.isFloat then 8 + k else k
     global (.mxAtom96 x) 12 k true false pair ∧ global (.mxCas96 x) 12 7 true true pair ∧
     global (.mxFatom96 x) 12 (8 + k) true false pair ∧ global (.mxRed96 x) 12 red false false pair ∧
     (x.sel / 16 % 2 = 0 →
       global (.mxAtom128 x) 16 k true false index ∧ global (.mxCas128 x) 16 7 true true index ∧
       global (.mxFatom128 x) 16 (8 + k) true false index ∧ global (.mxRed128 x) 16 red false false index) ∧
     (x.sel / 16 % 2 = 1 →
       scratch (.mxAtom128 x) k true false spot ∧ scratch (.mxCas128 x) 7 true true spot ∧
       scratch (.mxFatom128 x) (8 + k) true false spot ∧ scratch (.mxRed128 x) red false false spot)) ∧
  (∀ (m : MaArgs) (x : MxArgs) (s : State),
     (s.room (some m.ac) m.cf = false → ∀ i ∈ [Instr.maLd m, .maLdg m, .maLds m, .maLdsc m], exec i s = .next s.stall) ∧
     (s.room (some m.ac) 0 = false → ∀ i ∈ [Instr.maSt m, .maStg m, .maSts m], exec i s = .next s.stall) ∧
     (s.room (some x.ac) x.cf = false → ∀ i ∈ [Instr.mxAtom96 x, .mxAtom128 x, .mxCas96 x, .mxCas128 x, .mxFatom96 x,
       .mxFatom128 x, .mxRed96 x, .mxRed128 x], exec i s = .next s.stall))

/-- R89, R112, R114, R301: an atomic's word takes the results of its lanes in ascending lane order in one step, at the
core level that serves it or at home with no copy elsewhere, once every byte its instruction has still to read is at hand
(log 80); the register of a single lane receives the word's old value. R301: what an atomic makes of a word. -/
def Obligations.AtomicsPerform : Prop :=
  (∀ (s : State) (g id h old : Nat) (o : Op) (a : LaneAcc) (rest : List (Nat × LaneAcc)) (dr : DramRead),
     s.op? g id = some o → o.kind = .atomic → o.scratch = false → o.rel = false →
     (∀ k ∈ s.opGroups g id, ∀ q, s.op? k id = some q → q.rel = false ∧ q.acq = false) →
     s.wordLanes (s.opGroups g id) id a.addr false = (h, a) :: rest → a.peer = none →
     (∀ p ∈ s.lanesLeft (s.opGroups g id) id, p.2.peer = none → ∀ i, i < p.2.size →
       s.heldAbove (s.group p.1).core (s.groupCtx p.1) (s.pointFor p.1 o.scope p.2.cls) (p.2.loc + i) = true ∨
         2 ^ 64 ≤ p.2.loc + i ∨ s.validAt (s.groupCtx p.1) (p.2.loc + i) = true) →
     s.atomPoison (s.opGroups g id) id = false →
     s.gateHolds a.loc a.size (gidOf (s.team (s.group h).team).num (s.group h).home) = false →
     s.gated a.loc a.size = false →
     let core := (s.group h).core
     let ctx := s.groupCtx h
     let at_ := s.pointFor h o.scope a.cls
     let word := ((h, a) :: rest).foldl (fun v p => atomResult o.sel o.ty v p.2.a.toNat p.2.c.toNat) old
     let inside := fun (k : Nat) => a.loc ≤ k ∧ k < a.loc + a.size
     let byte := fun (v k : Nat) => (leBytes a.size v).getD (k - a.loc) 0
     (at_ = .core → (s.core core).level.poison = [] →
       (∀ k, inside k → SMap.has (s.core core).level.ways (tagged ctx k / 64) = true ∧
         ∃ b, (s.core core).level.serves (tagged ctx k) = some b ∧ b.val = byte old k) → old < 2 ^ (8 * a.size) →
       Completes (exec (.atomicPerform g id a.addr dr) s) fun t => t.mem = s.mem ∧
         (∀ k, inside k → ∃ b, (t.core core).level.find (tagged ctx k) = some b ∧ b.val = byte word k ∧ b.dirty = true) ∧
         ∀ j, (∀ k, inside k → j ≠ tagged ctx k) → (t.core core).level.find j = (s.core core).level.find j) ∧
     (at_ = .home → s.homePoison = [] →
       (∀ k, inside k → (s.core core).level.find (tagged ctx k) = none ∧
         (s.cluster (clusterOf core)).level.lineBytes (k / 64) = [] ∧ (∀ c, s.present (k / 64) c = false) ∧ s.readMem k = byte old k ∧
         (k < 2 ^ 64 → s.validAt ctx k = true ∧ (s.keySlot ctx).blocked = false)) → old < 2 ^ (8 * a.size) →
       Completes (exec (.atomicPerform g id a.addr dr) s) fun t => (∀ k, t.core k = s.core k) ∧
         (∀ k, t.readMem k = if inside k then byte word k else s.readMem k) ∧
         (s.opGroups g id = [g] → OneOp s g o → o.lanes = [a] → o.ready = false → o.outside = true → a.acked = true →
           a.landed = [] → a.lane < 96 → o.cnt ≠ 0 → OpEnded s t g o ∧
           (o.ty.is64 = false → o.d < 384 → o.d < 8 * (s.group g).gran → t.readV g o.d a.lane = BitVec.ofNat 32 old) ∧
           (o.ty.is64 = true → o.d + 1 < 384 → o.d + 1 < 8 * (s.group g).gran →
             t.readV g (o.d + 1) a.lane ++ t.readV g o.d a.lane = BitVec.ofNat 64 old)))) ∧
  (∀ (old a c : Word),
     let r := fun op t => BitVec.ofNat 32 (atomResult op t old.toNat a.toNat c.toNat)
     (∀ t ∈ [Ty.i32, .n32, .b32],
       r 0 t = old + a ∧ r 3 t = old &&& a ∧ r 4 t = old ||| a ∧ r 5 t = old ^^^ a ∧ r 6 t = a ∧
       r 7 t = if old = c then a else old) ∧
     r 1 .i32 = (if a.slt old then a else old) ∧ r 2 .i32 = (if old.slt a then a else old) ∧
     r 1 .n32 = (if a.ult old then a else old) ∧ r 2 .n32 = (if old.ult a then a else old))

/-- R87, R303: ms.waitc blocks until counter N of each supplying home group holds at most k. That it is the issuing issue
group which stops, and not the whole path, is the model's reading (log 12). R102, R304, R305: ms.waitb completes when no
committed batch that it names is incomplete, and ms.waitm when every bit of the mask is set in the landing map, each with
the clus-scope acquire; else they block. ms.waitm checks its offset. R304: ms.commit closes the pending entries of each
supplying home group into batch CB and moves CB on; an empty batch is complete at once; the pending copy entries carry CB
as their batch. Where it would make a 65th incomplete batch it waits, until the batch that was the oldest then is
complete. -/
def Obligations.WaitsAndBatches : Prop :=
  (∀ (x : MsArgs) (s : State),
     let ready := ∀ h ∈ s.suppliers s.cur, SMap.look 0 (s.group (s.gid h)).ac x.ac ≤ x.k
     (ready → Completes (exec (.msWaitc x) s) fun t => t.groups = s.groups ∧ Kept s t ∧ Past s t 8) ∧
     (¬ready → Completes (exec (.msWaitc x) s) (Blocks s))) ∧
  (∀ (x : MsArgs) (s : State), s.lanes s.cur ≠ [] →
     let hs := s.suppliers s.cur
     let n := fun h => ((s.readS (s.gid h) x.sa).toNat + x.imm) % 65536
     let open_ := fun h b => b ∈ (s.group (s.gid h)).batches.map Prod.fst ∧ (n h + 65536 - b) % 65536 ≤ 32767
     let acquired := fun t => t = (s.invalidate (s.group s.lowest).core s.curCtx (s.team s.curTeam).place .clus [none]).next 8
     let off := fun h => (s.readS (s.gid h) x.sa).toNat
     let a := s.scratchOf s.curTeam
     let mask := fun h => s.readS (s.gid h) (x.sb + 1) ++ s.readS (s.gid h) x.sb
     let map := fun h => BitVec.ofNat 64 (ofLE (a.read (off h) 8))
     let fits := ∀ h ∈ hs, off h % 8 = 0 ∧ off h + 8 ≤ a.size
     ((∀ h ∈ hs, ∀ b, ¬open_ h b) → Completes (exec (.msWaitb x) s) acquired) ∧
     ((∃ h ∈ hs, ∃ b, open_ h b) → Completes (exec (.msWaitb x) s) (Blocks s)) ∧
     (fits → (∀ h ∈ hs, map h &&& mask h = mask h) → Completes (exec (.msWaitm x) s) acquired) ∧
     (fits → (∃ h ∈ hs, map h &&& mask h ≠ mask h) → Completes (exec (.msWaitm x) s) (Blocks s)) ∧
     (∀ pre h post, hs = pre ++ h :: post → (∀ k ∈ pre, off k % 8 = 0 ∧ off k + 8 ≤ a.size) →
       ¬(off h % 8 = 0 ∧ off h + 8 ≤ a.size) → exec (.msWaitm x) s =
         .next (s.takeTrap s.cur (if off h % 8 ≠ 0 then 3 else 5) (s.ig s.cur).resumePoint (BitVec.ofNat 64 (off h))))) ∧
  (∀ (x : MsArgs) (s : State),
     let full := ∃ h ∈ s.suppliers s.cur, (s.group (s.gid h)).pending ≠ 0 ∧ (64 ≤ (s.group (s.gid h)).batches.length ∨
       (s.ig s.cur).wait = .full ∧ ∃ n, (s.group (s.gid h)).commitFor = some n ∧
         n ∈ (s.group (s.gid h)).batches.map Prod.fst)
     (¬full → Completes (exec (.msCommit x) s) fun t => Past s t 8 ∧
       (∀ g, Supplies s g → t.group g = { s.group g with
         cb := ((s.group g).cb + 1) % 65536, pending := 0, commitFor := none,
         batches := if (s.group g).pending = 0 then (s.group g).batches
           else (s.group g).batches ++ [((s.group g).cb, (s.group g).pending)] }) ∧
       (∀ g, ¬Supplies s g → t.group g = s.group g) ∧ SameElsewhere { s with cores := t.cores } t ∧
       ∀ c, { t.core c with copy := (s.core c).copy } = s.core c ∧
         ((s.core c).copy.map fun q => (q.1, q.2.map (Queued.inBatch s c))) = (t.core c).copy) ∧
     (full → Completes (exec (.msCommit x) s) fun t => Kept s t ∧ t.ctxs = s.ctxs ∧
       (Issuing s → (s.ig s.cur).wait = .none → t.ig s.cur = { s.ig s.cur with wait := .full }) ∧
       (∀ g, Supplies s g → t.group g = { s.group g with
         commitFor := if 64 ≤ (s.group g).batches.length then (s.group g).batches.head?.map Prod.fst
           else (s.group g).commitFor }) ∧
       ∀ g, ¬Supplies s g → t.group g = s.group g))

/-- R174, R175, R307: a barrier form adds its active threads to the barrier's arrivals and waits there, once its release
hold has ended and its core has drained at the scope; then the role settles. With no active lane it passes on. ms.bar.g
needs a cooperative grid. That the issuing issue group alone stops while the hold lasts, and that the arrival counts as it
issues, are the model's readings (logs 12, 69). -/
def Obligations.BarrierForms : Prop :=
  ∀ (x : MsArgs) (s : State),
    let r := s.cur.role
    let m := activeThreads (s.role r).active (s.ig s.cur)
    let core := (s.group s.lowest).core
    let place := (s.team s.curTeam).place
    let toDrain := fun p : Nat × LByte =>
      p.2.ctx = s.curCtx ∧ p.2.dirty = true ∧ (s.ctx s.curCtx).affectedAny [none] p.2.va = true
    let arrives := fun i kind num => Completes (exec i s) fun t => ∃ u : State, t = u.settle r ∧
      u.arrivals r kind num = s.arrivals r kind num ||| m ∧ u.groups = s.groups ∧
      (Issuing s → u.ig s.cur = { s.ig s.cur with wait := .bar kind num x.scp }) ∧
      (∀ q, q ≠ s.cur → u.ig q = s.ig q) ∧ (u.role r).count = (s.role r).count + 1 ∧
      (u.ctx s.curCtx).retired = (s.ctx s.curCtx).retired + 1 ∧ (x.scp = .none → u.mem = s.mem ∧ u.cores = s.cores) ∧
      (x.scp ≠ .none → pointOf place x.scp ≠ .core → ∀ p ∈ (u.core core).level.bytes, ¬toDrain p) ∧
      (x.scp ≠ .none → pointOf place x.scp = .home → ∀ p ∈ (u.cluster (core / 8)).level.bytes, ¬toDrain p)
    let passes := fun i => Completes (exec i s) fun t => t.groups = s.groups ∧ Kept s t ∧ Past s t 8
    let g := s.grid (s.team s.curTeam).grid
    (m ≠ 0 → (x.scp = .none ∨ s.holds x.scp = false) → arrives (.msBarT x) 0 x.imm ∧ arrives (.msBarR x) 1 x.imm ∧
      (g.krec.coop = true → g.lost = false → arrives (.msBarG x) 2 0)) ∧
    (m = 0 → passes (.msBarT x) ∧ passes (.msBarR x) ∧ (g.krec.coop = true → s.lanes s.cur = [] → passes (.msBarG x))) ∧
    (m ≠ 0 → x.scp ≠ .none → s.holds x.scp = true →
      exec (.msBarT x) s = .next s.stall ∧ exec (.msBarR x) s = .next s.stall ∧
      (g.krec.coop = true → g.lost = false → exec (.msBarG x) s = .next s.stall)) ∧
    (g.krec.coop = false → exec (.msBarG x) s =
      .next (s.takeTrap s.cur 1 (s.ig s.cur).resumePoint (BitVec.ofNat 64 (encode (.msBarG x) % 2 ^ 32)))) ∧
    (g.krec.coop = true → g.lost = true → s.lanes s.cur ≠ [] → exec (.msBarG x) s =
      .next (s.takeTrap s.cur 14 (s.ig s.cur).resumePoint 0))

/-- R94: an invalidation at a scope beyond the core leaves in the core level no byte of the affected set of the context;
it changes no group, no role and no scratch. R91, R93: the drain of a release leaves no dirty byte of the affected set in
the core level, at a scope beyond the core, nor in the cluster point, at a scope whose point is home. R91, R93, R98, R306:
a release that its hold does not keep drains its core level of the dirty bytes of its affected sets before its own store,
or its add, is performed; one that its hold keeps changes nothing. -/
def Obligations.DrainsAndInvalidations : Prop :=
  (∀ (s : State) (core ctx : Nat) (place : Placement) (sc : Scope) (objs : List (Option Nat)),
     let t := s.invalidate core ctx place sc objs
     (pointOf place sc ≠ .core → ∀ p ∈ (t.core core).level.bytes,
       ¬(p.2.ctx = ctx ∧ (s.ctx ctx).affectedAny objs p.2.va = true)) ∧
     (pointOf place sc = .core → t = s) ∧
     t.groups = s.groups ∧ t.roles = s.roles ∧ t.allocs = s.allocs ∧ ∀ k, k ≠ core → t.core k = s.core k) ∧
  (∀ (s : State) (core ctx : Nat) (place : Placement) (sc : Scope) (objs : List (Option Nat)),
     let t := s.drain core ctx place sc objs
     (pointOf place sc ≠ .core → ∀ p ∈ (t.core core).level.bytes,
       ¬(p.2.ctx = ctx ∧ p.2.dirty = true ∧ (s.ctx ctx).affectedAny objs p.2.va = true)) ∧
     (pointOf place sc = .home → ∀ p ∈ (t.cluster (core / 8)).level.bytes,
       ¬(p.2.ctx = ctx ∧ p.2.dirty = true ∧ (s.ctx ctx).affectedAny objs p.2.va = true)) ∧
     t.groups = s.groups ∧ t.roles = s.roles ∧ t.allocs = s.allocs) ∧
  (∀ (s : State) (g id : Nat) (o : Op) (dr : DramRead), s.op? g id = some o → o.rel = true → o.scope ≠ .none →
     (o.kind = .store ∨ o.kind = .relAdd ∧ ∀ a ∈ o.lanes,
       s.gateHolds a.loc a.size (gidOf (s.team (s.group g).team).num (s.group g).home) = false ∧ a.done = false) →
     o.lanes ≠ [] →
     (s.relHeld g o = true → exec (.releasePerform g id dr) s = .next s) ∧
     (s.relHeld g o = false → (∀ p ∈ o.syncs, pointOf (s.placeOf g) p.1 ≠ .core) →
       Completes (exec (.releasePerform g id dr) s) fun t => ∀ p ∈ o.syncs,
         ∀ b ∈ (t.core (s.group g).core).level.bytes, ¬(b.2.ctx = s.groupCtx g ∧ b.2.dirty = true ∧
           (s.ctx (s.groupCtx g)).affectedAny p.2 b.2.va = true)))

/-- R309: ms.unbind removes every valid entry whose BASE is sA:sA+1 and whose OBJ is sB:sB+1. -/
def Obligations.UnbindRemoves : Prop :=
  ∀ (x : MsArgs) (s : State), Completes (exec (.msUnbind x) s) fun t => OnlyBinds s t s.curCtx ∧ Past s t 8 ∧
    (t.ctx s.curCtx).binds = (s.ctx s.curCtx).binds.filter fun b => !(s.suppliers s.cur).any fun h =>
      decide (64 * b.base = (s.readS64 (s.gid h) x.sa).toNat ∧ 8 * b.obj = (s.readS64 (s.gid h) x.sb).toNat)

/-- R33, R308: ms.bind enters the entry of each supplying home group in turn; the first that fails a check takes the
protection trap, with the entries made before it left in the table. R101, R192, R310: ms.qjoin appends one join entry,
under one new name for each supplying home group, to every queue that its bits name, to the tile window at its pair's
turn, and records it; it waits for room in a copy queue, and then at the tile window for room, its turn, and a clock in
which the follower has not entered one (log 71). R50, R162, R163, R389: ms.rgive returns granules to the core's pool, and
their registers are gone; ms.rclaim enters a claim at its place in the core's order and the issue group stands; a count
outside a group's bounds, its waiting claims included, raises the protection trap. Issued again after a resume, it waits
for the claim it has. -/
def Obligations.BindsJoinsAndClaims : Prop :=
  (∀ (x : MsArgs) (s : State),
     let r := bindAll s x (s.suppliers s.cur) (s.ctx s.curCtx).binds
     (r.1 = none → Completes (exec (.msBind x) s) fun t => OnlyBinds s t s.curCtx ∧ Past s t 8 ∧
       (t.ctx s.curCtx).binds = r.2) ∧
     (∀ a, r.1 = some a → ∃ u : State, OnlyBinds s u s.curCtx ∧ (u.ctx s.curCtx).binds = r.2 ∧ u.roles = s.roles ∧
       exec (.msBind x) s = .next (u.takeTrap s.cur 5 (s.ig s.cur).resumePoint a))) ∧
  (∀ (x : MsArgs) (s : State) (h : Nat), s.suppliers s.cur = [h] →
     let g := s.gid h
     let core := (s.group g).core
     let team := (s.group g).team
     let bit := fun n => x.imm / 2 ^ n % 2 = 1
     let id := s.nextUid
     let room := s.copyRoom core x.imm 1 = true
     let goes := room ∧ (bit 4 → s.windowTurn s.curTeam = true ∧
       (s.pair (s.teamPair s.curTeam)).window.length + 1 ≤ 32 ∧
       ¬(core % 2 = 0 ∧ (s.pair (s.teamPair s.curTeam)).follow = some s.clock.toNat))
     (goes → Completes (exec (.msQjoin x) s) fun t => t.groups = s.groups ∧ Past s t 8 ∧
       t.nextUid = id + 1 ∧ SMap.look [] t.joins id = [x.imm, core, team] ∧
       (∀ q, q < 4 → SMap.look [] (t.core core).copy q =
         SMap.look [] (s.core core).copy q ++ if bit q then [.join id] else []) ∧
       (bit 4 → Admitted s t { id := id, ctx := (s.team team).ctx, team := team, group := g, pc := 0, job := .join id }) ∧
       (bit 4 → (t.pair (s.teamPair team)).dir = (s.pair (s.teamPair team)).dir) ∧ (¬bit 4 → t.pairs = s.pairs) ∧
       (t.core core).xform = (s.core core).xform ++ (if bit 5 then [.join id] else []) ∧
       t.dmaQ = s.dmaQ ++ (if bit 6 then [.join id] else []) ∧
       (∀ k, k < 8 → (t.stack k).nmu = (s.stack k).nmu ++ if bit (8 + k) then [.join id] else []) ∧
       t.mem = s.mem ∧ t.allocs = s.allocs) ∧
     (¬room → exec (.msQjoin x) s = .next s.leaveWindow.stall) ∧
     (room → ¬goes → exec (.msQjoin x) s = .next s.awaitWindow.stall)) ∧
  (∀ (x : MsArgs) (s : State) (h : Nat), s.suppliers s.cur = [h] →
     let g := s.gid h
     let y := s.group g
     let n := x.imm / 8
     (n + 1 ≤ y.gran → Completes (exec (.msRgive x) s) fun t => Past s t 8 ∧
       (t.group g).gran = y.gran - n ∧ (t.core y.core).free = (s.core y.core).free + n ∧
       (∀ r l, r < 8 * (y.gran - n) → (t.group g).lane r l = y.lane r l) ∧
       (∀ r l, 8 * (y.gran - n) ≤ r → (t.group g).lane r l = 0) ∧
       { t.group g with gran := y.gran, v := y.v } = y ∧ (∀ k, k ≠ g → t.group k = s.group k) ∧
       { t.core y.core with free := (s.core y.core).free } = s.core y.core ∧ SameElsewhere { s with cores := t.cores } t) ∧
     (y.gran < n + 1 → exec (.msRgive x) s = .next (s.takeTrap s.cur 5 (s.ig s.cur).resumePoint (BitVec.ofNat 64 x.imm))) ∧
     (s.claiming = false → y.gran + s.claimed g + n ≤ 48 → Completes (exec (.msRclaim x) s) fun t => ∃ u : State, t = u.settle s.cur.role ∧
       u.groups = s.groups ∧ (Issuing s → u.ig s.cur = { (s.ig s.cur) with
                                                         claim := true
                                                         wait := (if (s.ig s.cur).wait = .none then Wait.full
                                                                  else (s.ig s.cur).wait) }) ∧
       (∃ a b, (s.core y.core).claims = a ++ b ∧
         (u.core y.core).claims = a ++ { group := g, ig := s.cur.ig, n := n, clock := s.clock.toNat, lead := true } :: b) ∧
       { u.core y.core with claims := (s.core y.core).claims } = s.core y.core ∧
       SameElsewhere { s with cores := u.cores } u) ∧
     (s.claiming = false → 48 < y.gran + s.claimed g + n → exec (.msRclaim x) s =
       .next (s.takeTrap s.cur 5 (s.ig s.cur).resumePoint (BitVec.ofNat 64 x.imm))) ∧
     (s.claiming = true → Completes (exec (.msRclaim x) s) fun t => ∃ u : State, t = u.settle s.cur.role ∧
       u.groups = s.groups ∧ u.cores = s.cores ∧ (Issuing s → (u.ig s.cur).claim = true)))

/-- R93, R306: ms.rel makes a release whose access is an atomic add of sB:sB+1 to its object, outstanding on acN in each
supplying home group until that add is performed. R94, R306: ms.acq on an object of this device completes at a load at its
point that reads at least sB:sB+1, with that load's invalidation, at sys scope on a class 5 object (R91); a smaller value
blocks; a poisoned one traps. One supplying home group, one load. -/
def Obligations.SynchronisingObjects : Prop :=
  (∀ (x : MsArgs) (s : State), s.room (some x.ac) 0 = true →
     let a := fun h => s.readS64 (s.gid h) x.sa
     (∀ h ∈ s.suppliers s.cur, (a h).toNat % 8 = 0 ∧ ∃ t, s.check s.curCtx .both mxClass false (a h).toNat = .ok t) →
     Completes (exec (.msRel x) s) fun t => Kept { s with nextUid := s.nextUid + 1 } t ∧ Past s t 8 ∧
       (∀ h ∈ s.suppliers s.cur, t.group (s.gid h) = (s.group (s.gid h)).addOp
         { id := s.nextUid, kind := .relAdd, ig := s.cur.ig, ac := x.ac, scope := x.scp, rel := true, ty := .b64,
           outside := (s.ig s.cur).clause.isNone,
           lanes := [{ s.globalLane .both mxClass 0 8 (a h) with a := s.readS64 (s.gid h) x.sb }] }) ∧
       ∀ g, ¬Supplies s g → t.group g = s.group g) ∧
  (∀ (x : MsArgs) (s : State) (h : Nat) (tr : Trans), s.suppliers s.cur = [h] → (s.ig s.cur).acqDone = [] →
     (s.group (s.gid h)).home = h →
     let g := s.gid h
     let a := s.readS64 g x.sa
     let core := (s.group g).core
     let place := (s.team s.curTeam).place
     a.toNat % 8 = 0 → s.check s.curCtx .both mxClass false a.toNat = .ok tr → (∀ d p, tr.loc ≠ .peer d p) →
     let r := s.readAt core (s.pointFor g x.scp tr.cls) tr.loc.key a.toNat s.curCtx 8 .free
     let v := BitVec.ofNat 64 (ofLE r.2.1)
     let sc := if tr.cls = 5 then .sys else x.scp
     (r.2.2 = [] → s.readS64 g x.sb ≤ v → Completes (exec (.msAcq x) s) fun t => t.groups = s.groups ∧ Past s t 8 ∧
       (pointOf place sc ≠ .core → ∀ p ∈ (t.core core).level.bytes,
         ¬(p.2.ctx = s.curCtx ∧ (s.ctx s.curCtx).affected (some a.toNat) p.2.va = true))) ∧
     (r.2.2 = [] → ¬s.readS64 g x.sb ≤ v → Completes (exec (.msAcq x) s) fun t => t.groups = s.groups ∧
       (Issuing s → t.ig s.cur = { s.ig s.cur with wait := .blocked })) ∧
     (∀ p ps, r.2.2 = p :: ps → exec (.msAcq x) s =
       .next (r.1.takeTrap s.cur 7 (s.ig s.cur).resumePoint (BitVec.ofNat 64 p))))

/-- R59, R60, R64, R85, R88, R98: one lane of a plain store, once no lower lane of the instruction is to write a byte of
it. Below the home point its bytes stand in the core level, dirty, under its context, and what else moves is what leaves
the level to make room: nothing, where its lines have their ways. At the home point they stand in memory, whose other
lines stay where the cache holds the store's lines; in scratch they stand in the team's allocation. -/
def Obligations.StoreIsPerformed : Prop :=
  ∀ (s : State) (g id : Nat) (o : Op) (a : LaneAcc), s.op? g id = some o → o.kind = .store → o.rel = false →
    o.acq = false → o.ready = false → o.scope = .none → o.todo none = [a] → a.peer = none → a.data.length = a.size →
    s.laneWaits (s.opGroups g id) id a = false →
    let core := (s.group g).core
    let ctx := s.groupCtx g
    let at_ := s.pointFor g .none a.cls
    let inside := fun (base k : Nat) => base ≤ k ∧ k < base + a.size
    let ends := fun t => (∀ b ∈ o.lanes, b.acked = true) → OneOp s g o → OpEnded s t g o
    ∀ lane ∈ [none, some a.lane],
      (o.scratch = false → Completes (exec (.storePerform g id lane) s) fun t => ends t ∧
        (at_ = .core → (∀ k, k ≠ core → t.core k = s.core k) ∧
          (∀ k, inside a.loc k → (t.core core).level.find (tagged ctx k) = some
            { val := a.data.getD (k - a.loc) 0, va := a.addr + (k - a.loc), ctx := ctx, dirty := true }) ∧
          (∀ j, (∀ k, inside a.loc k → j ≠ tagged ctx k) →
            (t.core core).level.find j = (s.core core).level.find j ∨ (t.core core).level.find j = none) ∧
          ((∀ k, inside a.loc k → SMap.has (s.core core).level.ways (tagged ctx k / 64) = true) →
            t.mem = s.mem ∧ t.hostMem = s.hostMem ∧ t.clusters = s.clusters ∧
              ∀ j, (∀ k, inside a.loc k → j ≠ tagged ctx k) →
                (t.core core).level.find j = (s.core core).level.find j)) ∧
        (at_ = .home → t.cores = s.cores ∧
          (∀ k, inside a.loc k → (k < 2 ^ 64 → (s.keySlot ctx).blocked = false) →
            t.readMem k = a.data.getD (k - a.loc) 0) ∧
          ((∀ k, inside a.loc k → k < 2 ^ 64 → SMap.has s.msc (k / 64) = true) →
            ∀ k, (∀ i, i < a.size → (a.loc + i) / 64 ≠ k / 64) → t.readMem k = s.readMem k))) ∧
      (o.scratch = true → Completes (exec (.scratchAccessPerform g id lane) s) fun t => ends t ∧
        t.mem = s.mem ∧ t.cores = s.cores ∧ t.clusters = s.clusters ∧
        (∀ k, SMap.look 0 (t.scratchOf (s.group g).team).bytes k =
          if inside a.addr k then a.data.getD (k - a.addr) 0 else SMap.look 0 (s.scratchOf (s.group g).team).bytes k))

/-- R61, R88, R90, R94, R98, R231, R296: the last lane of a load takes its bytes from the core level that serves them,
from home where its class is not cached and the line is valid, or from scratch; then its registers hold what the bytes
give, low address first, and the operation ends; one of a clause, which acquires nothing, has them still to come. An
acquire's then invalidates the core level of each affected set beyond the core. R229, R231: LOAD_PERFORM of an operation
whose accesses are over and whose results are to come writes every one of them that has not been written, and ends the
operation; named some results of one lane, it writes those, leaves the other lanes' registers alone, and while any result
is left the operation and its flag stay. -/
def Obligations.LoadIsPerformed : Prop :=
  (∀ (s : State) (g id : Nat) (o : Op) (a : LaneAcc) (dr : DramRead) (f : Nat → Byte),
     s.op? g id = some o → OneOp s g o → s.opGroups g id = [g] → o.kind = .load → o.ready = false → o.todo none = [a] →
     (o.lanes.map (·.lane)).Nodup → (∀ b ∈ o.lanes, b.acked = true ∧ b.psn = []) → a.got = [] → a.landed = [] →
     a.peer = none → a.lane < 96 → 0 < a.size → a.size = o.cnt * WellFormed.memBytes o.ty →
     let core := (s.group g).core
     let ctx := s.groupCtx g
     let at_ := s.pointFor g o.scope a.cls
     let element := fun e => loadImage o.ty o.cv (ofLE ((List.range (WellFormed.memBytes o.ty)).map fun i =>
       f (e * WellFormed.memBytes o.ty + i)))
     let lands := fun t => OpEnded s t g o ∧ ∀ e, e < o.cnt →
       (o.ty.is64 = false → o.d + e < 384 → o.d + e < 8 * (s.group g).gran →
         t.readV g (o.d + e) a.lane = BitVec.ofNat 32 (element e)) ∧
       (o.ty.is64 = true → o.d + 2 * e + 1 < 384 → o.d + 2 * e + 1 < 8 * (s.group g).gran →
         t.readV g (o.d + 2 * e + 1) a.lane ++ t.readV g (o.d + 2 * e) a.lane = BitVec.ofNat 64 (element e))
     let comes := fun (t : State) => (∀ r l, t.readV g r l = s.readV g r l) ∧ ∃ q, t.op? g id = some q ∧ q.ready = true ∧
       ∃ b ∈ q.lanes, b.lane = a.lane ∧ b.done = true ∧ ∀ i, i < a.size → SMap.look 0 b.got i = f i
     let results := fun t => (o.outside = true ∨ o.acq = true → lands t) ∧ (o.outside = false → o.acq = false → comes t)
     let calm := fun (t : State) => t.mem = s.mem ∧ (∀ c, t.cluster c = s.cluster c) ∧ ∀ k,
       { t.core k with level := { (t.core k).level with tree := (s.core k).level.tree } } = s.core k
     let own := ∀ i, i < a.size → (s.cluster (clusterOf core)).level.foreign ctx ((a.loc + i) / 64) = false
     let held := at_ = .core ∧ (s.core core).level.poison = [] ∧ ∀ i, i < a.size → ∃ b,
       (s.core core).level.serves (tagged ctx (a.loc + i)) = some b ∧ b.val = f i
     let home := at_ = .home ∧ s.homePoison = [] ∧ ∀ i, i < a.size →
       (s.core core).level.find (tagged ctx (a.loc + i)) = none ∧ (s.cluster (clusterOf core)).level.find (a.loc + i) = none ∧
       s.readMem (a.loc + i) = f i ∧ (a.loc + i < 2 ^ 64 → s.validAt ctx (a.loc + i) = true)
     (o.scratch = false → own → held ∨ home →
       (o.acq = false → Completes (exec (.loadPerform g id none dr) s) fun t => results t ∧ calm t) ∧
       (o.acq = true → Completes (exec (.acquirePerform g id dr) s) fun t => results t ∧
         ∀ p ∈ o.syncs, pointOf (s.placeOf g) p.1 ≠ .core → ∀ b ∈ (t.core core).level.bytes,
           ¬(b.2.ctx = ctx ∧ (s.ctx ctx).affectedAny p.2 b.2.va = true))) ∧
     (o.scratch = true → o.acq = false → (s.scratchOf (s.group g).team).poison = [] →
       (∀ i, i < a.size → SMap.look 0 (s.scratchOf (s.group g).team).bytes (a.addr + i) = f i) →
       Completes (exec (.scratchAccessPerform g id none) s) fun t => results t ∧ calm t ∧ t.allocs = s.allocs)) ∧
  (∀ (s : State) (g id : Nat) (o : Op) (dr : DramRead), s.op? g id = some o → OneOp s g o → o.ready = true →
     (o.lanes.map (·.lane)).Nodup → (∀ b ∈ o.lanes, b.lane < 96) →
     let lands := fun (t : State) (b : LaneAcc) (i : Nat) => ∀ r v, (o.results b)[i]? = some (r, v) → i ∉ b.landed →
       r < 384 → r < 8 * (s.group g).gran → t.readV g r b.lane = BitVec.ofNat 32 v
     (Completes (exec (.loadPerform g id none dr) s) fun t => OpEnded s t g o ∧ (∀ b ∈ o.lanes, ∀ i, lands t b i) ∧
       ∀ b n v, o.lanes = [b] → o.results b = [(384 + n, v)] → b.landed = [] → isEm n = false →
         t.readS g n = BitVec.ofNat 32 v) ∧
     (∀ b ∈ o.lanes, ∀ lo n, (∀ p ∈ o.results b, p.1 < 384) →
       Completes (exec (.loadPerform g id (some { lane := b.lane, lo := lo, n := n }) dr) s) fun t =>
         (∀ i, lo ≤ i → i < lo + n → lands t b i) ∧ (∀ r l, l < 96 → l ≠ b.lane → t.readV g r l = s.readV g r l) ∧
         ((∃ c ∈ o.lanes, ∃ i, i < (o.results c).length ∧ i ∉ c.landed ∧ ¬(c.lane = b.lane ∧ lo ≤ i ∧ i < lo + n)) →
           (∀ f, SMap.look 0 (t.group g).cf f = SMap.look 0 (s.group g).cf f) ∧
           ∃ q, t.op? g id = some q ∧ q.ready = true ∧ ∀ c ∈ q.lanes, c.lane = b.lane → ∀ i,
             i ∈ c.landed ↔ i ∈ b.landed ∨ lo ≤ i ∧ i < lo + n)))

/-- R71, R72, R88, R89, R128 to R132: the spontaneous moves: a line with dirty bytes (a core level's named with its
context's tag) written down leaves its level with each dirty value kept below; a line with none is dropped; a valid line
of the memory-side cache goes to DRAM under its slot's key and leaves, or is lost; the scrubber's outcomes; the halving of
pin counters, after which lines may change banks (R73). -/
def Obligations.LevelsMove : Prop :=
  ∀ (s : State) (u line : Nat),
    let core := s.core u
    let cl := s.cluster u
    let base := 64 * line
    (core.level.dirtyBytes line ≠ [] → (core.level.bytes.map Prod.fst).Nodup →
      (∀ p ∈ core.level.dirtyBytes line, (s.keySlot p.2.ctx).blocked = false) →
      Completes (exec (.coreWriteDown u line) s) fun t => (t.core u).level.lineBytes line = [] ∧
        (∀ p ∈ core.level.bytes, p.1 / 64 ≠ line → p ∈ (t.core u).level.bytes) ∧
        ∀ p ∈ core.level.dirtyBytes line, t.readMem (untagged p.1) = p.2.val ∨
          ∃ b, (t.cluster (u / 8)).level.find (untagged p.1) = some b ∧ b.val = p.2.val ∧ b.dirty = true) ∧
    (cl.level.dirtyBytes line ≠ [] → (cl.level.bytes.map Prod.fst).Nodup →
      (∀ p ∈ cl.level.dirtyBytes line, (s.keySlot p.2.ctx).blocked = false) →
      Completes (exec (.clusterWriteDown u line) s) fun t => (t.cluster u).level.lineBytes line = [] ∧
        ∀ p ∈ cl.level.dirtyBytes line, t.readMem p.1 = p.2.val) ∧
    (core.level.dirtyBytes line = [] → Completes (exec (.dropLine true u line) s) fun t =>
      (t.core u).level.lineBytes line = [] ∧ { t with cores := s.cores } = s ∧ (∀ k, k ≠ u → t.core k = s.core k) ∧
        ∀ k, k / 64 ≠ line → (t.core u).level.find k = core.level.find k) ∧
    (cl.level.dirtyBytes line = [] → Completes (exec (.dropLine false u line) s) fun t =>
      (t.cluster u).level.lineBytes line = [] ∧ { t with clusters := s.clusters } = s ∧
        (∀ k, k ≠ u → t.cluster k = s.cluster k) ∧
        ∀ k, k / 64 ≠ line → (t.cluster u).level.find k = cl.level.find k) ∧
    (∀ m, findKey s.msc line = some m → m.dirty = true → m.valid = allValid →
      Completes (exec (.mscWriteback line true) s) (fun t => SMap.has t.msc line = false ∧ t.mem = s.mem ∧
        ∃ d, findKey t.dram line = some d ∧ d.key = s.key m.slot ∧ ∀ i, i < 64 → d.data.getD i 0 = s.readMem (base + i)) ∧
      Completes (exec (.mscWriteback line false) s) (fun t => SMap.has t.msc line = false ∧ t.dram = s.dram ∧
        (∀ i, i < 64 → t.readMem (base + i) = Memory.unlisted) ∧
        (∀ k, k / 64 ≠ line → t.readMem k = s.readMem k) ∧
        ((s.eqHead + 1) % 256 ≠ s.eqTail.toNat % 256 → SMap.look 0 t.eq s.eqHead = errRecord 4 m.slot 0 base))) ∧
    exec (.patrolScrub line .clean none) s = .next s ∧
    Completes (exec (.patrolScrub line .corrected none) s) (fun t =>
      (t.stack (stackOf base)).corrected = (s.stack (stackOf base)).corrected + 1 ∧ { t with stks := s.stks } = s) ∧
    Completes (exec (.patrolScrub line .lasting none) s) (fun t => t.homePoisoned base = true ∧
      t.homePoisoned (base + 32) = true ∧ t.mem = s.mem) ∧
    (∀ up, SMap.has s.msc line = true → Completes (exec (.patrolScrub line .clean (some up)) s) fun t =>
      t.homePoisoned (base + (if up then 32 else 0)) = true ∧ t.mem = s.mem) ∧
    (∀ age, age = cl.pincfg.toNat / 256 % 4096 → age ≠ 0 → age * 1024 ≤ cl.accesses → (cl.lines.map Prod.fst).Nodup →
      Completes (exec (.pinCounterAgeing u) s) fun t =>
        { t with clusters := s.clusters } = s ∧ (∀ k, k ≠ u → t.cluster k = s.cluster k) ∧
        (t.cluster u).accesses = cl.accesses - age * 1024 ∧
        ∀ n m, findKey cl.lines n = some m → ∃ b, findKey (t.cluster u).lines n = some { bank := b, count := m.count / 2 })

/-- R287 to R290: an xf form places one entry last in its core's transform queue, holding for each active lane the words
that its form gives from the operands at issue, and raises its completion flag; a form whose flag has no room waits. -/
def Obligations.TransformForms : Prop :=
  ∀ (x : XfArgs) (s : State), s.lanes s.cur ≠ [] →
    let core := (s.group s.lowest).core
    let act := fun (h l : Nat) => (l, h) ∈ s.lanes s.cur
    let a := fun h l => s.src (s.gid h) l x.a
    let enters := fun i (f : Nat → Nat → List (Nat × Word) → Prop) =>
      (s.room none x.cf = false → exec i s = .next s.stall) ∧
      (s.room none x.cf = true → Completes (exec i s) fun t => ∃ e : XformEntry,
        (t.core core).xform = (s.core core).xform ++ [.entry e] ∧ e.outside = (s.ig s.cur).clause.isNone ∧
        (∀ h l, act h l → ∃ ws, f h l ws ∧ ∀ w ∈ ws, (s.gid h, w.1, l, w.2) ∈ e.writes) ∧
        (∀ w ∈ e.writes, ∃ h ws, act h w.2.2.1 ∧ f h w.2.2.1 ws ∧ w.1 = s.gid h ∧ (w.2.1, w.2.2.2) ∈ ws) ∧
        (∀ g, { t.group g with cf := (s.group g).cf } = s.group g ∧ ∀ c, SMap.look 0 (t.group g).cf c =
          SMap.look 0 (s.group g).cf c + if (∃ h ∈ s.suppliers s.cur, g = s.gid h) ∧ s.flagOf x.cf = some c then 1 else 0) ∧
        SameElsewhere { s with cores := t.cores } t ∧ (∀ k, k ≠ core → t.core k = s.core k) ∧ Past s t 12)
    let amax := fun h l => s.blockMax (s.gid h) x.a x.imm (maskOf (s.lanes s.cur) h) (l / 32)
    enters (.xfQuant x) (fun h l ws => ws = [(x.d, BitVec.ofNat 32 (s.quantIdx (s.gid h) x.b (amax h l) (a h l).toNat)),
      (x.d + 1, BitVec.ofNat 32 (amax h l))]) ∧
    enters (.xfDq x) (fun h l ws => ws = [(x.d, BitVec.ofNat 32 (mulF .f32
      (cvtExact .f32 .f16 (s.book (s.gid h) x.b ((a h l).toNat % 16))) (s.src (s.gid h) l (x.a + 1)).toNat .rne false).1)]) ∧
    enters (.xfSign x) (fun h l ws => ∃ w : Word, ws = [(x.d, w)] ∧ ∀ i, i < 32 → (w.getLsbD i = true ↔
      act h (32 * (l / 32) + i) ∧ 32 * (l / 32) + i < 96 ∧
        (a h (32 * (l / 32) + i)).getLsbD (if x.ty = .f32 ∨ x.ty = .i32 then 31 else 15 + 16 * x.sel) = true)) ∧
    (elemBits x.ty ∈ [1, 2, 4, 8, 16] → enters (.xfPack x) (fun h l ws => ∃ w : Word, ws = [(x.d, w)] ∧
      ∀ i, i < 32 / elemBits x.ty → w.toNat / 2 ^ (elemBits x.ty * i) % 2 ^ elemBits x.ty =
        let p := l / (32 / elemBits x.ty) * (32 / elemBits x.ty) + i
        if (p, h) ∈ s.lanes s.cur ∧ p < 96 then (a h p).toNat % 2 ^ elemBits x.ty else 0))

/-- R84, R312 to R317: a ce form that passes the checks of R314 appends one entry to queue QN of its core for its home
group, with the operands as they are at issue; an entry is pending until it is committed, and one into scratch counts as
inbound. A full queue waits. A failed check traps. One supplying home group. -/
def Obligations.CopyForms : Prop :=
  ∀ (x : CeArgs) (s : State) (h : Nat), s.suppliers s.cur = [h] →
    let g := s.gid h
    let y := s.group g
    let len := s.readS g x.ln
    let copied := fun (t : State) n => SMap.look [] (t.core y.core).copy n
    let entry := fun dst src : Place => ({
      id := s.nextUid, ctx := (s.team y.team).ctx, team := y.team, group := g, batch := none, src := src, dst := dst,
      len := if len.toNat % 65536 = 0 then 32768 else len.toNat % 65536, first := len.toNat / 65536 % 64,
      map := if WellFormed.ceNomap x.sel then none else some (s.readS g x.map).toNat } : CopyEntry)
    let fits := (SMap.look [] (s.core y.core).copy x.q).length < Config.copyQueueLen
    let enters := fun i f (p : CopyEntry → Prop) =>
      (s.ceFail f x g = none → fits → Completes (exec i s) fun t => Past s t 16 ∧ ∃ e, p e ∧
        copied t x.q = copied s x.q ++ [.entry e] ∧ (∀ n, n ≠ x.q → copied t n = copied s n) ∧
        t.group g = { y with pending := y.pending + 1 } ∧ (∀ k, k ≠ g → t.group k = s.group k) ∧
        t.mem = s.mem ∧ t.nextUid = s.nextUid + 1 ∧
        ∀ n, t.alloc n = { s.alloc n with inb := (s.alloc n).inb + (match e.dst with
          | .scratch _ => if n = (s.team y.team).alloc then 1 else 0
          | .receivers ts _ => (ts.filter fun r => (s.team r).alloc == n).length
          | _ => 0) }) ∧
      (s.ceFail f x g = none → ¬fits → exec i s = .next s.stall) ∧
      (∀ c a, s.ceFail f x g = some (c, a) → exec i s = .next (s.takeTrap s.cur c (s.ig s.cur).resumePoint a))
    enters (.ceCp x) .cp (fun e => e = entry (s.ceDst .cp x g) (s.ceSrc .cp x g)) ∧
    enters (.ceFill x) .fill (fun e => e = entry (s.ceDst .fill x g) (.pattern (s.readS g x.src))) ∧
    enters (.ceChain x) .chain (fun e => ∃ ts, e = entry (.receivers ts x.offd) (s.ceSrc .chain x g) ∧
      ∀ r ∈ ts, ∃ i, i < 32 ∧ (s.readS g (x.dst + 1)).getLsbD i = true ∧
        s.receiver y.team (y.core / 8) ((s.readS g x.dst).toNat + i) = some r)

/-- R12, R192, R320, R325 to R337: a tile-window form whose slots, completion word, address and scales pass their checks
enters the window of its pair at its turn, with its operands as they are at issue, and marks its destination slot pending;
a full window, one whose turn is another team's, or for the leader a clock in which the follower has entered one (log 71),
makes it wait. R56, R322, R343: tq.info and tq.get make an operation of the lowest supplying home group, on no arrival
counter, whose value is read at a later moment; a flag with no room makes them wait, and a slot that the team does not
have traps. tq.set writes a control register of the context. R231, R343: a tq operation reads its count of the pair, or
the state, format, rank and granules of a slot once no entry of the team that entered before it and writes the slot is in
the window; its scalar register takes the value and it ends, or inside a clause the value is to come. An SD of s124 to
s126 is a word of the execution mask: the bits of the home group's live threads take the value's and the others read 0
(R172). -/
def Obligations.TileForms : Prop :=
  (∀ (x : ToArgs) (m : MfArgs) (s : State), s.lanes s.cur ≠ [] →
     let p := s.teamPair s.curTeam
     let room := s.windowTurn s.curTeam = true ∧ (s.pair p).window.length < 32 ∧
       ¬((s.group s.lowest).core % 2 = 0 ∧ (s.pair p).follow = some s.clock.toNat)
     let enters := fun i len slots cw (addr : Option DWord) pend (e : Nat → WEntry) =>
       let off := (s.readS s.lowest cw).toNat
       (∀ n ∈ slots, n < (s.team s.curTeam).krec.tiles) → off % 8 = 0 → off + 8 ≤ (s.scratchOf s.curTeam).size →
       (∀ a, addr = some a → a.toNat % 64 = 0 ∧ a.toNat < 2 ^ 48) →
       (room → Completes (exec i s) fun t => t.groups = s.groups ∧ Past s t len ∧
         Admitted s t { e off with id := s.nextUid } ∧
         (∀ k, (t.pair p).entry k = if pend = true ∧ k = (e off).td then { (s.pair p).entry k with pend := true }
           else (s.pair p).entry k) ∧
         (t.pair p).gmap = (s.pair p).gmap ∧
         SameElsewhere { s with pairs := t.pairs, nextUid := s.nextUid + 1 } t) ∧
       (¬room → exec i s = .next s.awaitWindow.stall)
     let to_ := fun i slots addr pend job => enters i 12 slots x.cw addr pend fun off =>
       s.tileEntry job x.ty x.sel off x.td x.ta x.tb x.tc
     let a := s.readS64 s.lowest x.bp + (BitVec.ofNat 24 x.off).signExtend 64
     let fb := s.readS s.lowest m.fb
     let oa := (s.readS s.lowest (m.fb + 1)).toNat
     let ob := (s.readS s.lowest (m.fb + 2)).toNat
     let la := if fb.getLsbD 9 then (if fb.getLsbD 8 then 16 else 32) else 0
     let lb := if fb.getLsbD 25 then (if fb.getLsbD 24 then 16 else 32) else 0
     let mf := fun i job => enters i 16 [m.tc] m.cw none true fun off =>
       s.tileEntry job .f32 m.sel off m.tc m.tc m.tc m.tc
     enters (.toLd x) 12 [x.td] x.cw (some a) true
       (fun off => s.tileEntry (.ld a.toNat) x.ty x.sel off x.td x.td x.td x.td) ∧
     enters (.toSt x) 12 [x.ta] x.cw (some a) false
       (fun off => s.tileEntry (.st a.toNat) x.ty x.sel off x.ta x.ta x.ta x.ta) ∧
     to_ (.toZero x) [x.td] none true (.zero (x.sel == 1)) ∧ to_ (.toFree x) [x.td] none true .free ∧
     to_ (.toDense x) [x.td, x.ta] none true .dense ∧ to_ (.toCmpr x) [x.td, x.ta] none true .cmpr ∧
     to_ (.toAdd x) [x.td, x.ta, x.tb] none true .add ∧ to_ (.toMul x) [x.td, x.ta, x.tb] none true .mul ∧
     to_ (.toGemm x) [x.td, x.ta, x.tb, x.tc] none true .gemm ∧ to_ (.toLu x) [x.td, x.ta] none true .lu ∧
     to_ (.toTrsm x) [x.td, x.ta, x.tb] none true .trsm ∧ to_ (.toTr x) [x.td, x.ta] none true .tr ∧
     to_ (.toRound x) [x.td, x.ta] none true .round ∧
     to_ (.toScal x) [x.td, x.ta] none true (.scal (if x.ty = .f64 then (s.readS64 s.lowest x.bp).toNat
       else (s.readS64 s.lowest x.bp).toNat % 2 ^ 32)) ∧
     (fragTypes fb = none → mf (.mfMma m) .badMma ∧ mf (.mfMmasp m) .badMma) ∧
     (∀ ta tb k na nb sp, fragTypes fb = some (ta, tb) → fragShape ta tb = some (k, na, nb, sp) →
       fb &&& 0xFCE0FCE0#32 = 0 →
       (la ≠ 0 → scaledTy ta = true ∧ s.scaleFail oa k la = none) →
       (lb ≠ 0 → scaledTy tb = true ∧ s.scaleFail ob k lb = none) →
       let sa := if la = 0 then [] else s.scaleRows oa k la
       let sb := if lb = 0 then [] else s.scaleRows ob k lb
       mf (.mfMma m) (.mma (m.sel % 2 == 1) ta tb k 0 (s.fragWords m.a na) (s.fragWords m.b nb) [] la lb sa sb) ∧
       (sp = true → mf (.mfMmasp m) (.mma (m.sel % 2 == 1) ta tb k (2 ^ spLog m.sel) (s.fragWords m.a (na / 2))
         (s.fragWords m.b nb) (s.fragWords m.idx (k * spLog m.sel / 64)) la lb sa sb)))) ∧
  (∀ (x : TqArgs) (s : State), s.lanes s.cur ≠ [] →
     let reads := fun i sel slot =>
       (s.room none x.cf = true → Completes (exec i s) fun t => Kept { s with nextUid := s.nextUid + 1 } t ∧ Past s t 12 ∧
         t.group s.lowest = (s.group s.lowest).addOp
           { id := s.nextUid, kind := .query, ig := s.cur.ig, counted := false, cf := s.flagOf x.cf,
             outside := (s.ig s.cur).clause.isNone, accepted := true, sel := sel, bank := slot, d := 384 + x.sd,
             ty := .b32, writes := [384 + x.sd], lanes := [{ lane := 0, addr := 0, size := 4 }] } ∧
         ∀ g, g ≠ s.lowest → t.group g = s.group g) ∧
       (s.room none x.cf = false → exec i s = .next s.stall)
     let sets := fun n (f : Ctx → Ctx) => x.sel = n → Completes (exec (.tqSet x) s) fun t => t.groups = s.groups ∧
       Past s t 12 ∧ SameElsewhere s t ∧ t.ctx s.curCtx = { f (s.ctx s.curCtx) with
         retired := (t.ctx s.curCtx).retired, due := (t.ctx s.curCtx).due } ∧
       ∀ c, c ≠ s.curCtx → t.ctx c = s.ctx c
     let v := BitVec.ofNat 32 x.imm
     (x.ta < (s.team s.curTeam).krec.tiles → reads (.tqInfo x) 4 x.ta) ∧
     ((s.team s.curTeam).krec.tiles ≤ x.ta → exec (.tqInfo x) s =
       .next (s.takeTrap s.cur 5 (s.ig s.cur).resumePoint (BitVec.ofNat 64 x.ta))) ∧
     reads (.tqGet x) x.sel 0 ∧
     sets 0 (fun c => if 64 ≤ v.toNat then c else { c with rankCeil := if 48 ≤ v.toNat then 47 else v }) ∧
     sets 1 (fun c => if v &&& 0xFFFFC0FC#32 = 0 ∧ v.toNat % 4 ≠ 3 ∧ 1 ≤ v.toNat / 256 ∧ v.toNat / 256 ≤ 47
       then { c with rankMode := v } else c) ∧
     sets 2 (fun c => { c with rankTol := BitVec.ofNat 64 (cvtExact .f64 .f32 x.imm) }) ∧
     sets 3 (fun c => if 2 ≤ v.toNat then c else { c with tileTrap := v }) ∧
     sets 4 (fun c => { c with tileQuota := if 1536 < v.toNat then 1536 else v })) ∧
  (∀ (s : State) (g id n : Nat) (o : Op) (a : LaneAcc) (dr : DramRead), s.op? g id = some o → OneOp s g o →
     o.kind = .query → o.ready = false → o.acq = false → o.d = 384 + n → o.lanes = [a] → a.size = 4 → a.landed = [] →
     let t := (s.group g).team
     let p := s.pair (s.teamPair t)
     let k := (p.slot t o.bank).getD 0
     let d := p.entry k
     let role := teamRole (s.group g).team (s.group g).role
     let live := fun h l => (s.role role).path.any (fun e => e.mask.getLsbD (96 * h + l)) &&
       !(s.role role).exited.getLsbD (96 * h + l)
     let busy := o.sel = 4 ∧ ∃ e ∈ p.window, e.team = t ∧ e.id < o.id ∧ k ∈ e.writes
     let gives := fun v => (¬busy → Completes (exec (.loadPerform g id none dr) s) fun u =>
       (o.outside = true → OpEnded s u g o ∧ (isEm n = false → u.readS g n = BitVec.ofNat 32 v) ∧
         (isEm n = true → ∀ h l, h < 32 → l < 96 →
           (u.role role).em.getLsbD (96 * h + l) =
             if h = (s.group g).home ∧ l / 32 = n - 124 ∧ live h l = true then v.testBit (l % 32)
             else (s.role role).em.getLsbD (96 * h + l))) ∧
       (o.outside = false → SMap.look 0 (u.group g).s n = SMap.look 0 (s.group g).s n ∧ ∃ q, u.op? g id = some q ∧
         q.ready = true ∧ ∀ b ∈ q.lanes, q.results b = [(384 + n, v % 2 ^ 32)]))
     (busy → exec (.loadPerform g id none dr) s = .next s) ∧
     (o.sel = 0 → gives ((p.dir.filter fun e => e.2.ctx == (s.team t).ctx).map fun e => e.2.ngran).sum) ∧
     (o.sel = 1 → gives (1536 - (p.dir.map fun e => e.2.ngran).sum)) ∧
     (o.sel = 2 → gives (p.window.filter fun e => e.team == t).length) ∧
     (o.sel = 3 → gives (s.team t).krec.tiles) ∧
     (o.sel = 4 → gives (d.tile.state + d.tile.fmt * 2 ^ 5 + d.tile.rank * 2 ^ 10 + d.ngran * 2 ^ 16)))

/-- R231, R287: the oldest entry of a transform queue writes all the words it has left, into the registers that the groups
still have, and leaves, each flag it holds falling by one; or it writes one of its words and keeps the others, with the
flags of the home groups that have words left, the others falling by one. R315, R318, R319: a chunk of the entry at the
head of a copy queue, from scratch or a pattern, lands in scratch or at home with exactly its bytes; its bit of the map is
set, and after the last chunk the entry leaves its queue. R26, R27, R101, R236: a join leaves every queue in one step once
no queue holds it behind another entry; a stalled entry, and a descheduled issue group, go on after the host has mapped
the page, the issue group at its resume point. -/
def Obligations.EnginesPerform : Prop :=
  (∀ (s : State) (core : Nat) (e : XformEntry) (rest : List (Queued XformEntry)), (s.core core).xform = .entry e :: rest →
     (∀ w ∈ e.writes, w.2.1 < 384) →
     Completes (exec (.transformEntryComplete ⟨core, none⟩) s) (fun t => (t.core core).xform = rest ∧ t.mem = s.mem ∧
       ((e.writes.map fun w => (w.1, w.2.1, w.2.2.1)).Nodup → ∀ w ∈ e.writes, w.2.2.1 < 96 →
         w.2.1 < 8 * (s.group w.1).gran → t.readV w.1 w.2.1 w.2.2.1 = w.2.2.2) ∧
       (∀ g r l, l < 96 → (∀ w ∈ e.writes, ¬(w.1 = g ∧ w.2.1 = r ∧ w.2.2.1 = l)) → t.readV g r l = s.readV g r l) ∧
       (e.flags.Nodup → ∀ g c, SMap.look 0 (t.group g).cf c = SMap.look 0 (s.group g).cf c -
         if (g, c) ∈ e.flags then 1 else 0) ∧
       ∀ g, { t.group g with v := (s.group g).v, cf := (s.group g).cf } = s.group g) ∧
     (∀ i w, e.writes[i]? = some w → 2 ≤ e.writes.length → Completes (exec (.transformEntryComplete ⟨core, some i⟩) s) fun t =>
       (t.core core).xform = .entry { e with
         writes := e.writes.eraseIdx i
         flags := e.flags.filter (fun f => (e.writes.eraseIdx i).any fun u => u.1 == f.1) } :: rest ∧ t.mem = s.mem ∧
       (e.flags.Nodup → ∀ g c, SMap.look 0 (t.group g).cf c = SMap.look 0 (s.group g).cf c -
         if (g, c) ∈ e.flags ∧ ∀ u ∈ e.writes.eraseIdx i, u.1 ≠ g then 1 else 0) ∧
       (w.2.2.1 < 96 → w.2.1 < 8 * (s.group w.1).gran → t.readV w.1 w.2.1 w.2.2.1 = w.2.2.2) ∧
       (∀ g r l, l < 96 → ¬(w.1 = g ∧ w.2.1 = r ∧ w.2.2.1 = l) → t.readV g r l = s.readV g r l) ∧
       ∀ g, { t.group g with v := (s.group g).v, cf := (s.group g).cf } = s.group g)) ∧
  (∀ (s : State) (core q k : Nat) (dr : DramRead) (e : CopyEntry) (f : Nat → Byte), s.copyHead core q = some e →
     k < chunksOf e.len → e.landed.getLsbD k = false → e.sent.getLsbD k = false → e.stalled = none → e.events = [] →
     findKey e.asked k = none →
     let n := min 512 (e.len - 512 * k)
     let a := s.scratchOf e.team
     let after := e.landed ||| BitVec.twoPow 64 k
     let last := ∀ i, i < chunksOf e.len → after.getLsbD i = true
     ((∃ w : Word, e.src = .pattern w ∧ ∀ i, i < n → f i = (leBytes 4 w.toNat).getD ((512 * k + i) % 4) 0) ∨
       (∃ p, e.src = .scratch p ∧ a.poison = [] ∧ ∀ i, i < n → f i = SMap.look 0 a.bytes (p + 512 * k + i))) →
     let moves := fun t : State => (¬last → t.copyHead core q = some { e with landed := after }) ∧
       (last → SMap.look [] (t.core core).copy q = (SMap.look [] (s.core core).copy q).drop 1)
     (∀ p, e.dst = .scratch p → (∀ m, e.map = some m → m + 16 ≤ p ∨ p + e.len ≤ m) →
       Completes (exec (.copyChunkLand core q k dr) s) fun t => moves t ∧
         (∀ i, i < n → SMap.look 0 (t.scratchOf e.team).bytes (p + 512 * k + i) = f i) ∧
         ∀ m, e.map = some m → ofLE ((t.scratchOf e.team).read m 8) = ofLE (a.read m 8) ||| 2 ^ (e.first + k) % 2 ^ 64) ∧
     (∀ p pa cls page size, e.dst = .global p →
       (∀ i, i < n → s.check e.ctx .wr engineClass true (p + 512 * k + i) =
         .ok { cls := cls, loc := .dev (pa + i), page := page, pageSize := size }) → pa + n ≤ 2 ^ 64 →
       (s.keySlot e.ctx).blocked = false →
       Completes (exec (.copyChunkLand core q k dr) s) fun t => moves t ∧ ∀ i, i < n → t.readMem (pa + i) = f i)) ∧
  (∀ (s : State) (id bits core team : Nat),
     let k := s.core core
     (findKey s.joins id = some [bits, core, team] → (s.team team).resident = true →
       (∀ q ∈ k.copy, headJoin q.2 id = true) → headJoin k.xform id = true → headJoin s.dmaQ id = true →
       (∀ t ∈ s.stks, headJoin t.2.nmu id = true) → windowJoin (s.pair (core / 2)).window id = true →
       Completes (exec (.queueJoinPerform id) s) fun t => SMap.has t.joins id = false ∧
         (∀ q, .join id ∉ SMap.look [] (t.core core).copy q) ∧ .join id ∉ (t.core core).xform ∧ .join id ∉ t.dmaQ ∧
         (∀ n, .join id ∉ (t.stack n).nmu) ∧ (∀ e ∈ (t.pair (core / 2)).window, e.id ≠ id) ∧
         t.groups = s.groups ∧ t.mem = s.mem) ∧
     (∀ q e i n off, s.copyHead core q = some e → e.stalled = some (i, n, off) → s.answered e.ctx i = true →
       Completes (exec (.engineEntryResume (.copy core q)) s) fun t =>
         t.copyHead core q = some { e with stalled := none } ∧ { t with cores := s.cores } = s) ∧
     (∀ p e i, (s.pair p).window.find? (fun x => x.id == e.id) = some e → e.stalled = some i → s.answered e.ctx i = true →
       Completes (exec (.engineEntryResume (.tile p e.id)) s) fun t => { t with pairs := s.pairs } = s ∧
         (t.pair p).window = (s.pair p).window.map fun x => if x.id = e.id then { x with stalled := none } else x) ∧
     (∀ c r i, ((s.ctx c).region r).stalled = some i → s.answered c i = true →
       Completes (exec (.engineEntryResume (.gossip c r)) s) fun t =>
         (t.ctx c).region r = { (s.ctx c).region r with stalled := none } ∧ { t with ctxs := s.ctxs } = s) ∧
     (∀ r i, let g := s.ig r
       (s.role r.role).igs ≠ [] → (∃ x ∈ (s.role r.role).igs, x.uid = r.ig) → g.fault = some i →
       (s.team (r.role / 4)).resident = true → (s.ctx (s.team (r.role / 4)).ctx).run = .running →
       s.answered (s.team (r.role / 4)).ctx i = true →
       Completes (exec (.faultReplay r) s) fun t => t.groups = s.groups ∧ (∀ q, q ≠ r → t.ig q = s.ig q) ∧
         (t.ig r).fault = none ∧ (t.ig r).pc = g.resumePoint.1 ∧ (t.ig r).clause = none ∧
         (t.ig r).slots = g.slots ∧ SameElsewhere s t))

/-- R55, R57, R193, R321, R330, R342, R343: an entry whose turn it is starts; a to.ld first reads its header and its data,
and has started once it has its tile or its failure; what a peer holds it waits for. The oldest entry of its team,
started, leaves the window at its commit: its completion word gains one in its low half and its flags above, and its
result, with its granules, stands in its destination slot, or a result that does not exist leaves the slot as it was. A
to.st then writes what is left of its image at home; a chunk that fails its check ends it with FAULT, unwritten, or stalls
it. A result whose granules are not to be had leaves the slot as it was: ALLOC is reported, or with TILETRAP set the entry
is held, uncounted, and its home group is to trap; a held entry waits for sy.tret, and reports ALLOC once its home group
has exited. -/
def Obligations.TilesExecute : Prop :=
  ∀ (s : State) (p id : Nat) (e : WEntry) (dr : DramRead),
    let w := (s.pair p).window
    let word := fun u : State => ofLE ((u.scratchOf e.team).read e.cw 8)
    let leaves := fun (t : State) flags => (t.pair p).window = w.filter (fun x => x.id != e.id) ∧
      word t = (word s / 2 ^ 32 * 2 ^ 32 + (word s % 2 ^ 32 + 1) % 2 ^ 32) ||| flags
    ((s.pair p).mayStart id = some e → (∀ a, e.job ≠ .ld a) → Completes (exec (.tileEntryStart p id) s) fun t =>
      (t.pair p).window = w.map (fun x => if x.id = id then { x with started := true } else x) ∧
      { t with pairs := s.pairs } = s ∧ (t.pair p).dir = (s.pair p).dir) ∧
    (∀ a, (s.pair p).mayStart id = some e → e.job = .ld a →
      let first := s.engineGather (clusterOf (2 * p)) e.ctx a engineClass .free 0 64 (.tile p id)
      let reads := fun (f : WEntry → WEntry) => Completes (exec (.tileEntryStart p id) s) fun t =>
        (t.pair p).window = w.map fun x => if x.id = id then f x else x
      (∀ bs r, allCome e.asked = some bs → imageRead bs = .inr r →
        reads fun x => { x with started := true, loaded := some r, asked := [] }) ∧
      (∀ u va c, e.asked = [] → first = (u, .error (va, c)) → c ≠ 4 →
        reads fun x => { x with started := true, loaded := some (none, cwFault), asked := [] }) ∧
      (∀ u va, e.asked = [] → first = (u, .error (va, 4)) →
        reads fun x => { x with stalled := some (u.ctx e.ctx).ringNext }) ∧
      (∀ u more, e.asked = [] → first = (u, .ok more) → none ∈ more → reads fun x => { x with asked := x.asked ++ more }) ∧
      (∀ u more hd n v more' bs r, e.asked = [] → first = (u, .ok more) → allCome more = some hd → imageRead hd = .inl n →
        (u.modEntry p id fun x => { x with asked := x.asked ++ more }).engineGather (clusterOf (2 * p)) e.ctx
          (a + hd.length) engineClass .free hd.length n (.tile p id) = (v, .ok more') →
        allCome (more ++ more') = some bs → imageRead bs = .inr r →
        reads fun x => { x with started := true, loaded := some r, asked := [] })) ∧
    (w.find? (fun x => x.team == e.team) = some e → e.id = id → (∀ x ∈ w, x.id = id → x = e) → e.started = true →
      e.stalled = none → e.held = false → s.queryBefore p e = false →
      (∀ flags, (∀ a, e.job ≠ .st a) → flags < 2 ^ 64 → (s.pair p).result e = (none, flags) →
        Completes (exec (.tileCommit p id dr) s) fun t => leaves t flags ∧
          ∀ k, ((t.pair p).entry k).tile = ((s.pair p).entry k).tile) ∧
      (∀ tile flags, (∀ a, e.job ≠ .st a) → flags < 2 ^ 64 → (s.pair p).result e = (some tile, flags) →
        let old := ((s.pair p).entry e.td).ngran
        (tile.granules ≤ old ∨ (s.pair p).heldBy e.ctx + (tile.granules - old) ≤ (s.ctx e.ctx).tileQuota.toNat ∧
          tile.granules - old ≤ (s.pair p).freeGranules) →
        Completes (exec (.tileCommit p id dr) s) fun t => leaves t flags ∧
          ((t.pair p).entry e.td).tile = tile ∧ ((t.pair p).entry e.td).ngran = tile.granules ∧
          ∀ k, k ≠ e.td → ((t.pair p).entry k).tile = ((s.pair p).entry k).tile) ∧
      (∀ tile flags, (∀ a, e.job ≠ .st a) → flags < 2 ^ 64 → (s.pair p).result e = (some tile, flags) →
        let old := ((s.pair p).entry e.td).ngran
        let same := fun t : State => ∀ k, ((t.pair p).entry k).tile = ((s.pair p).entry k).tile ∧
          ((t.pair p).entry k).ngran = ((s.pair p).entry k).ngran
        old < tile.granules → ((s.ctx e.ctx).tileQuota.toNat < (s.pair p).heldBy e.ctx + (tile.granules - old) ∨
          (s.pair p).freeGranules < tile.granules - old) →
        ((s.ctx e.ctx).tileTrap.getLsbD 0 = false ∨ (s.group e.group).exited = true →
          Completes (exec (.tileCommit p id dr) s) fun t => leaves t (flags ||| 2 ^ 37) ∧ same t) ∧
        ((s.ctx e.ctx).tileTrap.getLsbD 0 = true → (s.group e.group).exited = false →
          Completes (exec (.tileCommit p id dr) s) fun t => same t ∧ word t = word s ∧
            (t.pair p).window = w.map (fun x => if x.id = id then { x with held := true } else x) ∧
            t.group e.group = { s.group e.group with ttrap := some e.pc } ∧ ∀ g, g ≠ e.group → t.group g = s.group g)) ∧
      (∀ a, e.job = .st a → e.failed = false → (∀ r ∈ s.requests, r.dest ≠ .tile p id) →
        let img := tileImage ((s.pair p).entry e.ta).tile
        let first := 512 * e.chunk
        (∀ pa, (∀ i, first ≤ i → i < img.length → ∃ tr, s.check e.ctx .wr engineClass true (a + i) = .ok tr ∧
            tr.loc = .dev (pa + i)) → pa + img.length ≤ 2 ^ 64 → (s.keySlot e.ctx).blocked = false →
          Completes (exec (.tileCommit p id dr) s) fun t => leaves t 0 ∧
            (∀ k, ((t.pair p).entry k).tile = ((s.pair p).entry k).tile) ∧ ∀ i, first ≤ i → i < img.length → t.readMem (pa + i) = img.getD i 0) ∧
        (∀ va c, first < img.length → s.engineAim e.ctx (a + first) .wr engineClass (min 512 (img.length - first)) =
            .error (va, c) → Completes (exec (.tileCommit p id dr) s) fun t => t.mem = s.mem ∧
          (c ≠ 4 → leaves t (2 ^ 39)) ∧ (c = 4 → (t.pair p).window = w.map fun x =>
            if x.id = id then { x with stalled := some (s.ctx e.ctx).ringNext } else x)))) ∧
    (w.find? (fun x => x.team == e.team) = some e → e.id = id → (∀ x ∈ w, x.id = id → x = e) → e.held = true →
      ((s.group e.group).exited = false → exec (.tileCommit p id dr) s = .next s) ∧
      ∀ tile flags, (s.group e.group).exited = true → e.started = true → e.stalled = none → s.queryBefore p e = false →
        (∀ a, e.job ≠ .st a) → flags < 2 ^ 64 → (s.pair p).result e = (some tile, flags) →
        Completes (exec (.tileCommit p id dr) s) fun t => leaves t (flags ||| 2 ^ 37) ∧
          ∀ k, ((t.pair p).entry k).tile = ((s.pair p).entry k).tile)

/-- R364: nm.upd, nm.land.inst, nm.land.rem and nm.ctl.done each complete by placing one entry last in the queue of a
stack, of the one that homes the descriptor for nm.upd and of the one that it names otherwise; nothing else changes, and
with no active lane nothing does. A misaligned address and one past 2^48 trap; nm.upd checks its descriptor's page. -/
def Obligations.NearMemoryForms : Prop :=
  ∀ (x : NmArgs) (s : State),
    let a := s.readS64 s.lowest x.bp + (BitVec.ofNat 24 x.off).signExtend 64
    let enters := fun i k job => Completes (exec i s) fun t => t.groups = s.groups ∧ Past s t 16 ∧
      (t.stack k).nmu = (s.stack k).nmu ++
        [.entry { ctx := s.curCtx, team := s.curTeam, group := s.lowest, job := job }] ∧
      { t.stack k with nmu := (s.stack k).nmu } = s.stack k ∧ (∀ n, n ≠ k → t.stack n = s.stack n) ∧
      SameElsewhere { s with stks := t.stks } t
    let traps := fun i c => exec i s = .next (s.takeTrap s.cur c (s.ig s.cur).resumePoint a)
    let chk := s.check s.curCtx .rd (onlyClass 2) false a.toNat
    (s.lanes s.cur = [] → ∀ i ∈ [Instr.nmUpd x, .nmLandInst x, .nmLandRem x, .nmCtlDone x],
      Completes (exec i s) fun t => t.groups = s.groups ∧ Kept s t ∧ Past s t 16) ∧
    (s.lanes s.cur ≠ [] → (∀ tr, a.toNat % 128 = 0 → a.toNat < 2 ^ 48 → chk = .ok tr →
      enters (.nmUpd x) (stackOf tr.loc.key) (.upd a.toNat))) ∧
    (s.lanes s.cur ≠ [] → a.toNat % 64 = 0 → a.toNat < 2 ^ 48 → enters (.nmLandInst x) x.stk (.install x.buf a.toNat)) ∧
    (s.lanes s.cur ≠ [] → enters (.nmLandRem x) x.stk (.remove x.buf)) ∧
    (s.lanes s.cur ≠ [] → a.toNat % 8 = 0 → a.toNat < 2 ^ 48 → enters (.nmCtlDone x) x.stk (.done a.toNat)) ∧
    (s.lanes s.cur ≠ [] → ∀ p ∈ [(Instr.nmUpd x, 128), (.nmLandInst x, 64), (.nmCtlDone x, 8)],
      (a.toNat % p.2 ≠ 0 → traps p.1 3) ∧ (a.toNat % p.2 = 0 → 2 ^ 48 ≤ a.toNat → traps p.1 5)) ∧
    (s.lanes s.cur ≠ [] → a.toNat % 128 = 0 → a.toNat < 2 ^ 48 → ∀ c, chk = .bad c →
      (c ≠ 4 → traps (.nmUpd x) c) ∧ (c = 4 → exec (.nmUpd x) s = .next (s.deschedule s.cur a.toNat 0)))

/-- R135 to R141, R364: NMU_UPDATE of the entry at the head of a stack's queue, once its descriptor is read: a block whose
accesses pass their checks is performed, as `updBlock` says, its bits enter the status, and after the last the status word
is written and the entry leaves; a bad descriptor, or a block that fails a check, ends it with its status, and that block
stays unwritten, which is the model's choice (log 30). NMU_DONE_WRITE writes the word 1 and leaves. Each element of a
block gets what the kind's formula gives. R142, R143, R145, R364: LANDING_INSTALL of an accepted descriptor makes its
buffer; a refused one leaves the buffer and gives its own status word BADDESC, at the SADDR it names, and what was marked
BADPKT before stays marked in the next buffer (the model's choices, log 32); LANDING_REMOVE takes the buffer away. A
reduction packet, from a peer or the oldest of a copy queue, for a buffer that is not there, or outside it, marks it; one
whose contributor has ended, or that finds the buffer stalled, is held; another adds its values to the work values and
marks the elements of its poisoned ones. -/
def Obligations.NearMemoryPerforms : Prop :=
  (∀ (s : State) (k : Nat) (e : NmuEntry) (dr : DramRead), s.nmuHead k = some e →
     (∀ a d, e.job = .upd a → e.desc = some d →
       let u := Upd.of (ofLE d)
       let bad := e.block = 0 ∧ e.status = 0 ∧ s.badUpd e.ctx (ofLE d) = true
       let r := s.updBlock e.ctx u e.block dr
       let status := (e.status ||| BitVec.ofNat 64 r.2.1) + (if r.2.2 then 1 else 0)
       s.wordFail e.ctx u.status wordClass = none →
       (bad → exec (.nmuUpdate k dr) s = .next (s.nmuEnd k e u.status (BitVec.ofNat 64 (2 ^ 36)))) ∧
       (¬bad → s.blockFail e.ctx u e.block = none → u.blocks ≤ e.block + 1 → exec (.nmuUpdate k dr) s =
         .next (r.1.nmuEnd k { e with block := e.block + 1, status := status } u.status status)) ∧
       (¬bad → s.blockFail e.ctx u e.block = none → e.block + 1 < u.blocks → Completes (exec (.nmuUpdate k dr) s) fun t =>
         t.nmuHead k = some { e with block := e.block + 1, status := status } ∧ t.mem = r.1.mem) ∧
       (∀ va c kind, ¬bad → s.blockFail e.ctx u e.block = some (va, c, kind) → c ≠ 4 →
         exec (.nmuUpdate k dr) s = .next (s.nmuEnd k e u.status (e.status ||| BitVec.ofNat 64 (2 ^ 37))))) ∧
     (∀ a u bs, e.job = .upd a → e.desc = none → s.engineRead e.ctx a (onlyClass 2) dr 128 = (u, .ok bs) →
       bs.any (·.2) = false → exec (.nmuUpdate k dr) s =
         .next (u.updStep k { e with desc := some (plain bs) } (ofLE (plain bs)) dr)) ∧
     (∀ a tr pa, e.job = .done a → a % 8 = 0 → a < 2 ^ 48 → s.check e.ctx .wr wordClass true a = .ok tr →
       tr.loc = .dev pa → (s.keySlot e.ctx).blocked = false → Completes (exec (.nmuDoneWrite k) s) fun t =>
         (t.stack k).nmu = (s.stack k).nmu.drop 1 ∧ ∀ i, i < 8 → t.readMem (pa + i) = if i = 0 then 1 else 0) ∧
     (∀ (u : Upd) (g p m v : Nat),
       let mul := fun a b => (mulF .f32 a b .rne false).1
       let add := fun a b => (addF .f32 a b .rne false).1
       let sub := fun a b => (subF .f32 a b .rne false).1
       let p' := sub p (mul u.lrwd p)
       (u.kind = 0 →
         let m' := add (mul u.b1 m) (mul u.omb1 g)
         let v' := add (mul u.b2 v) (mul (mul u.omb2 g) g)
         let den := add (mul (sqrtF .f32 v' .rne).1 u.k2) u.eps
         u.elem none g p m v = (sub p' (mul u.lr (divF .f32 m' den .rne false).1), m', v')) ∧
       (u.kind = 1 → u.elem none g p m v = (sub p' (mul u.lr (add (mul u.b1 m) g)), add (mul u.b1 m) g, v)) ∧
       (u.kind = 2 → u.elem none g p m v = (sub p' (mul u.lr g), m, v)) ∧
       ∀ c, u.elem (some c) g p m v = u.elem none (mul g c) p m v)) ∧
  (∀ (s : State) (k : Nat),
     let queue := fun t : State => (t.stack k).nmu
     (∀ e b, s.nmuHead k = some e → e.job = .remove b → Completes (exec (.landingRemove k) s) fun t =>
       (t.stack k).buf b = none ∧ queue t = (queue s).drop 1 ∧ ∀ n, n ≠ b → (t.stack k).buf n = (s.stack k).buf n) ∧
     (∀ e b a u bs, s.nmuHead k = some e → e.job = .install b a →
       s.engineRead e.ctx a engineClass .free 64 = (u, .ok bs) → bs.any (·.2) = false →
       let d := ofLE (plain bs)
       let x := LandBuf.ofDesc e d
       (u.landOk e.ctx d x = true → u.spanFail e.ctx .both (onlyClass 2) x.waddr (8 * x.works) = none →
         Completes (exec (.landingInstall k) s) fun t => queue t = (queue s).drop 1 ∧ (t.stack k).buf b =
           some { x with badpkt := ((s.stack k).buf b).any (·.badpkt) || SMap.look false (s.stack k).badpkt b }) ∧
       (u.landOk e.ctx d x = false → u.wordFail e.ctx x.saddr engineClass = none →
         Completes (exec (.landingInstall k) s) fun t => queue t = (queue s).drop 1 ∧
           (∀ n, (t.stack k).buf n = (s.stack k).buf n) ∧ ∀ tr pa, u.check e.ctx .wr engineClass true x.saddr = .ok tr →
             tr.loc = .dev pa → (u.keySlot e.ctx).blocked = false → x.saddr < 2 ^ 48 →
             ∀ i, i < 8 → t.readMem (pa + i) = if i = 4 then 16 else 0)) ∧
     (∀ core q p, s.packets.find? (fun f => match f.sender with
         | some (c, n, _, _) => c == core && n == q
         | none => false) = some p →
       exec (.reductionPacket (.copy core q)) s = .next (({ s with packets := s.packets.erase p } : State).arrivePacket p)) ∧
     (∀ p : RPacket, p.stack = k →
       let arrives := fun P => Completes (exec (.reductionPacket (.peer p)) s) P
       ((s.stack k).buf p.buf = none → arrives fun t => SMap.look false (t.stack k).badpkt p.buf = true ∧ t.mem = s.mem) ∧
       ∀ x, (s.stack k).buf p.buf = some x →
         let buf := fun t : State => (t.stack k).buf p.buf
         let inside := p.con < x.ncon ∧ p.elem + p.vals.length ≤ x.count
         (¬inside → arrives fun t => buf t = some { x with badpkt := true } ∧ t.mem = s.mem) ∧
         (inside → (p.con ∈ x.ended ∨ x.stalled ≠ none) → arrives fun t => t.mem = s.mem ∧
           buf t = some { x with held := x.held ++ [{ sender := none, packet := p }] }) ∧
         (inside → p.con ∉ x.ended → x.stalled = none → x.held = [] → p.fin = false → s.landStall x p = none →
           arrives fun t => (∃ y, buf t = some y ∧ { y with marked := x.marked } = x ∧
             (∀ n, n ∈ y.marked ↔ n ∈ x.marked ∨ ∃ i, (∃ v, p.vals[i]? = some (v, true)) ∧ n = p.elem + i) ∧
             queue t = queue s) ∧
             ∀ v b pa tr w, p.vals = [(v, b)] → x.row p % 8 = 0 → (∀ need ∈ [Need.rd, .wr],
                 s.check x.ctx need (onlyClass 2) (need == .wr) (x.row p) = .ok tr) → tr.loc = .dev pa →
               Plain s x.ctx pa 8 w → (s.keySlot x.ctx).blocked = false →
               ∀ i, i < 8 → t.readMem (pa + i) = (leBytes 8 (addF .f64 (ofLE ((List.range 8).map w))
                 (cvtExact .f64 (landTy p.vf) v) .rne false).1).getD i 0)))

/-- R345, R346, R151: gx.add injects the lane's value into its element, with the sticky bits of GXSTAT; gx.read gives the
estimate of an element and gx.spread which neighbours' last estimates lie within A of it; inside a clause that result is
to come and counted by AC; a poisoned element traps, and one whose bytes are read poisoned has PSN set with GXSTAT.PSN
(R133), which stays written though the form traps (log 16). One active lane, its element in the memory-side cache. R99,
R155, R347, R348: gx.step enters a step of a region in step mode last in the queue of the link of its round's parity;
outside step mode it traps, and so it does where GXLEN is 0, which is the model's reading (log 45); gx.ctl is outstanding
until the steps and departures before it are over, and at once complete when they are. -/
def Obligations.GossipForms : Prop :=
  (∀ (x : GxArgs) (s : State) (l h pa : Nat) (tr : Trans), s.lanes s.cur = [(l, h)] → l < 96 → tr.loc = .dev pa →
     pa % 32 = 0 → Homed s s.curCtx pa 32 →
     let c := s.curCtx
     let g := s.gid h
     let r := (s.ctx c).region x.rgn
     let a := s.readS64 g x.bp + (BitVec.ofNat 24 x.off).signExtend 64 + BitVec.ofNat 64 (32 * l)
     let e := s.elem c pa
     let sc := r.cfg.toNat / 2 ^ 8 % 64
     a.toNat % 32 = 0 → r.addr.toNat * 65536 ≤ a.toNat → a.toNat < r.addr.toNat * 65536 + 32 * r.len.toNat →
     r.initing = false →
     let near := fun (w : Word) => within (est sc e.s e.w) w.toNat (s.src g l x.a).toNat
     let reads := fun i v => s.check c .rd (onlyClass 3) false a.toNat = .ok tr → s.room (some x.ac) x.cf = true →
       (e.psn = false → Completes (exec i s) fun t => Past s t 12 ∧ (t.ctx c).region x.rgn = r ∧ t.elem c pa = e ∧
         ((s.ig s.cur).clause = none → t.readV g x.d l = BitVec.ofNat 32 v ∧
           (∀ k n j, j < 96 → ¬(k = g ∧ n = x.d ∧ j = l) → t.readV k n j = s.readV k n j) ∧
           ∀ k, { t.group k with v := (s.group k).v } = s.group k) ∧
         ((s.ig s.cur).clause ≠ none → ToCome s t x.cf g x.d 1 (· = l) (fun _ _ => v % 2 ^ 32) ∧
           SMap.look 0 (t.group g).ac x.ac = SMap.look 0 (s.group g).ac x.ac + 1 ∧
           { t.group g with ops := (s.group g).ops, ac := (s.group g).ac, cf := (s.group g).cf } = s.group g ∧
           ∀ k, k ≠ g → t.group k = s.group k)) ∧
       (e.psn = true → ∃ u : State, exec i s = .next (u.takeTrap s.cur 7 (s.ig s.cur).resumePoint a) ∧ u.groups = s.groups ∧
         (u.ctx c).region x.rgn = r.stick 20 e.bad ∧ u.elem c pa = { e with bad := false } ∧
         ∀ k, k / 64 ≠ pa / 64 → u.readMem k = s.readMem k)
     (s.check c .wr (onlyClass 3) false a.toNat = .ok tr → s.room (some x.ac) 0 = true →
       let j := e.inject sc (s.src g l x.a).toNat
       Completes (exec (.gxAdd x) s) fun t => Past s t 12 ∧ t.groups = s.groups ∧
         t.elem c pa = { j.1 with bad := false } ∧
         (t.ctx c).region x.rgn = ((r.stick 16 j.2.1).stick 17 j.2.2).stick 20 e.bad ∧
         ∀ k, k / 64 ≠ pa / 64 → t.readMem k = s.readMem k) ∧
     reads (.gxRead x) (est sc e.s e.w) ∧
     reads (.gxSpread x) ((if e.haveR && near e.lastR then 1 else 0) + if e.haveL && near e.lastL then 2 else 0)) ∧
  (∀ (x : GxArgs) (s : State), s.lanes s.cur ≠ [] →
     let c := s.curCtx
     let r := (s.ctx c).region x.rgn
     let n := r.stat.toNat % 65536 + (r.accepted - r.completed)
     let link := if n % 2 = 0 then r.cfg.toNat / 2 ^ 20 % 16 else r.cfg.toNat / 2 ^ 16 % 16
     let settled := r.accepted ≤ r.completed ∧ ∀ f ∈ r.flight, r.seq ≤ f.seq
     (r.cfg.toNat % 4 = 2 → r.len ≠ 0 → r.initing = false → Completes (exec (.gxStep x) s) fun t =>
       Past s t 12 ∧ t.groups = s.groups ∧ (t.ctx c).region x.rgn = { r with accepted := r.accepted + 1 } ∧
       t.link link = { s.link link with queue := (s.link link).queue ++ [.step c x.rgn (n % 65536) s.curTeam] } ∧
       ∀ k, k ≠ link → t.link k = s.link k) ∧
     (r.cfg.toNat % 4 ≠ 2 ∨ r.len = 0 → exec (.gxStep x) s =
       .next (s.takeTrap s.cur 5 (s.ig s.cur).resumePoint (BitVec.ofNat 64 x.rgn))) ∧
     (s.room (some x.ac) 0 = true → r.initing = false →
       (∀ q ∈ s.groups, ∀ o ∈ q.2.ops, o.kind ≠ .gxctl x.rgn ∧ o.id ≠ s.nextUid) →
       (∀ h ∈ s.suppliers s.cur, s.groupCtx (s.gid h) = c) → Completes (exec (.gxCtl x) s) fun t => Past s t 12 ∧
         ∀ h ∈ s.suppliers s.cur,
           (settled → (t.group (s.gid h)).ops = (s.group (s.gid h)).ops ∧
             ∀ k, SMap.look 0 (t.group (s.gid h)).ac k = SMap.look 0 (s.group (s.gid h)).ac k) ∧
           (¬settled → (∃ o, (t.group (s.gid h)).ops = (s.group (s.gid h)).ops ++ [o] ∧ o.kind = .gxctl x.rgn) ∧
             ∀ k, SMap.look 0 (t.group (s.gid h)).ac k =
               SMap.look 0 (s.group (s.gid h)).ac k + if k = x.ac then 1 else 0)))

/-- R147 to R155, with the reading of poisoned elements of log 16: a departure takes half of an element and puts it in
flight, so that element and packet hold together what the element held; over a link without a trained partner the half
returns at once. An arrival adds its half to its element, or waits for its round; a bounced half returns; an acknowledged
one is over. A sweep starts; an initialisation sets every element; MODE takes effect with nothing in flight, and then the
sweep starts again and held arrivals are dropped (log 73). A microsecond of the period is 1,000 clocks (log 45). R153: a
failed link holds the packets that have left over it in doubt; once it is trained again each of them has been performed,
and is over, or returns to its element. The region of one packet. -/
def Obligations.GossipTravels : Prop :=
  (∀ (s : State) (c k : Nat),
     let r := (s.ctx c).region k
     let reg := fun t : State => (t.ctx c).region k
     let place := fun i pa => (∃ tr, s.elemAt c k i = .ok tr ∧ tr.loc = .dev pa) ∧ pa % 32 = 0 ∧ Homed s c pa 32
     (∀ right pa, s.nextSide c k = some right → place r.next pa → r.skip = false → r.early = [] →
       let e := s.elem c pa
       let trained := (s.link (r.linkOf right)).trained
       Completes (exec (.gossipDeparture c k) s) fun t =>
         (trained = true → ∃ f, (reg t).flight = r.flight ++ [f] ∧ f.elem = r.next ∧ f.right = right ∧ f.seq = r.seq ∧
           f.psn = e.psn ∧ f.hs = e.s.sshiftRight 1 ∧ f.hw = e.w >>> 1 ∧ (t.elem c pa).s + f.hs = e.s ∧
           (t.elem c pa).w + f.hw = e.w ∧ (t.elem c pa).lastL = e.lastL ∧ (t.elem c pa).lastR = e.lastR) ∧
         (trained = false → (reg t).flight = r.flight ∧ t.elem c pa = { e with bad := false } ∧
           (reg t).stat.getLsbD 18 = true)) ∧
     (∀ link (p : GxPacket) left, r.fromLeft link p = some left → r.len ≠ 0 → r.initing = false → p.mode = r.mode →
       p.elem < r.len.toNat → (s.ctx c).keyless = false → s.linkOwes link = false →
       (r.mode = 2 → (r.steps = 0 ∨ p.round ≠ r.round ∨ r.next ≤ p.elem) → Completes (exec (.gossipArrival c k link p) s)
         fun t => reg t = { r with early := r.early ++ [(link, p)] } ∧ t.mem = s.mem) ∧
       (∀ pa, (r.mode = 2 → r.steps ≠ 0 ∧ p.round = r.round ∧ p.elem < r.next) → place p.elem pa →
         Completes (exec (.gossipArrival c k link p) s) fun t =>
           t.elem c pa = { ((s.elem c pa).arrive (r.cfg.toNat / 2 ^ 8 % 64) p.hs p.hw p.psn left).1 with bad := false } ∧
           (reg t).flight = r.flight ∧ (if p.toRight then (reg t).seenR else (reg t).seenL) = p.seq)) ∧
     (∀ seq f pa, r.flight.find? (fun f => f.seq == seq && (!f.doubt || (s.link (r.linkOf f.right)).trained)) = some f → place f.elem pa →
       Completes (exec (.gossipBounce c k seq) s) fun t => (reg t).flight = r.flight.filter (fun q => q.seq != seq) ∧
         t.elem c pa = { (s.elem c pa).bounce f.hs f.hw f.psn with bad := false } ∧
         (reg t).stat.getLsbD 18 = true) ∧
     (∀ seq, r.flight.any (fun f => f.seq == seq && !f.doubt) = true → Completes (exec (.gossipAck c k seq) s) fun t =>
       (reg t).flight = r.flight.filter (fun q => q.seq != seq) ∧ t.mem = s.mem) ∧
     ((s.ctx c).run = .running → (s.ctx c).keyless = false → r.len ≠ 0 → r.initing = false → r.stalled = none → r.mode = 1 → r.sweeping = false →
       (∀ t0, r.lastSweep = some t0 → t0 + 1000 * (r.cfg.toNat / 2 ^ 24) ≤ s.clock.toNat) →
       Completes (exec (.gossipSweep c k) s) fun t => reg t =
         { r with sweeping := true, sweeps := r.sweeps + 1, lastSweep := some s.clock.toNat, next := 0 }) ∧
     (r.initing = true → Completes (exec (.gossipInitComplete c k) s) fun t =>
       reg t = { r with initing := false, stat := r.stat &&& 0xFFFF0000#32, next := 0 } ∧
       ∀ i pa, i < r.len.toNat → place i pa →
         (∀ j, j < r.len.toNat → ∃ q, place j q) → t.elem c pa = GElem.ofNat (2 ^ 48 * 2 ^ 64)) ∧
     (r.flight = [] → r.mode ≠ r.cfg.toNat % 4 → Completes (exec (.gossipModeEffect c k) s) fun t =>
       reg t = { r with mode := r.cfg.toNat % 4, next := 0, sweeping := false, arrived := [], early := [] } ∧
         { t with ctxs := s.ctxs } = s)) ∧
  (∀ (s : State) (link : Nat),
     Completes (exec (.linkFailure link) s) (fun t => (t.link link).trained = false ∧ t.mem = s.mem ∧
       ∀ c k, ((t.ctx c).region k).flight = ((s.ctx c).region k).flight.map fun f =>
         if ((s.ctx c).region k).linkOf f.right = link then { f with doubt := true } else f) ∧
     ∀ c k f pa last, s.allRegions = [(c, k)] → ((s.ctx c).region k).flight = [f] → f.doubt = true →
       ((s.ctx c).region k).linkOf f.right = link → f.seq ≠ 0 →
       (∃ tr, s.elemAt c k f.elem = .ok tr ∧ tr.loc = .dev pa) → pa % 32 = 0 → Homed s c pa 32 →
       let key := 2 * k + if f.right then 1 else 0
       (∀ n, last = [(c, key, n)] → f.seq ≤ n → Completes (exec (.linkRetrain link last false) s) fun t =>
         (t.link link).trained = true ∧ ((t.ctx c).region k).flight = [] ∧ t.mem = s.mem) ∧
       (∀ reset, (reset = true ∨ ∀ n, last = [(c, key, n)] → n < f.seq) → (reset = true ∨ ∃ n, last = [(c, key, n)]) →
         Completes (exec (.linkRetrain link last reset) s) fun t =>
         (t.link link).trained = true ∧ ((t.ctx c).region k).flight = [] ∧
         t.elem c pa = { (s.elem c pa).bounce f.hs f.hw f.psn with bad := false }))

/-- R351 to R357: the values that a REC entry holds, read back, are the values recorded, register by register and beat by
beat: no token loses or changes one. -/
def Obligations.TapeKeepsValues : Prop :=
  ∀ (r n : Nat) (m : LaneMask) (f : Nat → Nat → Nat), (∀ k l, f k l < 2 ^ 32) →
    recValues (unitBytes (recUnits r n m f)) m n =
      (List.range (3 * n)).map fun q => beatVals m (q % 3) (f (r + q / 3))

/-- R349 to R359: the tape forms for one home group whose lanes lie whole in the issue group: in record mode an entry is
appended, or the tape is full and traps; ta.pop in replay mode gives the registers the last entry's values, inside a
clause as results to come (R231), and moves back before it; ta.mark in replay mode moves back before an entry that is a
MARK of 16 bytes (log 39) with its label, and in check mode past the next MARK of the tape, when label and hash are its
own; a failed comparison traps at the entry. An entry that would begin below TAPEBASE diverges at TAPEPOS - 2 * len as a
64-bit number. ta.ctl and ta.hash. R360 to R363: a gate is armed with its word, tape and capacity, in record mode with an
empty chunk table, and in play mode with the tape's chunk count; ta.gate.off removes it. An append of a home group's tape
is performed at home. -/
def Obligations.TapeInstructions : Prop :=
  (∀ (x : TaArgs) (s : State) (h : Nat), s.lanes s.cur ≠ [] → s.wholeHere = true → s.suppliers s.cur = [h] →
     let g := s.gid h
     let y := s.group g
     let does := fun i (z : Group) => Completes (exec i s) fun t => Past s t 8 ∧ t.group g = z ∧
       (∀ k, k ≠ g → t.group k = s.group k)
     let traps := fun i code a => exec i s = .next (s.takeTrap s.cur code (s.ig s.cur).resumePoint a)
     let appends := fun i us =>
       (y.tapePos.toNat + 2 * us.length + 16 * (y.tapeCtl.toNat / 2 ^ 16 % 128) + 2 ≤ y.tapeLimit.toNat → does i
         { y with tapePos := y.tapePos + BitVec.ofNat 64 (2 * us.length),
                  tapeQ := y.tapeQ ++ [.write y.tapePos.toNat (unitBytes (us ++ [0]))] }) ∧
       (y.tapeLimit.toNat < y.tapePos.toNat + 2 * us.length + 16 * (y.tapeCtl.toNat / 2 ^ 16 % 128) + 2 →
         traps i 11 y.tapePos)
     let mode := y.tapeCtl.toNat % 4
     let label := s.readS g x.sa
     (mode = 1 → appends (.taRec x) (recUnits x.a x.n (s.pathMask y.home) fun r l => (y.lane r l).toNat) ∧
       appends (.taMark x) (markUnits label y.tapeHash)) ∧
     (mode ≠ 1 → does (.taRec x) y) ∧ (mode = 0 → does (.taMark x) y) ∧
     (y.tapeIdle = true → does (.taCtlFlush x) y) ∧ (y.tapeIdle = false → exec (.taCtlFlush x) s = .next s.stall) ∧
     does (.taCtlRewind x) { y with tapePos := y.tapeBase } ∧
     does (.taHash x) { y with tapeHash := s.readS64 g x.sa } ∧
     (mode ≠ 2 → traps (.taPop x) 5 (y.tapeCtl.setWidth 64)) ∧
     (∀ u a bs, mode = 2 → y.tapeIdle = true → s.lastEntry g = (u, .entry a bs) →
       (unitAt bs 0 = 3 * 2 ^ 12 → bs.length = 16 → (markOf bs).1 = label.toNat →
         does (.taMark x) { y with tapePos := BitVec.ofNat 64 a }) ∧
       (unitAt bs 0 ≠ 3 * 2 ^ 12 ∨ bs.length ≠ 16 ∨ (markOf bs).1 ≠ label.toNat →
         traps (.taMark x) 12 (BitVec.ofNat 64 a))) ∧
     (let pos := y.tapePos.toNat
      (∀ u b, y.tapeErr = false → y.tapeBase.toNat < pos → s.tapeRead g (pos - 2) 2 = (u, .inl b) →
         let start := y.tapePos - BitVec.ofNat 64 (2 * unitAt b 0)
         start < y.tapeBase → s.lastEntry g = (u, .diverge start.toNat)) ∧
      (∀ u a, mode = 2 → y.tapeIdle = true → s.lastEntry g = (u, .diverge a) → traps (.taMark x) 12 (BitVec.ofNat 64 a) ∧
         ((∀ f, s.flagOf x.cf = some f → SMap.look 0 y.cf f < 63) → traps (.taPop x) 12 (BitVec.ofNat 64 a))) ∧
      (mode = 3 → y.tapeIdle = true → ∀ u scan,
         s.nextMark g y.tapeLimit.toNat ((y.tapeLimit.toNat - pos) / 16 + 1) pos = (u, scan) →
         (∀ a, scan = .diverge a → traps (.taMark x) 12 (BitVec.ofNat 64 a)) ∧
         ∀ a v bs, scan = .at_ a → u.tapeRead g a 16 = (v, .inl bs) →
           ((markOf bs).1 = label.toNat ∧ (markOf bs).2 = y.tapeHash.toNat →
             does (.taMark x) { y with tapePos := BitVec.ofNat 64 (a + 16) }) ∧
           ((markOf bs).1 ≠ label.toNat ∨ (markOf bs).2 ≠ y.tapeHash.toNat →
             traps (.taMark x) 12 (BitVec.ofNat 64 a)))) ∧
     (∀ u v a b bs, mode = 2 → y.tapeIdle = true → s.lastEntry g = (u, .entry a bs) →
       unitAt bs 0 = tapeHeader 1 x.n 0 → maskAt bs 2 = s.pathMask y.home →
       u.scanBeats g y.tapePos.toNat a (s.pathMask y.home) (3 * x.n) 0 (a + 16) = (v, Scan.at_ b) →
       let m := s.pathMask y.home
       let value := fun (f : Nat → Nat → Nat) => ∀ q l i, q < 3 * x.n → (beatVals m (q % 3) id)[i]? = some l →
         i < ((recValues bs m x.n).getD q []).length → f (q / 3) l = ((recValues bs m x.n).getD q []).getD i 0 % 2 ^ 32
       ((s.ig s.cur).clause = none → Completes (exec (.taPop x) s) fun t => Past s t 8 ∧
         (t.group g).tapePos = BitVec.ofNat 64 a ∧ { t.group g with v := y.v, tapePos := y.tapePos } = y ∧
         (∀ k, k ≠ g → t.group k = s.group k) ∧ value (fun k l => (t.readV g (x.a + k) l).toNat) ∧
         ∀ r l, l < 96 → ¬(m.getLsbD l = true ∧ x.a ≤ r ∧ r < x.a + x.n) → t.readV g r l = s.readV g r l) ∧
       ((s.ig s.cur).clause ≠ none → (∀ f, s.flagOf x.cf = some f → SMap.look 0 y.cf f < 63) →
         (∃ l, l < 96 ∧ m.getLsbD l = true) → Completes (exec (.taPop x) s) fun t => Past s t 8 ∧
           (t.group g).tapePos = BitVec.ofNat 64 a ∧ (∀ k, k ≠ g → t.group k = s.group k) ∧
           { t.group g with ops := y.ops, cf := y.cf, tapePos := y.tapePos } = y ∧
           ∃ f, value f ∧ ToCome s t x.cf g x.a x.n (fun l => m.getLsbD l = true) f))) ∧
  (∀ (x : TaArgs) (s : State), s.lanes s.cur ≠ [] →
     let c := s.curCtx
     let g := s.lowest
     let w := (s.readS64 g x.sa).toNat
     let tape := (s.readS64 g (x.sa + 2)).toNat
     let cap := (s.readS g (x.sa + 4)).toNat
     let gate := fun t : State => findKey (t.ctx c).gates x.n
     let others := fun t : State => ∀ n, n ≠ x.n → findKey (t.ctx c).gates n = findKey (s.ctx c).gates n
     Completes (exec (.taGateOff x) s) (fun t => Past s t 8 ∧ gate t = none ∧ others t ∧ t.mem = s.mem) ∧
     (∀ tr, s.gateFail x.n w tape cap = none → s.check c .both wordClass false w = .ok tr →
       Completes (exec (.taGateRec x) s) (fun t => Past s t 8 ∧ others t ∧
         gate t = some { word := w, loc := tr.loc.key, tape := tape, cap := cap, play := false }) ∧
       (∀ u bs, (∀ i, i < 8 → ∃ p, s.check c .both tapePages false (tape + i) = .ok p ∧
           (s.readHome c p.loc.key .free).2.2 = false) → s.gateRead c tape 8 = (u, .inl bs) →
         ofLE (bs.take 4) = 0 → Completes (exec (.taGatePlay x) s) fun t => Past s t 8 ∧ others t ∧ ∃ y, gate t = some y ∧
           y.word = w ∧ y.loc = tr.loc.key ∧ y.tape = tape ∧ y.cap = cap ∧ y.play = true ∧ y.chunks = 0)) ∧
     (∀ k a bs rest pa, (s.keySlot (s.groupCtx k)).blocked = false → (s.group k).tapeStall = none → (s.group k).tapeQ = .write a bs :: rest →
       (∀ i, i < bs.length → ∃ tr, s.tapeAt k .wr (a + i) = .ok tr ∧ tr.loc = .dev (pa + i)) →
       Completes (exec (.tapeEntryPerform k) s) fun t => t.group k = { s.group k with tapeQ := rest } ∧
         (∀ j, j ≠ k → t.group j = s.group j) ∧ ∀ i, i < bs.length → t.readMem (pa + i) = bs.getD i 0) ∧
     (∀ k i, (s.group k).tapeStall = some i → s.answered (s.groupCtx k) i = true →
       Completes (exec (.tapeEntryPerform k) s) fun t => t.group k = { s.group k with tapeStall := none }))

/-- R185, R365, R366: ls.launch enters a grid of its kernel at the end of its launch queue, under the next launch sequence
number, and its status word, if it has one, says queued; with 64 grids in the queue it waits; a check that fails raises
the trap that R365 gives it, a misaligned entry that of R216, and then no grid enters; the order of the checks and what
TRAPADDR receives are the model's choice (log 37). R178, R216, R368: a thread that ls.spawn names enters, with its
argument and the clock, the bin of its core with its key, or the lowest-numbered empty one; with every bin held by another
key the issue group waits; an entry that names no kernel raises the protection trap, a misaligned one that of R216, with
the entry as TRAPADDR (log 37). -/
def Obligations.LaunchesAndSpawns : Prop :=
  (∀ (s : State) (x : LsArgs), s.lanes s.cur ≠ [] →
     let g := s.lowest
     let entry := s.readS64 g x.sa
     let arg := s.readS64 g x.sx
     let c := s.ctx s.curCtx
     let trap := fun code a => exec (.lsLaunch x) s = .next (s.takeTrap s.cur code (s.ig s.cur).resumePoint a)
     (entry.toNat % 4 ≠ 0 → trap 3 entry) ∧
     (entry.toNat % 4 = 0 → c.kernel entry = none → trap 5 entry) ∧
     ∀ k, entry.toNat % 4 = 0 → c.kernel entry = some k →
       (s.readS g x.sb = 0 → trap 5 0) ∧
       (s.readS g x.sb ≠ 0 → x.coop ≠ k.coop → trap 5 (if x.coop then 1 else 0)) ∧
       (s.readS g x.sb ≠ 0 → x.coop = k.coop → 2 ^ 48 ≤ arg.toNat → trap 5 arg) ∧
       (s.readS g x.sb ≠ 0 → x.coop = k.coop → arg.toNat < 2 ^ 48 →
         (x.imm ≠ 0xFFFFFFFF → x.imm % 8 ≠ 0 → trap 3 (BitVec.ofNat 64 x.imm)) ∧
         (x.imm ≠ 0xFFFFFFFF → x.imm % 8 = 0 → (s.scratchOf s.curTeam).size < x.imm + 8 →
           trap 5 (BitVec.ofNat 64 x.imm)) ∧
         (x.imm = 0xFFFFFFFF ∨ x.imm % 8 = 0 ∧ x.imm + 8 ≤ (s.scratchOf s.curTeam).size →
           (64 ≤ (c.queue x.q).length → exec (.lsLaunch x) s = .next s.stall) ∧
           ((c.queue x.q).length < 64 → Completes (exec (.lsLaunch x) s) fun t =>
             Past s t 12 ∧ t.launchSeq = s.launchSeq + 1 ∧ t.groups = s.groups ∧ t.mem = s.mem ∧
             (∀ q, (t.ctx s.curCtx).queue q = c.queue q ++ if q = x.q then [s.nextUid] else []) ∧
             t.grid s.nextUid = { ctx := s.curCtx, q := x.q, krec := k, count := (s.readS g x.sb).toNat, arg := arg,
                                  seq := s.launchSeq + 1,
                                  status := if x.imm = 0xFFFFFFFF then none else some (s.curTeam, x.imm) } ∧
             (∀ n, n ≠ s.nextUid → t.grid n = s.grid n) ∧
             (x.imm ≠ 0xFFFFFFFF → s.teamLives s.curTeam = true →
               (t.scratchOf s.curTeam).read x.imm 8 = leBytes 8 ((s.launchSeq + 1) % 2 ^ 32)) ∧
             (x.imm = 0xFFFFFFFF → t.allocs = s.allocs))))) ∧
  (∀ (s : State) (x : LsArgs) (h l : Nat), s.lanes s.cur = [(l, h)] →
     let entry := s.readS64 (s.gid h) x.sa
     let k := s.core (s.igCore s.cur)
     let me : Spawn := { arg := s.readV (s.gid h) x.imm l, clock := s.clock.toNat, team := s.curTeam }
     let trap := fun code => exec (.lsSpawn x) s = .next (s.takeTrap s.cur code (s.ig s.cur).resumePoint entry)
     let mine := fun (p : Nat × Bin) => p.2.ctx = s.curCtx ∧ p.2.entry = entry
     (entry.toNat % 4 ≠ 0 → trap 3) ∧
     (entry.toNat % 4 = 0 → (s.ctx s.curCtx).kernel entry = none → trap 5) ∧
     (entry.toNat % 4 = 0 → (s.ctx s.curCtx).kernel entry ≠ none →
       (∀ (i : Nat) (b : Bin), (k.bins.map (·.1)).Nodup → (i, b) ∈ k.bins → mine (i, b) → (∀ p ∈ k.bins, mine p → p.1 = i) →
         Completes (exec (.lsSpawn x) s) fun t => Past s t 12 ∧ t.groups = s.groups ∧
           findKey (t.core (s.igCore s.cur)).bins i = some { b with threads := b.threads ++ [me] } ∧
           ∀ j, j ≠ i → findKey (t.core (s.igCore s.cur)).bins j = findKey k.bins j) ∧
       (∀ i, i < 16 → (∀ p ∈ k.bins, ¬mine p) → SMap.has k.bins i = false → (∀ j, j < i → SMap.has k.bins j = true) →
         Completes (exec (.lsSpawn x) s) fun t => Past s t 12 ∧ t.groups = s.groups ∧
           findKey (t.core (s.igCore s.cur)).bins i = some { ctx := s.curCtx, entry := entry, threads := [me] } ∧
           ∀ j, j ≠ i → findKey (t.core (s.igCore s.cur)).bins j = findKey k.bins j) ∧
       ((∀ p ∈ k.bins, ¬mine p) → (∀ j, j < 16 → SMap.has k.bins j = true) → exec (.lsSpawn x) s = .next s.stall)))

/-- R48, R159, R160, R186 to R188, R250, R252, R367: a grid that comes to the head of its queue is judged at once, and one
whose kernel record breaks a limit leaves the queue. Then the only head of the highest priority, with its records applied
and its regions' MODE set, has its next team placed where it fits: the team is resident at the place chosen, each home
group has its role, core and granules, its registers read zero but s0 to s2, and the grid counts one team more. A head
whose team fits nowhere waits. The moment of the judgement is the model's choice (log 38), and so is what a reservation or
a promise keeps from others, with the heads that give theirs up (log 76). R51, R54, R77, R163, R185: a team that has
exited, with nothing of its own outstanding, ends: its groups and roles are gone, its directory entries are free, its
scratch drains, and its grid counts it. A draining allocation with nothing inbound is freed. The granules of an exited
group return to the pool. The oldest claim of a core, of an issue group that stands at its ms.rclaim, takes its granules,
in a clock after that in which it issued, when they are free; its issue group goes on when that was its last. The first
claim of an instruction counts it, or where the path has no budget left takes the path-timeout trap (logs 69, 70). -/
def Obligations.TeamsComeAndGo : Prop :=
  ((∀ (s : State) (g : Nat), s.unjudged = some g →
     let x := s.grid g
     (x.krec.limits = false → Completes (exec .teamPlace s) fun t =>
       g ∉ (t.ctx x.ctx).queue x.q ∧ SMap.has t.grids g = false ∧ t.groups = s.groups) ∧
     (x.krec.limits = true → x.krec.coop = false → Completes (exec .teamPlace s) fun t =>
       t.grid g = { x with judged := true } ∧ (∀ n, n ≠ g → t.grid n = s.grid n) ∧ { t with grids := s.grids } = s)) ∧
   ∀ (s : State) (g : Nat), s.unjudged = none → s.heads 3 = [g] →
     let x := s.grid g
     let k := x.krec
     let n := s.nextUid
     (x.applied = true → x.modes ≠ [] → Completes (exec .teamPlace s) fun t =>
       t.grid g = { x with modes := [] } ∧ t.groups = s.groups ∧ t.mem = s.mem) ∧
     (∀ q, x.applied = true → x.modes = [] → k.coop = false → k.tape = none → s.reservedAgainst 3 g = false →
       s.spare.choose k.demand = some q → Completes (exec .teamPlace s) fun t =>
         (t.grid g).placed = x.placed + 1 ∧
         t.team n = { ctx := x.ctx, grid := g, num := x.placed, place := q, krec := k, alloc := n, groups := k.size } ∧
         (t.scratchOf n).size = k.scratch ∧
         ∀ h, h < k.size →
           let y := t.group (teamGroup n h)
           { y with s := [] } = { team := n, home := h, role := k.rolesOf.getD h 0, core := (q.split k.size).getD h 0,
                                  gran := k.grans.getD h 0 } ∧
           SMap.look 0 y.s 1 ++ SMap.look 0 y.s 0 = x.arg ∧ SMap.look 0 y.s 2 = BitVec.ofNat 32 x.count ∧
           ∀ r, 3 ≤ r → SMap.look 0 y.s r = 0) ∧
     (x.applied = true → x.modes = [] → k.coop = false → s.spare.choose k.demand = none →
       exec .teamPlace s = .next (s.yield 3))) ∧
  ((∀ (s : State) (n : Nat),
     (s.teamOver n = true → Completes (exec (.teamEnd n) s) fun t =>
       (t.team n).ended = true ∧ (∀ p ∈ t.groups, p.2.team ≠ n) ∧ (∀ p ∈ t.roles, roleTeam p.1 ≠ n) ∧
       (∀ e ∈ (t.pair (s.team n).place.pairNo).dir, e.2.team ≠ n) ∧ (t.alloc (s.team n).alloc).draining = true ∧
       ((s.team n).grid ≠ 0 → (s.grid (s.team n).grid).ended + 1 ≠ (s.grid (s.team n).grid).count →
         (t.grid (s.team n).grid).ended = (s.grid (s.team n).grid).ended + 1)) ∧
     ((s.team n).terminated = false → s.teamOver n = false → exec (.teamEnd n) s = .next s) ∧
     ((s.team n).terminated = true → (s.dropHeld n).teamOver n = false → exec (.teamEnd n) s = .next (s.dropHeld n))) ∧
   (∀ (s : State) (n : Nat) (a : Alloc), findKey s.allocs n = some a →
     (a.draining = true → a.inb = 0 → Completes (exec (.scratchReclaim n) s) fun t => findKey t.allocs n = none ∧
       ∀ m, m ≠ n → findKey t.allocs m = findKey s.allocs m) ∧
     (a.draining = false ∨ a.inb ≠ 0 → exec (.scratchReclaim n) s = .next s)) ∧
   (∀ (s : State) (g : Nat), SMap.has s.groups g = true → (s.group g).resident = true → s.groupDone g = true →
     Completes (exec (.granuleReturn g) s) fun t =>
       (t.core (s.group g).core).free = (s.core (s.group g).core).free + (s.group g).gran ∧
       (t.group g).returned = true ∧ ∀ k, k ≠ g → t.group k = s.group k) ∧
   (∀ (s : State) (core : Nat) (c : Claim) (rest : List Claim), (s.core core).claims = c :: rest →
     (s.ctx (s.groupCtx c.group)).run = .running →
     let ref : IgRef := { role := teamRole (s.group c.group).team (s.group c.group).role, ig := c.ig }
     let facts := fun (u : State) => (u.core core).free = (s.core core).free - c.n ∧ (u.core core).claims = rest ∧
       (u.group c.group).gran = (s.group c.group).gran + c.n ∧ (∀ k, k ≠ c.group → u.group k = s.group k) ∧
       (u.ctx (s.roleCtx ref.role)).retired = (s.ctx (s.roleCtx ref.role)).retired + if c.lead then 1 else 0
     let ready := c.clock < s.clock.toNat ∧ c.n ≤ (s.core core).free ∧ (s.ig ref).claim = true
     let pays := c.lead = false ∨ s.overBudget ref = false
     (¬ready → exec (.rclaimServed core) s = .next s) ∧
     (ready → ¬pays → exec (.rclaimServed core) s = .next ((s.timeOut ref).settle ref.role)) ∧
     (ready → pays → (∃ q ∈ rest, q.ig = c.ig) → Completes (exec (.rclaimServed core) s) facts) ∧
     (ready → pays → (∀ q ∈ rest, q.ig ≠ c.ig) → Completes (exec (.rclaimServed core) s) fun t =>
       ∃ u : State, t = u.settle ref.role ∧ facts u ∧ (u.ig ref).claim = false ∧ (u.ig ref).pc = (s.ig ref).pc + 8)))

/-- R178, R179: a bin whose first thread has waited for SPAWNTIMER clocks becomes due; a bin that is full, or due,
launches its first 96 threads on its core as a team of one group of role 0 of its kernel, with their arguments in v0, once
it fits there and no claim of the core waits. R180, R292, R375, R381: an issue group that waits at an instruction, and
whose path has no budget left for it, takes trap 8 with the budget in TRAPADDR, and its path count starts again; each
1,024 clocks of blocked time count once; the instruction that brings RETIRED to PREEMPTAT makes the trigger due, which
then pre-empts its context; where firmware has no room for the save area the context runs on (log 17). -/
def Obligations.SpawnedTeamsAndTimers : Prop :=
  (∀ (s : State) (core bin : Nat) (b : Bin), findKey (s.core core).bins bin = some b → (s.ctx b.ctx).run = .running →
     (s.ctx b.ctx).keyless = false →
     (∀ f rest, b.threads = f :: rest → (s.ctx b.ctx).spawnTimer.toNat ≠ 0 →
       (f.clock + (s.ctx b.ctx).spawnTimer.toNat ≤ s.clock.toNat → Completes (exec (.spawnTimerExpiry core bin) s) fun t =>
         findKey (t.core core).bins bin = some { b with due := true } ∧ t.groups = s.groups) ∧
       (s.clock.toNat < f.clock + (s.ctx b.ctx).spawnTimer.toNat → exec (.spawnTimerExpiry core bin) s = .next s)) ∧
     (∀ k, (s.ctx b.ctx).kernel b.entry = some k → k.roles ≠ [] → (s.core core).claims = [] →
       s.taken.fits k.spawned.demand (.core core) = true →
       (s.binDue b = true ∨ 96 ≤ b.threads.length → Completes (exec (.spawnBinLaunch core bin) s) fun t =>
         findKey (t.core core).bins bin =
           (if b.threads.length ≤ 96 then none
            else some { b with threads := b.threads.drop 96, due := s.binDue b }) ∧
         (t.team s.nextUid).place = .core core ∧ (t.team s.nextUid).ctx = b.ctx ∧ (t.team s.nextUid).groups = 1 ∧
         ∀ l, l < 96 → (t.group (teamGroup s.nextUid 0)).lane 0 l = (b.threads[l]?.map (·.arg)).getD 0) ∧
       (s.binDue b = false → b.threads.length < 96 → exec (.spawnBinLaunch core bin) s = .next s))) ∧
  ((∀ (s : State) (r : IgRef),
     let g := s.ig r
     let t := roleTeam r.role
     let v := (s.team t).trapvec
     s.canTurn r = true → s.dueTrap r = none → g.declined = none → g.pending = true →
     (s.overBudget r = false → exec (.pathTimeout r) s = .next s) ∧
     (s.overBudget r = true → v ≠ 0 → v.toNat % 4 = 0 → (∀ h ∈ g.homes, (s.group (teamGroup t h)).act = false) →
       Completes (exec (.pathTimeout r) s) fun u => (u.ig r).pc = v ∧ (u.role r.role).count = 0 ∧
         (∀ h ∈ g.homes, (u.group (teamGroup t h)).trapCause = 0x80000008 ∧
           (u.group (teamGroup t h)).trapPc = g.resumePoint.1 ∧ (u.group (teamGroup t h)).trapClause = g.resumePoint.2 ∧
           (u.group (teamGroup t h)).trapAddr = (s.ctx (s.roleCtx r.role)).pathBudget.setWidth 64) ∧
         ∀ q, q ≠ r → u.ig q = s.ig q)) ∧
   (∀ (s : State) (r c : Nat), (s.role r).since = some c → (s.ctx (s.roleCtx r)).run = .running →
     (c + 1024 ≤ s.clock.toNat → Completes (exec (.blockedTimeTick r) s) fun t =>
       t.role r = { s.role r with since := some (c + 1024), count := (s.role r).count + 1 } ∧
       ∀ q, q ≠ r → t.role q = s.role q) ∧
     (s.clock.toNat < c + 1024 → exec (.blockedTimeTick r) s = .next s)) ∧
   (∀ s : State,
     let c := s.ctx s.curCtx
     (s.count.ctx s.curCtx).due = true ↔ c.due = true ∨
       c.test = true ∧ c.trigCtl.getLsbD 0 = true ∧ c.preemptAt ≠ 0 ∧ c.retired + 1 = c.preemptAt) ∧
   (∀ (s : State) (c : Nat), (s.ctx c).run = .running →
     ((s.ctx c).due = false → exec (.preemptTrigger c) s = .next s) ∧
     ((s.ctx c).due = true →
       let ends := s.modCtx c fun x => { x with trigCtl := 0, due := false }
       (ends.preemptCtx c = none → exec (.preemptTrigger c) s = .next ends) ∧
       ∀ u, ends.preemptCtx c = some u → (u.ctx c).run = .saved ∧ (u.ctx c).trigCtl = 0 ∧
         ((s.ctx c).hold = true → exec (.preemptTrigger c) s = .next u) ∧
         ((s.ctx c).hold = false → (u.restorePlan c = none → exec (.preemptTrigger c) s = .next u) ∧
           ∀ p, u.restorePlan c = some p → exec (.preemptTrigger c) s = .next (u.restore c p)))))

/-- R66, R68, R69, R71: a bank's drain leaves it no line and gives it the mode its control word asks for, its entries gone
and, in SCRATCH and FIFO, its contents to be cleared; the clearing ends that; PINCFG takes what is written to it. R66,
R68, R69, R393: BANK writes a bank's control word: with the mode it has, the word alone, REFUSED kept (log 79); a bank
that may not leave its mode refuses it, and keeps the whole word (log 17; the place of the operands: log 40); a CACHE bank
is then busy until its drain; any other changes its mode at once and is cleared. -/
def Obligations.BankModes : Prop :=
  ((∀ (s : State) (c b : Nat),
     let k := (s.cluster c).bank b
     (k.busy = true → Completes (exec (.bankDrainComplete c b) s) fun t =>
       (t.cluster c).bank b = { k with busy := false, mode := k.ctl.toNat % 4, zero := decide (2 ≤ k.ctl.toNat % 4), fifo := [] } ∧
       (∀ l ∈ (t.cluster c).lines, l.2.bank ≠ b) ∧ t.cores = s.cores) ∧
     (k.busy = false → exec (.bankDrainComplete c b) s = .next s) ∧
     (k.zero = true → Completes (exec (.bankClearComplete c b) s) fun t => (t.cluster c).bank b = { k with zero := false } ∧
       ∀ n, n ≠ b → (t.cluster c).bank n = (s.cluster c).bank n) ∧
     (k.zero = false → exec (.bankClearComplete c b) s = .next s)) ∧
   (∀ (s : State) (c : Nat) (v : DWord), v &&& 0xFFFFFFFFFFF000F0#64 = 0 →
     Completes (exec (.pincfgWrite c v) s) fun t => t.cluster c = { s.cluster c with pincfg := v } ∧
       ∀ n, n ≠ c → t.cluster n = s.cluster n)) ∧
  (∀ s : State, Commanded s 0x0F → (s.cmdCtx = 0 ∨ SMap.has s.ctxs s.cmdCtx = true) →
     let c := s.cmdWord 1
     let b := s.cmdWord 2
     let v := BitVec.ofNat 64 (s.cmdWord 3)
     let m := v.toNat % 4
     let k := (s.cluster c).bank b
     let leaves := fun status k' => Answers s .bankSet status [] fun t => (t.cluster c).bank b = k' ∧
       (∀ n, n ≠ b → (t.cluster c).bank n = (s.cluster c).bank n) ∧ ∀ n, n ≠ c → t.cluster n = s.cluster n
     c < 16 → b < 64 → v &&& 0xFFFFFFFFFF00FFF4#64 = 0 →
     (m = k.ctl.toNat % 4 → leaves 0 { k with ctl := v }) ∧
     (m ≠ k.ctl.toNat % 4 →
       (s.bankFree c b = false → leaves 5 { k with refused := true }) ∧
       (s.bankFree c b = true → k.mode = 1 → leaves 0 { k with ctl := v, refused := false, busy := true }) ∧
       (s.bankFree c b = true → k.mode ≠ 1 →
         leaves 0 { k with ctl := v, refused := false, mode := m, zero := decide (2 ≤ m), fifo := [] })))

/-- R42, R44, R104: a host read inside an assigned extent returns the home bytes under the key of the extent's context;
under a blocked key it returns poison, with zeros as data (log 44), and outside every extent, or before READY, no data. A
host write takes its bytes to their home; under a blocked key it is discarded and counted. A host write to host memory
recalls every cluster's copy. R4, R36, R38: a write of a host window entry takes effect on that entry alone, whose
reserved bits stay 0; its read-back returns the entry once no access to host memory is outstanding, whatever entry
admitted it (log 46), and until then it waits. -/
def Obligations.HostReachesMemory : Prop :=
  ((∀ (s : State) (a n : Nat) (dr : DramRead),
     (s.mbstatReady = false ∨ s.extentAt a n = none → exec (.hostCxlMemRead a n dr) s =
       .next { s with hostRead := some (a, [], true) }) ∧
     (∀ e, s.mbstatReady = true → s.extentAt a n = some e →
       ((s.keySlot e.ctx).blocked = true → exec (.hostCxlMemRead a n dr) s =
         .next { s with hostRead := some (a, List.replicate n 0, true) }) ∧
       (∀ f, (s.keySlot e.ctx).blocked = false → Plain s e.ctx a n f → exec (.hostCxlMemRead a n dr) s =
         .next { s with hostRead := some (a, (List.range n).map f, false) }))) ∧
   (∀ (s : State) (a : Nat) (bs : List Byte) (e : Extent), s.mbstatReady = true → s.extentAt a bs.length = some e →
     ((s.keySlot e.ctx).blocked = true → Completes (exec (.hostCxlMemWrite a bs) s) fun t =>
       t.mem = s.mem ∧ t.msc = s.msc ∧ (t.keySlot e.ctx).discarded = (s.keySlot e.ctx).discarded + 1) ∧
     ((s.keySlot e.ctx).blocked = false → Completes (exec (.hostCxlMemWrite a bs) s) fun t =>
       SpanTakes s t a bs ∧ t.cores = s.cores)) ∧
   (∀ (s : State) (a : Nat) (bs : List Byte), Completes (exec (.hostCxlSnoop a bs) s) fun t =>
     SpanTakes s t (2 ^ 64 + a) bs ∧ t.cores = s.cores ∧
     ∀ i c, i < bs.length → c < 16 → s.present ((2 ^ 64 + a + i) / 64) c = true →
       (t.cluster c).level.find (2 ^ 64 + a + i) = none)) ∧
  ((∀ (s : State) (n : Nat) (e : BitVec 128), n < 4096 → Completes (exec (.hostWindowWrite n e) s) fun t =>
     (∀ i, i < 128 → (SMap.look 0 t.window n).getLsbD i =
       (e.getLsbD i && decide (i = 0 ∨ 16 ≤ i ∧ i < 64 ∨ 80 ≤ i ∧ i < 116))) ∧ (∀ m, m ≠ n → SMap.look 0 t.window m = SMap.look 0 s.window m) ∧
     { t with window := s.window } = s) ∧
   (∀ (s : State) (n : Nat), n < 4096 →
     (s.hostBusy = true → exec (.hostWindowReadback n) s = .next s) ∧
     (s.hostBusy = false → Completes (exec (.hostWindowReadback n) s) fun t =>
       { t with hostRead := s.hostRead } = s ∧
       ∃ bs, t.hostRead = some (16 * n, bs, false) ∧ bs.length = 16 ∧ ofLE bs = (SMap.look 0 s.window n).toNat)))

/-- R39, R119, R120: a peer's request that the export table lets pass is performed at home: a read returns the bytes, a
write stores them, an atomic returns the old word and stores its result. Any other changes no memory and returns no data.
A request at the head of a link's queue, answered, leaves it, and a lane of an operation is then acknowledged; behind a
gossip step it waits (R100). R39, R391, R394: a grant enters the export table or a context's routes, and a grant of
nothing takes the export away, which is the model's choice (log 46); EQTAIL takes a record number; the record at the head
of the host DMA queue enters its context's fault ring, unanswered, and raises its MSI-X vector. -/
def Obligations.PeersReachMemory : Prop :=
  ((∀ (s : State) (p a n : Nat) (bs : List Byte) (f : Nat → Byte),
     let ctx := s.ownerAt a
     (s.peerOk p a n true false = true → Plain s ctx a n f → exec (.peerRequest (.read p a n)) s =
       .next { s with hostRead := some (a, (List.range n).map f, false) }) ∧
     (s.peerOk p a n true false = false → Completes (exec (.peerRequest (.read p a n)) s) fun t =>
       t.hostRead = some (a, [], true) ∧ t.mem = s.mem ∧ t.msc = s.msc) ∧
     (s.peerOk p a bs.length false true = true → Completes (exec (.peerRequest (.write p a bs)) s) fun t =>
       SpanTakes s t a bs ∧ t.cores = s.cores) ∧
     (s.peerOk p a bs.length false true = false → Completes (exec (.peerRequest (.write p a bs)) s) fun t =>
       t.hostRead = some (a, [], true) ∧ t.mem = s.mem ∧ t.msc = s.msc)) ∧
   (∀ (s : State) (p a kind sel old : Nat) (ty : Ty) (v c : DWord),
     let n := if ty.is64 then 8 else 4
     let ask := Instr.peerRequest (.atomic p a kind sel ty v c)
     (a % n ≠ 0 ∨ s.peerOk p a n true true = false → Completes (exec ask s) fun t =>
       t.hostRead = some (a, [], true) ∧ t.mem = s.mem ∧ t.msc = s.msc) ∧
     (a % n = 0 → s.peerOk p a n true true = true →
       (s.gateHolds a n 0xFFFFF = true → exec ask s = .next s) ∧
       (s.gateHolds a n 0xFFFFF = false → s.gated a n = false → old < 2 ^ (8 * n) →
         (∀ c, c < 16 → s.present (a / 64) c = false) →
         Plain s (s.ownerAt a) a n (fun i => (leBytes n old).getD i 0) → Completes (exec ask s) fun t =>
           t.hostRead = some (a, leBytes n old, false) ∧
           SpanTakes s t a (leBytes n (atomResult (peerCode kind sel ty) ty old v.toNat c.toNat))))) ∧
   (∀ (s : State) (link : Nat) (ans : PeerAns),
     ((∀ w rest, (s.link link).queue ≠ .req w :: rest) → exec (.peerAcknowledgement link ans) s = .next s) ∧
     (∀ w rest, (s.link link).queue = .req w :: rest →
       Completes (exec (.peerAcknowledgement link ans) s) fun t => (∃ q, (t.link link).queue = rest ++ q) ∧
         ∀ g o, w.dest = .op g o.id → OneOp s g o → o.kind = .store → o.ready = false → o.acq = false → ans.ok = true →
           (∀ a ∈ o.lanes, a.psn = [] ∧ (a.lane = w.acc.lane ∨ a.done = true ∧ a.acked = true)) → w.ask = .write →
           OpEnded s t g o))) ∧
  ((∀ (s : State) (p b n : Nat) (rd wr : Bool), Completes (exec (.exportTableGrant (.exportRange p b n rd wr)) s) fun t =>
     { t with exports := s.exports } = s ∧
     (rd = true ∨ wr = true → t.exported p b n rd wr = true) ∧
     (rd = false → wr = false → ∀ e ∈ t.exports, ¬(e.peer = p ∧ e.base = b ∧ e.len = n)) ∧
     ∀ e : Export, ¬(e.peer = p ∧ e.base = b ∧ e.len = n) → (e ∈ t.exports ↔ e ∈ s.exports)) ∧
   (∀ (s : State) (c p l : Nat), Completes (exec (.exportTableGrant (.route c p l)) s) fun t =>
     { t with routes := s.routes } = s ∧ ∀ r, r ∈ t.routes ↔ r = (c, p, l) ∨ r ∈ s.routes ∧ ¬(r.1 = c ∧ r.2.1 = p)) ∧
   (∀ (s : State) (v : DWord), v.toNat < 256 → exec (.eqtailWrite v) s = .next { s with eqTail := v }) ∧
   (∀ (s : State) (c : Nat) (d : DmaEntry) (rest : List (Queued DmaEntry)), s.dmaQ = .entry d :: rest → d.ctx = c →
     Completes (exec (.hostDmaRingWrite c) s) fun t => t.dmaQ = rest ∧ t.mem = s.mem ∧ OtherCtxs s t c ∧
       findKey (t.ctx c).ring d.idx = some (d.record, false) ∧
       ∀ v, SMap.look 0 t.msix v = SMap.look 0 s.msix v + if v = 2 + c % 30 then 1 else 0))

/-- R391 to R393, R397: the host writes words of MBCMDBUF at any time, and a write of 1 to MBDOOR submits the command that
stands there; the doorbell is ignored while BUSY and before READY, and so is any other value; an unassigned code completes
at once with STATUS 1. The place of a command's words in MBCMDBUF is the model's choice (log 40). R41, R44, R46, R124,
R379, R393: CTX_CREATE makes the lowest free context with a fresh key and an empty table in firmware's memory, clear of
all that stands there, or answers 5 where it has no context or no room (log 20); KEY_DESTROY leaves no byte and no line of
the context in any level or memory-side cache, its key gone and the context keyless; CTX_DESTROY ends every team of a
running context first, waits while an engine has an entry of the context, and then nothing of the context is left. -/
def Obligations.ContextsAndKeys : Prop :=
  (∀ (s : State) (v : DWord) (ws : List DWord),
     let code := (ws.headD (SMap.look 0 s.mbcmd 0)).toNat % 2 ^ 8
     (v ≠ 1 ∨ s.mbstatReady = false ∨ s.mbstatBusy = true → Completes (exec (.mbdoorWrite v ws) s) fun t =>
       { t with mbcmd := s.mbcmd } = s ∧ ∀ i, i < 512 → SMap.look 0 t.mbcmd i = ws.getD i (SMap.look 0 s.mbcmd i)) ∧
     (s.mbstatReady = true → s.mbstatBusy = false → v = 1 →
       (1 ≤ code → code ≤ 0x11 → Completes (exec (.mbdoorWrite v ws) s) fun t => Commanded t code ∧
         { t with mbcmd := s.mbcmd, mbTaken := s.mbTaken, mbstatBusy := s.mbstatBusy, mbMoved := s.mbMoved } = s ∧
         ∀ i, i < 512 → t.cmdWord i = (ws.getD i (SMap.look 0 s.mbcmd i)).toNat) ∧
       (code = 0 ∨ 0x11 < code → Completes (exec (.mbdoorWrite v ws) s) fun t => Answered s t 1 [] ∧ t.ctxs = s.ctxs ∧
         t.mem = s.mem))) ∧
  ((∀ (s : State) (n i : Nat), Commanded s 0x01 → s.cmdWord 1 < 2 → i ≤ 8 → s.cmdWord 3 = 4096 * 2 ^ i →
     (1 ≤ n → n ≤ 255 → SMap.has s.ctxs n = false → (∀ m, 1 ≤ m → m < n → SMap.has s.ctxs m = true) →
       (s.newTable = none → Answers s .ctxCreate 5 [] fun t => t.ctxs = s.ctxs) ∧
       ∀ root u, s.newTable = some (root, u) → Answers s .ctxCreate 0 [BitVec.ofNat 64 n] fun t =>
         t.ctx n = { test := s.cmdWord 1 == 1, root := root, ringAddr := s.cmdWord 2, ringSize := s.cmdWord 3 } ∧
         OtherCtxs s t n ∧ (t.keySlot n).blocked = false ∧ (∀ m, m ≠ n → t.keySlot m = s.keySlot m) ∧ t.mem = s.mem ∧
         root % 4096 = 0 ∧ Config.fwBase ≤ root ∧ root + 4096 ≤ Config.memBytes ∧
         (∀ p ∈ s.fwUsed, root + 4096 ≤ p.1 ∨ p.1 + p.2 ≤ root) ∧
         ∀ a, root ≤ a → a < root + 4096 → SMap.look 0 t.ptab a = 0) ∧
     ((∀ m, 1 ≤ m → m ≤ 255 → SMap.has s.ctxs m = true) → Answers s .ctxCreate 5 [] fun t => t.ctxs = s.ctxs)) ∧
   (∀ s : State, Commanded s 0x06 →
     let c := s.cmdCtx
     (SMap.has s.ctxs c = true → ((∃ t ∈ s.ctxTeams c, (s.team t).resident = true) ∨ s.engineHas c = true) →
       Answers s .keyDestroy 4 [] fun t => t.keys = s.keys) ∧
     (SMap.has s.ctxs c = true → (∀ t ∈ s.ctxTeams c, (s.team t).resident = false) → s.engineHas c = false →
       (s.ctx c).keyless = false →
       Answers s .keyDestroy 0 [BitVec.ofNat 64 ((s.msc.filter fun m => m.2.slot == c).filter (·.2.dirty)).length,
           BitVec.ofNat 64 (s.keySlot c).discarded] fun t =>
         (t.ctx c).keyless = true ∧ OtherCtxs s t c ∧ (t.keySlot c).key = 0 ∧ (t.keySlot c).blocked = true ∧
         (∀ l m, findKey t.msc l = some m → m.slot ≠ c) ∧
         (∀ k, ∀ p ∈ (t.core k).level.bytes, p.2.ctx ≠ c) ∧ ∀ k, ∀ p ∈ (t.cluster k).level.bytes, p.2.ctx ≠ c)) ∧
   (∀ s : State, Commanded s 0x02 →
     let c := s.cmdCtx
     (SMap.has s.ctxs c = false → Answers s .ctxDestroy 3 [] fun t => t.ctxs = s.ctxs) ∧
     let u := s.endStalled c fun _ => true
     (SMap.has s.ctxs c = true → (s.ctx c).run = .saved → u.engineHas c = true → Completes (exec .ctxDestroy s) fun t =>
       t = u ∧ t.mbstatBusy = true) ∧
     (SMap.has s.ctxs c = true → (s.ctx c).run = .saved → u.engineHas c = false → ∃ d h, Answers s .ctxDestroy 0 [d, h] fun t =>
       SMap.has t.ctxs c = false ∧ OtherCtxs u t c ∧ (∀ p ∈ t.teams, p.2.ctx ≠ c) ∧ (∀ p ∈ t.grids, p.2.ctx ≠ c) ∧
       (∀ e ∈ t.extents, e.ctx ≠ c) ∧ ∀ r ∈ t.routes, r.1 ≠ c) ∧
     (SMap.has s.ctxs c = true → (s.ctx c).run = .running → s.ctxTeams c ≠ [] →
       Completes (exec .ctxDestroy s) fun t => t.mbstatBusy = true ∧ t.mbstatSeq = s.mbstatSeq ∧
         ∀ n ∈ s.ctxTeams c, (t.team n).terminated = true)))

/-- R17, R30, R43, R393, R394: MAP writes the leaf of a frame that is given, and answers the fault it names; with a fresh
frame, which nothing assigned or mapped meets, every byte of the frame reads zero and no cache and no DRAM line holds it;
with no place for the leaf, or no frame, it answers 2 or 5 (log 20) and changes no table. UNMAP clears the leaf; where an
access that translated with it is outstanding, the command completes only when none is. The operand 0 for a fault id is
the model's reading (log 41), and so is the place of the operands (log 40). R26, R27, R393, R394: DECLINE answers a fault
record that is open, and refuses any other. -/
def Obligations.PagesAreMapped : Prop :=
  ((∀ (s t0 : State) (lvl a : Nat), Commanded s 0x03 →
     let c := s.cmdCtx
     let va := s.cmdWord 1
     let size := s.cmdWord 2
     let f := s.cmdWord 3
     let cls := s.cmdWord 4
     let perms := s.cmdWord 5
     let win := s.cmdWord 6
     let fid := s.cmdWord 7
     SMap.has s.ctxs c = true → (s.ctx c).keyless = false → sizeLevel size = some lvl → va % size = 0 → va + size ≤ 2 ^ 48 →
     cls < 8 → perms < 8 → win < 2 ^ 12 → s.leafPlace c va lvl = .ok (a, t0) →
     (isLeaf (SMap.look 0 t0.ptab a) = false ∨ s.pageBusy c va size = false) →
     let answers := fun (t : State) => (fid = 0 → s.openFault c 0 = none → (t.ctx c).ring = (s.ctx c).ring) ∧
       (fid ≠ 0 → ∃ r, findKey (t.ctx c).ring fid = some (r, true))
     (fid = 0 ∨ (s.openFault c fid).isSome = true) →
     (f ≠ 2 ^ 64 - 1 → f < 2 ^ 52 → f % 65536 = 0 → leafMalformed lvl (leafOf f cls perms win) = false →
       (cls ≤ 4 → overlaps f size Config.fwBase (Config.memBytes - Config.fwBase) = false) →
       Answers s .mapPage 0 [] fun t => answers t ∧ t.mem = s.mem ∧
         ∀ b, SMap.look 0 t.ptab b = if b = a then leafOf f cls perms win else SMap.look 0 t0.ptab b) ∧
     (f = 2 ^ 64 - 1 → cls ≠ 5 → cls ≠ 6 → leafMalformed lvl (leafOf 0 cls perms win) = false →
       (t0.freshFrame c size = none → Answers s .mapPage 5 [] fun t => t.ptab = s.ptab) ∧
       ∀ g t1, t0.freshFrame c size = some (g, t1) → g % size = 0 ∧ g + size ≤ Config.fwBase ∧
         (∀ p ∈ t0.framesUsed, g + size ≤ p.1 ∨ p.1 + p.2 ≤ g) ∧ Answers s .mapPage 0 [] fun t => answers t ∧
         (∀ b, SMap.look 0 t.ptab b = if b = a then leafOf g cls perms win else SMap.look 0 t0.ptab b) ∧
         (∀ k, k < 2 ^ 64 → g ≤ k → k < g + size → t.readMem k = 0) ∧
         ∀ l, g ≤ 64 * l → 64 * l < g + size → findKey t.msc l = none ∧ findKey t.dram l = none)) ∧
   (∀ (s : State) (lvl n : Nat), Commanded s 0x03 → SMap.has s.ctxs s.cmdCtx = true → (s.ctx s.cmdCtx).keyless = false →
     sizeLevel (s.cmdWord 2) = some lvl → s.cmdWord 1 % s.cmdWord 2 = 0 → s.cmdWord 1 + s.cmdWord 2 ≤ 2 ^ 48 →
     s.cmdWord 3 % 65536 = 0 → s.cmdWord 3 + s.cmdWord 2 ≤ Config.fwBase → s.cmdWord 4 ≤ 4 → s.cmdWord 5 < 8 →
     s.cmdWord 6 < 2 ^ 12 → s.cmdWord 7 = 0 →
     leafMalformed lvl (leafOf (s.cmdWord 3) (s.cmdWord 4) (s.cmdWord 5) (s.cmdWord 6)) = false →
     s.leafPlace s.cmdCtx (s.cmdWord 1) lvl = .error n → Answers s .mapPage n [] fun t => t.ptab = s.ptab) ∧
   (∀ (s : State) (lvl : Nat), Commanded s 0x04 → SMap.has s.ctxs s.cmdCtx = true → sizeLevel (s.cmdWord 2) = some lvl →
     s.cmdWord 1 % s.cmdWord 2 = 0 → s.cmdWord 1 + s.cmdWord 2 ≤ 2 ^ 48 →
     (∀ n, s.openEntry (s.cmdWord 1) lvl 3 (s.ctx s.cmdCtx).root = .error n → Answers s .unmap 2 [] fun t => t.ptab = s.ptab) ∧
     ∀ a u, s.openEntry (s.cmdWord 1) lvl 3 (s.ctx s.cmdCtx).root = .ok (a, u) →
       (isLeaf (SMap.look 0 s.ptab a) = false → Answers s .unmap 2 [] fun t => t.ptab = s.ptab) ∧
       (isLeaf (SMap.look 0 s.ptab a) = true →
         let cleared := fun (t : State) => ∀ b, SMap.look 0 t.ptab b = if b = a then 0 else SMap.look 0 s.ptab b
         (s.pageBusy s.cmdCtx (s.cmdWord 1) (s.cmdWord 2) = true → Completes (exec .unmap s) fun t => cleared t ∧
           t.mbstatBusy = true ∧ t.mbstatSeq = s.mbstatSeq ∧ t.mbMoved = true) ∧
         (s.pageBusy s.cmdCtx (s.cmdWord 1) (s.cmdWord 2) = false → Answers s .unmap 0 [] cleared))) ∧
   (∀ (s : State) (i : Instr), (i = .mapPage ∧ s.cmdCode = 0x03 ∧ (s.ctx s.cmdCtx).keyless = false ∨
       i = .unmap ∧ s.cmdCode = 0x04) →
     s.mbstatReady = true → s.mbstatBusy = true → s.mbMoved = true → SMap.has s.ctxs s.cmdCtx = true →
     (s.pageBusy s.cmdCtx (s.cmdWord 1) (s.cmdWord 2) = true → exec i s = .next s) ∧
     (s.pageBusy s.cmdCtx (s.cmdWord 1) (s.cmdWord 2) = false → Answers s i 0 [] fun t => t.ptab = s.ptab))) ∧
  (∀ s : State, Commanded s 0x05 → SMap.has s.ctxs s.cmdCtx = true →
     (s.openFault s.cmdCtx (s.cmdWord 1) = none → Answers s .decline 2 [] fun t => t.ctxs = s.ctxs ∧ t.roles = s.roles) ∧
     (∀ va, s.openFault s.cmdCtx (s.cmdWord 1) = some va → Answers s .decline 0 [] fun t =>
       ∃ r, findKey (t.ctx s.cmdCtx).ring (s.cmdWord 1) = some (r, true)))

/-- R247 to R256, R393: LOAD_IMAGE checks the file that it reads, and then its kernels are the context's; a file that
breaks a rule, a poisoned one, one whose required signature fails and one that has no place are refused whole. LAUNCH
enters a root grid at the end of a launch queue. The statuses are the model's choice where no rule gives them (logs 17,
35), and so is the place of the operands (log 40). R124, R375, R381, R384, R389, R393: PREEMPT saves a running context, in
firmware's memory, and no core level and no cluster point then holds a byte of it; with no room there it answers 5 and
changes nothing (log 17); RESUME reads the save area back, refuses one that fails its check or is poisoned, and runs a
context again at the places that it can have at once; TEST_TRIGGER arms the trigger of a test context. Statuses that no
rule gives are the model's choice (logs 17, 35). -/
def Obligations.ImagesLaunchPreempt : Prop :=
  ((∀ (s u : State) (f : List Byte) (bad : Bool), Commanded s 0x07 →
     let c := s.cmdCtx
     SMap.has s.ctxs c = true → (s.ctx c).keyless = false → s.cmdWord 1 + s.cmdWord 2 ≤ Config.memBytes → s.cmdWord 3 < 2 →
     s.readHomes (s.ownerAt (s.cmdWord 1)) (s.cmdWord 1) (s.cmdWord 2) .free = (u, f, bad) →
     let none_ := fun (t : State) => (t.ctx c).images = (s.ctx c).images ∧ t.ptab = s.ptab
     (readImageFile f = none → Answers s .loadImage 2 [] none_) ∧
     ∀ ss ks, readImageFile f = some (ss, ks) →
       (bad = true → Answers s .loadImage 2 [] none_) ∧
       (bad = false → (s.cmdWord 3 = 1 ∨ ∃ x ∈ ss, x.typ = 13) → signatureOk f ss = false →
         Answers s .loadImage 6 [] none_) ∧
       (bad = false → (s.cmdWord 3 = 0 ∧ (∀ x ∈ ss, x.typ ≠ 13)) ∨ signatureOk f ss = true →
         (∀ n, u.placeImage c f ss = .error n → Answers s .loadImage n [] none_) ∧
         (∀ v, u.placeImage c f ss = .ok v → Answers s .loadImage 0 [] fun t =>
           (t.ctx c).images = (s.ctx c).images ++ ks ∧ OtherCtxs s t c))) ∧
   (∀ (s : State) (k : KRec), Commanded s 0x08 →
     let c := s.cmdCtx
     let q := s.cmdWord 4
     SMap.has s.ctxs c = true → (s.ctx c).keyless = false → (s.ctx c).kernel (BitVec.ofNat 64 (s.cmdWord 1)) = some k →
     1 ≤ s.cmdWord 2 → s.cmdWord 2 < 2 ^ 32 → s.cmdWord 3 < 2 ^ 48 → q < 64 →
     (64 ≤ ((s.ctx c).queue q).length → Answers s .launch 5 [] fun t => t.ctxs = s.ctxs) ∧
     (((s.ctx c).queue q).length < 64 → Answers s .launch 0 [] fun t =>
       (t.ctx c).queue q = (s.ctx c).queue q ++ [s.nextUid] ∧
       t.grid s.nextUid = { ctx := c, q := q, krec := k, count := s.cmdWord 2, arg := BitVec.ofNat 64 (s.cmdWord 3),
                            seq := s.launchSeq + 1, root := true }))) ∧
  ((∀ s : State, Commanded s 0x09 → SMap.has s.ctxs s.cmdCtx = true →
     ((s.ctx s.cmdCtx).run = .saved → Answers s .preempt 5 [] fun t => t.ctxs = s.ctxs) ∧
     ((s.ctx s.cmdCtx).run = .running →
       (s.preemptCtx s.cmdCtx = none → Answers s .preempt 5 [] fun t => t.ctxs = s.ctxs) ∧
       ((s.preemptCtx s.cmdCtx).isSome = true → Answers s .preempt 0 [] fun t => (t.ctx s.cmdCtx).run = .saved ∧
         (∀ k, ∀ p ∈ (t.core k).level.bytes, p.2.ctx ≠ s.cmdCtx) ∧
         (∀ k, ∀ p ∈ (t.cluster k).level.bytes, p.2.ctx ≠ s.cmdCtx) ∧
         Config.fwBase ≤ (t.ctx s.cmdCtx).area.1 ∧ (t.ctx s.cmdCtx).area.1 + (t.ctx s.cmdCtx).area.2 ≤ Config.memBytes))) ∧
   (∀ s : State, Commanded s 0x0A →
     let c := s.cmdCtx
     SMap.has s.ctxs c = true → (s.ctx c).keyless = false →
     ((s.ctx c).run = .running → Answers s .resumeCtx 5 [] fun t => t.ctxs = s.ctxs) ∧
     ∀ (u : State) (bs : List Byte) (bad : Bool), (s.ctx c).run = .saved → s.readArea c = (u, bs, bad) →
     (bad = true ∨ areaOk bs = false → Answers s .resumeCtx 7 [] fun t => t.ctxs = s.ctxs) ∧
     (bad = false → areaOk bs = true →
       (u.restorePlan c = none → Answers s .resumeCtx 5 [] fun t => t.ctxs = s.ctxs) ∧
       ∀ p, u.restorePlan c = some p → Answers s .resumeCtx 0 [] fun t => (t.ctx c).run = .running ∧
         ((p.map (·.1)).Nodup → ∀ q ∈ p, (t.team q.1).place = q.2 ∧ (t.team q.1).resident = true))) ∧
   (∀ s : State, Commanded s 0x0B → SMap.has s.ctxs s.cmdCtx = true → (s.ctx s.cmdCtx).keyless = false → s.cmdWord 2 < 2 →
     ((s.ctx s.cmdCtx).test = false → Answers s .testTrigger 5 [] fun t => t.ctxs = s.ctxs) ∧
     ((s.ctx s.cmdCtx).test = true → Answers s .testTrigger 0 [] fun t => OtherCtxs s t s.cmdCtx ∧
       t.ctx s.cmdCtx = { s.ctx s.cmdCtx with preemptAt := BitVec.ofNat 64 (s.cmdWord 1),
                                              trigCtl := (s.ctx s.cmdCtx).trigCtl ||| 1, hold := s.cmdWord 2 == 1 })))

/-- R42, R157, R393: DC_ADD assigns an extent that meets no other, and answers 2 for one that does, which is the model's
choice (log 84), as is the place of the operands (logs 40, 41); DC_RELEASE waits for the accesses to it, and then the
extent and every memory-side line of it are gone; FLUSH leaves no dirty byte of the context in a level and no dirty line
of its slot in a memory-side cache. -/
def Obligations.CapacityAndFlush : Prop :=
  (∀ s : State, Commanded s 0x0C →
    let c := s.cmdCtx
    let base := s.cmdWord 1
    let len := s.cmdWord 2 * gib
    SMap.has s.ctxs c = true → (s.ctx c).keyless = false → base % gib = 0 → len ≠ 0 → base + len ≤ Config.fwBase →
    ((∃ e ∈ s.extents, base < e.base + e.len ∧ e.base < base + len) → Answers s .dcAdd 2 [] fun t => t.extents = s.extents) ∧
    ((∀ e ∈ s.extents, ¬(base < e.base + e.len ∧ e.base < base + len)) → Answers s .dcAdd 0 [] fun t =>
      t.extents = { ctx := c, base := base, len := len } :: s.extents)) ∧
  (∀ (s : State) (failed : List Nat), Commanded s 0x0D →
    let c := s.cmdCtx
    let base := s.cmdWord 1
    let len := s.cmdWord 2 * gib
    let busy := s.ctxs.any fun x => s.outstanding x.1 fun a => decide (base ≤ a.loc ∧ a.loc < base + len)
    SMap.has s.ctxs c = true → (∃ e ∈ s.extents, e.ctx = c ∧ e.base = base ∧ e.len = len) →
    let freed := fun (t : State) => ∀ e ∈ t.extents, ¬(e.base = base ∧ e.len = len)
    (busy = true → Completes (exec (.dcRelease failed) s) fun t => freed t ∧ t.mbstatBusy = true ∧
      t.mbstatSeq = s.mbstatSeq ∧ t.mbMoved = true) ∧
    (busy = false → ∃ rs, Answers s (.dcRelease failed) 0 rs fun t => freed t ∧
      ∀ p ∈ t.msc, ¬(base ≤ 64 * p.1 ∧ 64 * p.1 < base + len))) ∧
  (∀ (s : State) (failed : List Nat), Commanded s 0x0E → SMap.has s.ctxs s.cmdCtx = true →
    (s.ctx s.cmdCtx).keyless = false → ∃ n, Answers s (.flush failed) 0 [n] fun t =>
      (∀ l m, findKey t.msc l = some m → m.slot = s.cmdCtx → m.dirty = false) ∧
      (∀ k, ∀ p ∈ (t.core k).level.bytes, ¬(p.2.ctx = s.cmdCtx ∧ p.2.dirty = true)) ∧
      ∀ k, ∀ p ∈ (t.cluster k).level.bytes, ¬(p.2.ctx = s.cmdCtx ∧ p.2.dirty = true))

/-- R396: ATTEST answers a report that begins with the nonce and holds, after the three digests, the device's number, the
context and its test bit, and the count of its images. The digests and the operands' place are the model's (logs 40, 52).
R395: the clock stands a number of 50 MHz steps below 1,000 MHz, never below 500; low coolant flow holds the module at 1.5
kW; POWERCAP bounds the limit; after the removal of power no step goes on. R397: after the start, READY is 1 and DEVNUM is
the fabric manager's; nothing is resident, no context, table, export or cache line exists, the clock and every queue are
at their reset values, every fabric link has been trained, and no key slot but the device's own holds a key. DRAM outside
the reserved range keeps what it held. Registers with no stated reset value have the model's (log 4). R397 and the reset
values of the rules: the device at reset has READY 0, no context, no resident team, empty queues, canonical memory, and no
key in any key slot. -/
def Obligations.DeviceControls : Prop :=
  (∀ s : State, Commanded s 0x10 →
     let c := s.cmdWord 5
     (c ≠ 0 → SMap.has s.ctxs c = false → Answers s .attest 3 [] fun t => t.ctxs = s.ctxs) ∧
     (c = 0 ∨ SMap.has s.ctxs c = true → ∃ rs, Answers s .attest 0 rs (fun t => t.ctxs = s.ctxs ∧ t.keys = s.keys) ∧
       (∀ i, i < 4 → rs[i]? = some (BitVec.ofNat 64 (s.cmdWord (i + 1)))) ∧
       rs[28]? = some (BitVec.ofNat 64
         (s.devnum.toNat + c * 2 ^ 32 + (if c ≠ 0 ∧ (s.ctx c).test = true then 2 ^ 48 else 0))) ∧
       rs[29]? = some (BitVec.ofNat 64 (if c = 0 then 0 else (s.ctx c).imageDigests.length)))) ∧
  ((∀ (s : State) (n : Nat), Completes (exec (.thermalThrottle n) s) fun t => { t with clockMHz := s.clockMHz } = s ∧
     500 ≤ t.clockMHz ∧ (50 * n ≤ 500 → t.clockMHz + 50 * n = 1000)) ∧
   (∀ (s : State) (low : Bool), Completes (exec (.coolantFlowLow low) s) fun t => t.powerLimit ≤ 3000 ∧
     (low = true → t.powerLimit ≤ 1500) ∧ { t with coolantLow := s.coolantLow } = s) ∧
   (∀ s : State, Commanded s 0x11 → Answers s .powercap 0 [] fun t => t.powerCap = s.cmdWord 1 ∧ t.powerLimit ≤ s.cmdWord 1) ∧
   (∀ s : State, Completes (exec .thermalCutoff s) fun t => step t = .fault .poweredOff ∧ { t with powered := s.powered } = s)) ∧
  (∀ s : State, Completes (exec .deviceReset s) fun t =>
     t.mbstatReady = true ∧ t.mbstatBusy = false ∧ t.devnum = Config.devNum ∧ t.clock = 0 ∧ t.ctxs = [] ∧ t.teams = [] ∧
     t.groups = [] ∧ t.roles = [] ∧ t.grids = [] ∧ t.mem = [] ∧ t.msc = [] ∧ t.ptab = [] ∧ t.window = [] ∧ t.exports = [] ∧
     (∀ k, (t.link k).queue = []) ∧ t.dmaQ = [] ∧ t.eqHead = 0 ∧ t.eqTail = 0 ∧ t.cores = [] ∧ t.clusters = [] ∧ t.pairs = [] ∧
     (t.keySlot 0).blocked = false ∧ (∀ n, n ≠ 0 → (t.keySlot n).key = 0) ∧ (∀ k, k < 16 → (t.link k).trained = true) ∧
     ∀ l d, (l, d) ∈ s.dram → 64 * l < 0xBF00000000 → (l, d) ∈ t.dram) ∧
  (let s := State.reset
   s.mem.wf = true ∧ s.hostMem.wf = true ∧ s.mbstatReady = false ∧ s.clock = 0 ∧ s.ctxs = [] ∧ s.teams = [] ∧ s.groups = [] ∧
   s.dmaQ = [] ∧ s.eqHead = 0 ∧ s.eqTail = 0 ∧ (∀ n, (s.keySlot n).key = 0) ∧
   (∀ c b, ((s.cluster c).bank b).mode = 1) ∧ (∀ c, (s.cluster c).pincfg = 0x400C) ∧ ∀ k, (s.core k).free = 512)

/-- Words written out field by field from the layouts of R218 to R225 decode to the instructions that they stand for, one
of each of nine formats; a zero word, the length code 3, a set bit 15, a CF of 3 where it is not permitted to be written,
an unassigned OP and a set reserved bit do not decode. -/
def Obligations.WordsDecode : Prop :=
  let at_ := fun v n => v * 2 ^ n
  let head := fun len fmt op => len + at_ fmt 2 + at_ op 8
  let fails := fun w => ∀ i, decode w ≠ .ok i
  -- so.add.i32 s3, s1, s2: TY [48:44], SB [36:30], SA [29:23], SD [22:16]
  decode (head 0 2 0 + at_ 2 44 + at_ 2 30 + at_ 1 23 + at_ 3 16) = .ok (.soAdd { sd := 3, sa := 1, sb := 2, ty := .i32 }) ∧
  -- sk.mov s9, 0xFFFFFFFF: IMM32 [95:64]
  decode (head 1 3 0 + at_ 0xFFFFFFFF 64 + at_ 9 16) = .ok (.skMov { sd := 9, imm := 0xFFFFFFFF }) ∧
  -- vo.xor.b32 v383, v0, s127: TY [47:43], B [42:34], A [33:25], D [24:16]
  decode (head 0 4 6 + at_ 8 43 + at_ 511 34 + at_ 0 25 + at_ 383 16) = .ok (.voXor { d := 383, a := 0, b := 511, ty := .b32 }) ∧
  -- bc.exit, bc.jmp by -1 word: TOFF [44:25]
  decode (head 0 11 5) = .ok (.bcExit {}) ∧
  decode (head 0 11 2 + at_ 0xFFFFF 25) = .ok (.bcJmp { toff := 0xFFFFF }) ∧
  -- ms.waitc ac15, 63: K [25:20], AC [19:16]
  decode (head 0 15 0 + at_ 63 20 + at_ 15 16) = .ok (.msWaitc { k := 63, ac := 15 }) ∧
  -- sy.clk s4: SD [22:16]
  decode (head 0 24 6 + at_ 4 16) = .ok (.syClk { sd := 4 }) ∧
  -- ls.launch q63, s2, s4, s6, coop, no word: IMM32 [95:64], COOP [43], Q [42:37], SX [36:30], SB [29:23], SA [22:16]
  decode (head 1 23 0 + at_ 0xFFFFFFFF 64 + at_ 1 43 + at_ 63 37 + at_ 6 30 + at_ 4 23 + at_ 2 16) =
    .ok (.lsLaunch { sa := 2, sb := 4, sx := 6, q := 63, coop := true, imm := 0xFFFFFFFF }) ∧
  fails 0 ∧ fails (head 3 2 0) ∧ fails (head 0 11 5 + at_ 1 15) ∧ fails (head 0 11 5 + at_ 3 13) ∧ fails (head 0 11 8) ∧
  fails (head 0 24 6 + at_ 4 16 + at_ 1 58)

/-- R83, R217, R226: when an issue group that may issue has its turn, and the bytes at its program counter, on a page that
it may fetch from, decode to an instruction that is permitted there and not interlocked, the step performs that
instruction in the state after the clock has advanced, the team's first acquire is done, the cluster cache has counted the
fetch, and claims that the issue group has left behind have ended, under the budget of its path (R180); a transition is
performed as it stands; with the power removed the step is a fault. -/
def Obligations.StepRunsDecoded : Prop :=
  (∀ (s : State) (dt : Nat) (r : IgRef) (rest : List Action) (w : Nat) (i : Instr) (tr : Trans),
    s.powered = true → s.agenda = { dt := dt, act := .issue r } :: rest →
    let now := { s with agenda := rest, clock := s.clock + BitVec.ofNat 64 dt, cur := r }
    let t := roleTeam r.role
    let u := now.firstAcquire t
    let g := u.ig r
    let n := 8 + 4 * (w % 4)
    let home := clusterOf (u.igCore r)
    now.dueTrap r = none → now.canTurn r = true → (now.ig r).declined = none →
    (∀ e, (now.role r.role).path = some e → e.rpc ≠ some g.pc) →
    u.check (s.team t).ctx .ex fetchClass false g.pc.toNat = .ok tr → g.pc.toNat % 32 + n ≤ 32 → w < 2 ^ (8 * n) →
    w % 2 ^ 32 ≠ 0 → Plain u (s.team t).ctx tr.loc.key n (fun j => BitVec.ofNat 8 (w / 2 ^ (8 * j))) →
    (∀ j, j < n → (u.cluster home).level.lineBytes ((tr.loc.key + j) / 64) = []) →
    decode w = .ok i → (g.clause = none ∨ g.resume = none) → g.placeOk i = true → u.mfWaits r i = false →
    u.mfRange i = false → u.badReg r i = none → u.interlocked r i = false →
    let v := (u.countLines home (u.cluster home) 0 [tr.loc.key / 64]).keepClaims r i
    step s = v.budgeted (exec i v)) ∧
  (∀ (s : State) (dt : Nat) (i : Instr) (rest : List Action), s.powered = true → isTransition i = true →
    s.agenda = { dt := dt, act := .event i } :: rest →
    step s = exec i { s with agenda := rest, clock := s.clock + BitVec.ofNat 64 dt }) ∧
  ∀ s : State, s.powered = false → step s = .fault .poweredOff

/-- R217 to R226: decoding the encoding of a well-formed instruction gives the instruction back, and an encoding has no
more bits than its length; every word that decodes is the encoding of the well-formed instruction that it decodes to. -/
def Obligations.DecodeEncodeAgree : Prop :=
  (∀ i : Instr, isTransition i = false → i.wf = true → encode i < 2 ^ i.nbits ∧ decode (encode i) = .ok i) ∧
  ∀ (w : Nat) (i : Instr), w < 2 ^ lenBits (w % 4) → decode w = .ok i → encode i = w ∧ i.wf = true ∧ isTransition i = false

/-- The memory of the device and of the host keeps its canonical form: no step lists an address twice or lists a byte
equal to what an unlisted address reads as. -/
def Obligations.MemoryStaysCanonical : Prop :=
  ∀ s t : State, s.mem.wf = true ∧ s.hostMem.wf = true → step s = .next t → t.mem.wf = true ∧ t.hostMem.wf = true

/-- No instruction of a program changes what firmware and the host own: the page tables, the host window, the export
table, the routes, the extents and frames, the keys, the device's number, the governor's settings and the mailbox. -/
def Obligations.ProgramsOwnNoTables : Prop :=
  ∀ (i : Instr) (s t : State), isTransition i = false → exec i s = .next t →
    t.ptab = s.ptab ∧ t.window = s.window ∧ t.exports = s.exports ∧ t.routes = s.routes ∧ t.extents = s.extents ∧
    t.owned = s.owned ∧ t.keys = s.keys ∧ t.devnum = s.devnum ∧ t.powered = s.powered ∧ t.clockMHz = s.clockMHz ∧
    t.powerCap = s.powerCap ∧ t.coolantLow = s.coolantLow ∧ t.mbstatReady = s.mbstatReady ∧ t.mbstatBusy = s.mbstatBusy ∧ t.mbMoved = s.mbMoved ∧
    t.mbcmd = s.mbcmd ∧ t.mbTaken = s.mbTaken ∧ t.mbrsp = s.mbrsp ∧ t.eqTail = s.eqTail ∧ t.hostRead = s.hostRead
end

