-- ==== Sys2Proof/Laws/Map.lean ====
section
/-! SUPPORT. The laws of the finite map: reading after an insertion, an erasure and a put, and the canonical form, which
every one of them keeps. -/

namespace Sys2Proof.SMap

variable {α : Type}

@[simp] theorem look_nil (d : α) (k : Nat) : look d [] k = d := rfl

theorem look_erase (d : α) (m : SMap α) (k j : Nat) : look d (erase m k) j = if j = k then d else look d m j := by
  induction m with
  | nil => simp [erase]
  | cons p t ih =>
    obtain ⟨a, v⟩ := p
    by_cases h : a = k
    · subst h
      simp only [erase, if_pos, ih, look]
      by_cases hj : j = a
      · simp [hj]
      · simp [hj, Ne.symm hj]
    · simp only [erase, if_neg h, look, ih]
      by_cases hj : a = j
      · subst hj; simp [h]
      · simp [hj]

theorem look_place_of_absent (d : α) (m : SMap α) (k : Nat) (v : α) (j : Nat) (h : ∀ p ∈ m, p.1 ≠ k) :
    look d (place m k v) j = if j = k then v else look d m j := by
  induction m with
  | nil => by_cases hj : j = k <;> simp [place, look, hj, Ne.symm]
  | cons p t ih =>
    obtain ⟨a, w⟩ := p
    have ha : a ≠ k := h (a, w) List.mem_cons_self
    have ht := ih fun p hp => h p (List.mem_cons_of_mem _ hp)
    by_cases hk : k < a
    · simp only [place, if_pos hk, look]
      by_cases hj : j = k
      · simp [hj]
      · simp [hj, Ne.symm hj]
    · simp only [place, if_neg hk, look, ht]
      by_cases hj : a = j
      · subst hj; simp [ha]
      · simp [hj]

theorem not_mem_erase (m : SMap α) (k : Nat) : ∀ p ∈ erase m k, p.1 ≠ k := by
  induction m with
  | nil => simp [erase]
  | cons q t ih =>
    obtain ⟨a, v⟩ := q
    by_cases h : a = k
    · simpa [erase, h] using ih
    · intro p hp
      simp only [erase, if_neg h, List.mem_cons] at hp
      rcases hp with rfl | hp
      · exact h
      · exact ih p hp

/-- Reading after an insertion. -/
@[simp] theorem look_ins (d : α) (m : SMap α) (k : Nat) (v : α) (j : Nat) :
    look d (ins m k v) j = if j = k then v else look d m j := by
  unfold ins
  rw [look_place_of_absent _ _ _ _ _ (not_mem_erase m k), look_erase]
  by_cases h : j = k <;> simp [h]

/-- Reading after a put. -/
@[simp] theorem look_put [DecidableEq α] (d : α) (m : SMap α) (k : Nat) (v : α) (j : Nat) :
    look d (put d m k v) j = if j = k then v else look d m j := by
  unfold put
  split
  · rename_i h; simp [look_erase, h]
  · simp

theorem has_iff (m : SMap α) (k : Nat) : has m k = true ↔ ∃ p ∈ m, p.1 = k := by
  simp [has]

theorem has_erase (m : SMap α) (k j : Nat) : has (erase m k) j = (has m j && decide (j ≠ k)) := by
  induction m with
  | nil => simp [erase, has]
  | cons p t ih =>
    obtain ⟨a, v⟩ := p
    by_cases h : a = k
    · subst h
      simp only [erase, if_pos, ih]
      by_cases hj : j = a
      · simp [hj]
      · simp [has, hj, Ne.symm hj]
    · simp only [erase, if_neg h]
      have : has ((a, v) :: erase t k) j = (decide (a = j) || has (erase t k) j) := by
        simp [has, beq_eq_decide]
      rw [this, ih]
      have e2 : has ((a, v) :: t) j = (decide (a = j) || has t j) := by simp [has, beq_eq_decide]
      rw [e2]
      by_cases hj : a = j
      · subst hj; simp [h]
      · simp [hj]

theorem has_place (m : SMap α) (k : Nat) (v : α) (j : Nat) : has (place m k v) j = (decide (j = k) || has m j) := by
  induction m with
  | nil => simp [place, has, beq_eq_decide, eq_comm]
  | cons p t ih =>
    obtain ⟨a, w⟩ := p
    have e (u : SMap α) (x : Nat × α) : has (x :: u) j = (decide (x.1 = j) || has u j) := by simp [has, beq_eq_decide]
    by_cases hk : k < a
    · simp [place, hk, e, eq_comm]
    · simp only [place, if_neg hk, e, ih]
      cases decide (a = j) <;> cases decide (j = k) <;> simp

@[simp] theorem has_ins (m : SMap α) (k : Nat) (v : α) (j : Nat) : has (ins m k v) j = (decide (j = k) || has m j) := by
  unfold ins
  rw [has_place, has_erase]
  by_cases h : j = k <;> simp [h]

/-! ### The canonical form -/

theorem wf_iff [DecidableEq α] (d : α) (m : SMap α) :
    wf d m = true ↔ m.Pairwise (fun p q => p.1 < q.1) ∧ ∀ p ∈ m, p.2 ≠ d := by
  induction m with
  | nil => simp [wf]
  | cons p t ih =>
    obtain ⟨a, v⟩ := p
    simp only [wf, Bool.and_eq_true, decide_eq_true_eq, List.all_eq_true, ih, List.pairwise_cons, List.mem_cons,
      forall_eq_or_imp]
    constructor
    · rintro ⟨⟨h1, h2⟩, h3, h4⟩; exact ⟨⟨h2, h3⟩, h1, h4⟩
    · rintro ⟨⟨h2, h3⟩, h1, h4⟩; exact ⟨⟨h1, h2⟩, h3, h4⟩

theorem erase_eq_filter (m : SMap α) (k : Nat) : erase m k = m.filter fun p => p.1 != k := by
  induction m with
  | nil => rfl
  | cons p t ih =>
    obtain ⟨a, v⟩ := p
    by_cases h : a = k <;> simp [erase, h, ih]

theorem wf_erase [DecidableEq α] (d : α) (m : SMap α) (k : Nat) (h : wf d m = true) : wf d (erase m k) = true := by
  rw [wf_iff] at h ⊢
  rw [erase_eq_filter]
  exact ⟨h.1.filter _, fun p hp => h.2 p (List.mem_of_mem_filter hp)⟩

theorem mem_place (m : SMap α) (k : Nat) (v : α) (p : Nat × α) : p ∈ place m k v ↔ p = (k, v) ∨ p ∈ m := by
  induction m with
  | nil => simp [place]
  | cons q t ih =>
    obtain ⟨a, w⟩ := q
    by_cases h : k < a
    · simp [place, h]
    · simp only [place, if_neg h, List.mem_cons, ih]; tauto

theorem wf_place [DecidableEq α] (d : α) (m : SMap α) (k : Nat) (v : α) (h : wf d m = true)
    (ha : ∀ p ∈ m, p.1 ≠ k) (hv : v ≠ d) : wf d (place m k v) = true := by
  rw [wf_iff] at h ⊢
  refine ⟨?_, fun p hp => ?_⟩
  · have hs := h.1
    clear h
    induction m with
    | nil => simp [place]
    | cons q t ih =>
      obtain ⟨a, w⟩ := q
      rw [List.pairwise_cons] at hs
      have ne : a ≠ k := ha (a, w) List.mem_cons_self
      by_cases hk : k < a
      · simp only [place, if_pos hk, List.pairwise_cons, List.mem_cons]
        refine ⟨?_, hs⟩
        rintro p (rfl | hp)
        · exact hk
        · exact Nat.lt_trans hk (hs.1 p hp)
      · simp only [place, if_neg hk, List.pairwise_cons]
        refine ⟨fun p hp => ?_, ih (fun p hp => ha p (List.mem_cons_of_mem _ hp)) hs.2⟩
        rcases (mem_place t k v p).1 hp with rfl | hp
        · simp only; omega
        · exact hs.1 p hp
  · rcases (mem_place m k v p).1 hp with rfl | hp
    · exact hv
    · exact h.2 p hp

/-- A put keeps the canonical form. -/
theorem wf_put [DecidableEq α] (d : α) (m : SMap α) (k : Nat) (v : α) (h : wf d m = true) : wf d (put d m k v) = true := by
  unfold put
  split
  · exact wf_erase d m k h
  · rename_i hv
    exact wf_place d _ k v (wf_erase d m k h) (not_mem_erase m k) hv

end Sys2Proof.SMap
end

