-- ==== Sys2Proof/Laws/State.lean ====
section
/-! SUPPORT. One lemma per field and per numbered part for each update of the state, so that no later proof unfolds a
record update. -/

namespace Sys2Proof.Machine

/-! ### `setCtx` -/

@[simp] theorem setCtx_ctx (s : State) (n : Nat) (x : Ctx) (m : Nat) :
    (s.setCtx n x).ctx m = if m = n then x else s.ctx m := by
  simp [State.ctx, State.setCtx]
@[simp] theorem setCtx_grid (s : State) (n : Nat) (x : Ctx) (m : Nat) : (s.setCtx n x).grid m = s.grid m := rfl
@[simp] theorem setCtx_team (s : State) (n : Nat) (x : Ctx) (m : Nat) : (s.setCtx n x).team m = s.team m := rfl
@[simp] theorem setCtx_role (s : State) (n : Nat) (x : Ctx) (m : Nat) : (s.setCtx n x).role m = s.role m := rfl
@[simp] theorem setCtx_group (s : State) (n : Nat) (x : Ctx) (m : Nat) : (s.setCtx n x).group m = s.group m := rfl
@[simp] theorem setCtx_alloc (s : State) (n : Nat) (x : Ctx) (m : Nat) : (s.setCtx n x).alloc m = s.alloc m := rfl
@[simp] theorem setCtx_core (s : State) (n : Nat) (x : Ctx) (m : Nat) : (s.setCtx n x).core m = s.core m := rfl
@[simp] theorem setCtx_cluster (s : State) (n : Nat) (x : Ctx) (m : Nat) : (s.setCtx n x).cluster m = s.cluster m := rfl
@[simp] theorem setCtx_pair (s : State) (n : Nat) (x : Ctx) (m : Nat) : (s.setCtx n x).pair m = s.pair m := rfl
@[simp] theorem setCtx_stack (s : State) (n : Nat) (x : Ctx) (m : Nat) : (s.setCtx n x).stack m = s.stack m := rfl
@[simp] theorem setCtx_link (s : State) (n : Nat) (x : Ctx) (m : Nat) : (s.setCtx n x).link m = s.link m := rfl
@[simp] theorem setCtx_agenda (s : State) (n : Nat) (x : Ctx) : (s.setCtx n x).agenda = s.agenda := rfl
@[simp] theorem setCtx_draws (s : State) (n : Nat) (x : Ctx) : (s.setCtx n x).draws = s.draws := rfl
@[simp] theorem setCtx_cur (s : State) (n : Nat) (x : Ctx) : (s.setCtx n x).cur = s.cur := rfl
@[simp] theorem setCtx_nextUid (s : State) (n : Nat) (x : Ctx) : (s.setCtx n x).nextUid = s.nextUid := rfl
@[simp] theorem setCtx_clock (s : State) (n : Nat) (x : Ctx) : (s.setCtx n x).clock = s.clock := rfl
@[simp] theorem setCtx_powered (s : State) (n : Nat) (x : Ctx) : (s.setCtx n x).powered = s.powered := rfl
@[simp] theorem setCtx_clockMHz (s : State) (n : Nat) (x : Ctx) : (s.setCtx n x).clockMHz = s.clockMHz := rfl
@[simp] theorem setCtx_powerCap (s : State) (n : Nat) (x : Ctx) : (s.setCtx n x).powerCap = s.powerCap := rfl
@[simp] theorem setCtx_coolantLow (s : State) (n : Nat) (x : Ctx) : (s.setCtx n x).coolantLow = s.coolantLow := rfl
@[simp] theorem setCtx_devnum (s : State) (n : Nat) (x : Ctx) : (s.setCtx n x).devnum = s.devnum := rfl
@[simp] theorem setCtx_mem (s : State) (n : Nat) (x : Ctx) : (s.setCtx n x).mem = s.mem := rfl
@[simp] theorem setCtx_homePoison (s : State) (n : Nat) (x : Ctx) : (s.setCtx n x).homePoison = s.homePoison := rfl
@[simp] theorem setCtx_presence (s : State) (n : Nat) (x : Ctx) : (s.setCtx n x).presence = s.presence := rfl
@[simp] theorem setCtx_msc (s : State) (n : Nat) (x : Ctx) : (s.setCtx n x).msc = s.msc := rfl
@[simp] theorem setCtx_dram (s : State) (n : Nat) (x : Ctx) : (s.setCtx n x).dram = s.dram := rfl
@[simp] theorem setCtx_keys (s : State) (n : Nat) (x : Ctx) : (s.setCtx n x).keys = s.keys := rfl
@[simp] theorem setCtx_keysMade (s : State) (n : Nat) (x : Ctx) : (s.setCtx n x).keysMade = s.keysMade := rfl
@[simp] theorem setCtx_hostMem (s : State) (n : Nat) (x : Ctx) : (s.setCtx n x).hostMem = s.hostMem := rfl
@[simp] theorem setCtx_ptab (s : State) (n : Nat) (x : Ctx) : (s.setCtx n x).ptab = s.ptab := rfl
@[simp] theorem setCtx_window (s : State) (n : Nat) (x : Ctx) : (s.setCtx n x).window = s.window := rfl
@[simp] theorem setCtx_exports (s : State) (n : Nat) (x : Ctx) : (s.setCtx n x).exports = s.exports := rfl
@[simp] theorem setCtx_routes (s : State) (n : Nat) (x : Ctx) : (s.setCtx n x).routes = s.routes := rfl
@[simp] theorem setCtx_extents (s : State) (n : Nat) (x : Ctx) : (s.setCtx n x).extents = s.extents := rfl
@[simp] theorem setCtx_owned (s : State) (n : Nat) (x : Ctx) : (s.setCtx n x).owned = s.owned := rfl
@[simp] theorem setCtx_packets (s : State) (n : Nat) (x : Ctx) : (s.setCtx n x).packets = s.packets := rfl
@[simp] theorem setCtx_mbstatSeq (s : State) (n : Nat) (x : Ctx) : (s.setCtx n x).mbstatSeq = s.mbstatSeq := rfl
@[simp] theorem setCtx_mbstatLast (s : State) (n : Nat) (x : Ctx) : (s.setCtx n x).mbstatLast = s.mbstatLast := rfl
@[simp] theorem setCtx_mbstatBusy (s : State) (n : Nat) (x : Ctx) : (s.setCtx n x).mbstatBusy = s.mbstatBusy := rfl
@[simp] theorem setCtx_mbstatReady (s : State) (n : Nat) (x : Ctx) : (s.setCtx n x).mbstatReady = s.mbstatReady := rfl
@[simp] theorem setCtx_mbMoved (s : State) (n : Nat) (x : Ctx) : (s.setCtx n x).mbMoved = s.mbMoved := rfl
@[simp] theorem setCtx_mbcmd (s : State) (n : Nat) (x : Ctx) : (s.setCtx n x).mbcmd = s.mbcmd := rfl
@[simp] theorem setCtx_mbTaken (s : State) (n : Nat) (x : Ctx) : (s.setCtx n x).mbTaken = s.mbTaken := rfl
@[simp] theorem setCtx_mbrsp (s : State) (n : Nat) (x : Ctx) : (s.setCtx n x).mbrsp = s.mbrsp := rfl
@[simp] theorem setCtx_eqHead (s : State) (n : Nat) (x : Ctx) : (s.setCtx n x).eqHead = s.eqHead := rfl
@[simp] theorem setCtx_eqTail (s : State) (n : Nat) (x : Ctx) : (s.setCtx n x).eqTail = s.eqTail := rfl
@[simp] theorem setCtx_eqLost (s : State) (n : Nat) (x : Ctx) : (s.setCtx n x).eqLost = s.eqLost := rfl
@[simp] theorem setCtx_eq (s : State) (n : Nat) (x : Ctx) : (s.setCtx n x).eq = s.eq := rfl
@[simp] theorem setCtx_msix (s : State) (n : Nat) (x : Ctx) : (s.setCtx n x).msix = s.msix := rfl
@[simp] theorem setCtx_dmaQ (s : State) (n : Nat) (x : Ctx) : (s.setCtx n x).dmaQ = s.dmaQ := rfl
@[simp] theorem setCtx_hostRead (s : State) (n : Nat) (x : Ctx) : (s.setCtx n x).hostRead = s.hostRead := rfl
@[simp] theorem setCtx_launchSeq (s : State) (n : Nat) (x : Ctx) : (s.setCtx n x).launchSeq = s.launchSeq := rfl
@[simp] theorem setCtx_rrQueue (s : State) (n : Nat) (x : Ctx) : (s.setCtx n x).rrQueue = s.rrQueue := rfl
@[simp] theorem setCtx_rrCtx (s : State) (n : Nat) (x : Ctx) : (s.setCtx n x).rrCtx = s.rrCtx := rfl
@[simp] theorem setCtx_grids (s : State) (n : Nat) (x : Ctx) : (s.setCtx n x).grids = s.grids := rfl
@[simp] theorem setCtx_teams (s : State) (n : Nat) (x : Ctx) : (s.setCtx n x).teams = s.teams := rfl
@[simp] theorem setCtx_roles (s : State) (n : Nat) (x : Ctx) : (s.setCtx n x).roles = s.roles := rfl
@[simp] theorem setCtx_groups (s : State) (n : Nat) (x : Ctx) : (s.setCtx n x).groups = s.groups := rfl
@[simp] theorem setCtx_allocs (s : State) (n : Nat) (x : Ctx) : (s.setCtx n x).allocs = s.allocs := rfl
@[simp] theorem setCtx_cores (s : State) (n : Nat) (x : Ctx) : (s.setCtx n x).cores = s.cores := rfl
@[simp] theorem setCtx_clusters (s : State) (n : Nat) (x : Ctx) : (s.setCtx n x).clusters = s.clusters := rfl
@[simp] theorem setCtx_pairs (s : State) (n : Nat) (x : Ctx) : (s.setCtx n x).pairs = s.pairs := rfl
@[simp] theorem setCtx_stks (s : State) (n : Nat) (x : Ctx) : (s.setCtx n x).stks = s.stks := rfl
@[simp] theorem setCtx_links (s : State) (n : Nat) (x : Ctx) : (s.setCtx n x).links = s.links := rfl
@[simp] theorem setCtx_joins (s : State) (n : Nat) (x : Ctx) : (s.setCtx n x).joins = s.joins := rfl
@[simp] theorem modCtx_eq (s : State) (n : Nat) (f : Ctx → Ctx) : s.modCtx n f = s.setCtx n (f (s.ctx n)) := rfl

/-! ### `setGrid` -/

@[simp] theorem setGrid_grid (s : State) (n : Nat) (x : Grid) (m : Nat) :
    (s.setGrid n x).grid m = if m = n then x else s.grid m := by
  simp [State.grid, State.setGrid]
@[simp] theorem setGrid_ctx (s : State) (n : Nat) (x : Grid) (m : Nat) : (s.setGrid n x).ctx m = s.ctx m := rfl
@[simp] theorem setGrid_team (s : State) (n : Nat) (x : Grid) (m : Nat) : (s.setGrid n x).team m = s.team m := rfl
@[simp] theorem setGrid_role (s : State) (n : Nat) (x : Grid) (m : Nat) : (s.setGrid n x).role m = s.role m := rfl
@[simp] theorem setGrid_group (s : State) (n : Nat) (x : Grid) (m : Nat) : (s.setGrid n x).group m = s.group m := rfl
@[simp] theorem setGrid_alloc (s : State) (n : Nat) (x : Grid) (m : Nat) : (s.setGrid n x).alloc m = s.alloc m := rfl
@[simp] theorem setGrid_core (s : State) (n : Nat) (x : Grid) (m : Nat) : (s.setGrid n x).core m = s.core m := rfl
@[simp] theorem setGrid_cluster (s : State) (n : Nat) (x : Grid) (m : Nat) : (s.setGrid n x).cluster m = s.cluster m := rfl
@[simp] theorem setGrid_pair (s : State) (n : Nat) (x : Grid) (m : Nat) : (s.setGrid n x).pair m = s.pair m := rfl
@[simp] theorem setGrid_stack (s : State) (n : Nat) (x : Grid) (m : Nat) : (s.setGrid n x).stack m = s.stack m := rfl
@[simp] theorem setGrid_link (s : State) (n : Nat) (x : Grid) (m : Nat) : (s.setGrid n x).link m = s.link m := rfl
@[simp] theorem setGrid_agenda (s : State) (n : Nat) (x : Grid) : (s.setGrid n x).agenda = s.agenda := rfl
@[simp] theorem setGrid_draws (s : State) (n : Nat) (x : Grid) : (s.setGrid n x).draws = s.draws := rfl
@[simp] theorem setGrid_cur (s : State) (n : Nat) (x : Grid) : (s.setGrid n x).cur = s.cur := rfl
@[simp] theorem setGrid_nextUid (s : State) (n : Nat) (x : Grid) : (s.setGrid n x).nextUid = s.nextUid := rfl
@[simp] theorem setGrid_clock (s : State) (n : Nat) (x : Grid) : (s.setGrid n x).clock = s.clock := rfl
@[simp] theorem setGrid_powered (s : State) (n : Nat) (x : Grid) : (s.setGrid n x).powered = s.powered := rfl
@[simp] theorem setGrid_clockMHz (s : State) (n : Nat) (x : Grid) : (s.setGrid n x).clockMHz = s.clockMHz := rfl
@[simp] theorem setGrid_powerCap (s : State) (n : Nat) (x : Grid) : (s.setGrid n x).powerCap = s.powerCap := rfl
@[simp] theorem setGrid_coolantLow (s : State) (n : Nat) (x : Grid) : (s.setGrid n x).coolantLow = s.coolantLow := rfl
@[simp] theorem setGrid_devnum (s : State) (n : Nat) (x : Grid) : (s.setGrid n x).devnum = s.devnum := rfl
@[simp] theorem setGrid_mem (s : State) (n : Nat) (x : Grid) : (s.setGrid n x).mem = s.mem := rfl
@[simp] theorem setGrid_homePoison (s : State) (n : Nat) (x : Grid) : (s.setGrid n x).homePoison = s.homePoison := rfl
@[simp] theorem setGrid_presence (s : State) (n : Nat) (x : Grid) : (s.setGrid n x).presence = s.presence := rfl
@[simp] theorem setGrid_msc (s : State) (n : Nat) (x : Grid) : (s.setGrid n x).msc = s.msc := rfl
@[simp] theorem setGrid_dram (s : State) (n : Nat) (x : Grid) : (s.setGrid n x).dram = s.dram := rfl
@[simp] theorem setGrid_keys (s : State) (n : Nat) (x : Grid) : (s.setGrid n x).keys = s.keys := rfl
@[simp] theorem setGrid_keysMade (s : State) (n : Nat) (x : Grid) : (s.setGrid n x).keysMade = s.keysMade := rfl
@[simp] theorem setGrid_hostMem (s : State) (n : Nat) (x : Grid) : (s.setGrid n x).hostMem = s.hostMem := rfl
@[simp] theorem setGrid_ptab (s : State) (n : Nat) (x : Grid) : (s.setGrid n x).ptab = s.ptab := rfl
@[simp] theorem setGrid_window (s : State) (n : Nat) (x : Grid) : (s.setGrid n x).window = s.window := rfl
@[simp] theorem setGrid_exports (s : State) (n : Nat) (x : Grid) : (s.setGrid n x).exports = s.exports := rfl
@[simp] theorem setGrid_routes (s : State) (n : Nat) (x : Grid) : (s.setGrid n x).routes = s.routes := rfl
@[simp] theorem setGrid_extents (s : State) (n : Nat) (x : Grid) : (s.setGrid n x).extents = s.extents := rfl
@[simp] theorem setGrid_owned (s : State) (n : Nat) (x : Grid) : (s.setGrid n x).owned = s.owned := rfl
@[simp] theorem setGrid_packets (s : State) (n : Nat) (x : Grid) : (s.setGrid n x).packets = s.packets := rfl
@[simp] theorem setGrid_mbstatSeq (s : State) (n : Nat) (x : Grid) : (s.setGrid n x).mbstatSeq = s.mbstatSeq := rfl
@[simp] theorem setGrid_mbstatLast (s : State) (n : Nat) (x : Grid) : (s.setGrid n x).mbstatLast = s.mbstatLast := rfl
@[simp] theorem setGrid_mbstatBusy (s : State) (n : Nat) (x : Grid) : (s.setGrid n x).mbstatBusy = s.mbstatBusy := rfl
@[simp] theorem setGrid_mbstatReady (s : State) (n : Nat) (x : Grid) : (s.setGrid n x).mbstatReady = s.mbstatReady := rfl
@[simp] theorem setGrid_mbMoved (s : State) (n : Nat) (x : Grid) : (s.setGrid n x).mbMoved = s.mbMoved := rfl
@[simp] theorem setGrid_mbcmd (s : State) (n : Nat) (x : Grid) : (s.setGrid n x).mbcmd = s.mbcmd := rfl
@[simp] theorem setGrid_mbTaken (s : State) (n : Nat) (x : Grid) : (s.setGrid n x).mbTaken = s.mbTaken := rfl
@[simp] theorem setGrid_mbrsp (s : State) (n : Nat) (x : Grid) : (s.setGrid n x).mbrsp = s.mbrsp := rfl
@[simp] theorem setGrid_eqHead (s : State) (n : Nat) (x : Grid) : (s.setGrid n x).eqHead = s.eqHead := rfl
@[simp] theorem setGrid_eqTail (s : State) (n : Nat) (x : Grid) : (s.setGrid n x).eqTail = s.eqTail := rfl
@[simp] theorem setGrid_eqLost (s : State) (n : Nat) (x : Grid) : (s.setGrid n x).eqLost = s.eqLost := rfl
@[simp] theorem setGrid_eq (s : State) (n : Nat) (x : Grid) : (s.setGrid n x).eq = s.eq := rfl
@[simp] theorem setGrid_msix (s : State) (n : Nat) (x : Grid) : (s.setGrid n x).msix = s.msix := rfl
@[simp] theorem setGrid_dmaQ (s : State) (n : Nat) (x : Grid) : (s.setGrid n x).dmaQ = s.dmaQ := rfl
@[simp] theorem setGrid_hostRead (s : State) (n : Nat) (x : Grid) : (s.setGrid n x).hostRead = s.hostRead := rfl
@[simp] theorem setGrid_launchSeq (s : State) (n : Nat) (x : Grid) : (s.setGrid n x).launchSeq = s.launchSeq := rfl
@[simp] theorem setGrid_rrQueue (s : State) (n : Nat) (x : Grid) : (s.setGrid n x).rrQueue = s.rrQueue := rfl
@[simp] theorem setGrid_rrCtx (s : State) (n : Nat) (x : Grid) : (s.setGrid n x).rrCtx = s.rrCtx := rfl
@[simp] theorem setGrid_ctxs (s : State) (n : Nat) (x : Grid) : (s.setGrid n x).ctxs = s.ctxs := rfl
@[simp] theorem setGrid_teams (s : State) (n : Nat) (x : Grid) : (s.setGrid n x).teams = s.teams := rfl
@[simp] theorem setGrid_roles (s : State) (n : Nat) (x : Grid) : (s.setGrid n x).roles = s.roles := rfl
@[simp] theorem setGrid_groups (s : State) (n : Nat) (x : Grid) : (s.setGrid n x).groups = s.groups := rfl
@[simp] theorem setGrid_allocs (s : State) (n : Nat) (x : Grid) : (s.setGrid n x).allocs = s.allocs := rfl
@[simp] theorem setGrid_cores (s : State) (n : Nat) (x : Grid) : (s.setGrid n x).cores = s.cores := rfl
@[simp] theorem setGrid_clusters (s : State) (n : Nat) (x : Grid) : (s.setGrid n x).clusters = s.clusters := rfl
@[simp] theorem setGrid_pairs (s : State) (n : Nat) (x : Grid) : (s.setGrid n x).pairs = s.pairs := rfl
@[simp] theorem setGrid_stks (s : State) (n : Nat) (x : Grid) : (s.setGrid n x).stks = s.stks := rfl
@[simp] theorem setGrid_links (s : State) (n : Nat) (x : Grid) : (s.setGrid n x).links = s.links := rfl
@[simp] theorem setGrid_joins (s : State) (n : Nat) (x : Grid) : (s.setGrid n x).joins = s.joins := rfl
@[simp] theorem modGrid_eq (s : State) (n : Nat) (f : Grid → Grid) : s.modGrid n f = s.setGrid n (f (s.grid n)) := rfl

/-! ### `setTeam` -/

@[simp] theorem setTeam_team (s : State) (n : Nat) (x : Team) (m : Nat) :
    (s.setTeam n x).team m = if m = n then x else s.team m := by
  simp [State.team, State.setTeam]
@[simp] theorem setTeam_ctx (s : State) (n : Nat) (x : Team) (m : Nat) : (s.setTeam n x).ctx m = s.ctx m := rfl
@[simp] theorem setTeam_grid (s : State) (n : Nat) (x : Team) (m : Nat) : (s.setTeam n x).grid m = s.grid m := rfl
@[simp] theorem setTeam_role (s : State) (n : Nat) (x : Team) (m : Nat) : (s.setTeam n x).role m = s.role m := rfl
@[simp] theorem setTeam_group (s : State) (n : Nat) (x : Team) (m : Nat) : (s.setTeam n x).group m = s.group m := rfl
@[simp] theorem setTeam_alloc (s : State) (n : Nat) (x : Team) (m : Nat) : (s.setTeam n x).alloc m = s.alloc m := rfl
@[simp] theorem setTeam_core (s : State) (n : Nat) (x : Team) (m : Nat) : (s.setTeam n x).core m = s.core m := rfl
@[simp] theorem setTeam_cluster (s : State) (n : Nat) (x : Team) (m : Nat) : (s.setTeam n x).cluster m = s.cluster m := rfl
@[simp] theorem setTeam_pair (s : State) (n : Nat) (x : Team) (m : Nat) : (s.setTeam n x).pair m = s.pair m := rfl
@[simp] theorem setTeam_stack (s : State) (n : Nat) (x : Team) (m : Nat) : (s.setTeam n x).stack m = s.stack m := rfl
@[simp] theorem setTeam_link (s : State) (n : Nat) (x : Team) (m : Nat) : (s.setTeam n x).link m = s.link m := rfl
@[simp] theorem setTeam_agenda (s : State) (n : Nat) (x : Team) : (s.setTeam n x).agenda = s.agenda := rfl
@[simp] theorem setTeam_draws (s : State) (n : Nat) (x : Team) : (s.setTeam n x).draws = s.draws := rfl
@[simp] theorem setTeam_cur (s : State) (n : Nat) (x : Team) : (s.setTeam n x).cur = s.cur := rfl
@[simp] theorem setTeam_nextUid (s : State) (n : Nat) (x : Team) : (s.setTeam n x).nextUid = s.nextUid := rfl
@[simp] theorem setTeam_clock (s : State) (n : Nat) (x : Team) : (s.setTeam n x).clock = s.clock := rfl
@[simp] theorem setTeam_powered (s : State) (n : Nat) (x : Team) : (s.setTeam n x).powered = s.powered := rfl
@[simp] theorem setTeam_clockMHz (s : State) (n : Nat) (x : Team) : (s.setTeam n x).clockMHz = s.clockMHz := rfl
@[simp] theorem setTeam_powerCap (s : State) (n : Nat) (x : Team) : (s.setTeam n x).powerCap = s.powerCap := rfl
@[simp] theorem setTeam_coolantLow (s : State) (n : Nat) (x : Team) : (s.setTeam n x).coolantLow = s.coolantLow := rfl
@[simp] theorem setTeam_devnum (s : State) (n : Nat) (x : Team) : (s.setTeam n x).devnum = s.devnum := rfl
@[simp] theorem setTeam_mem (s : State) (n : Nat) (x : Team) : (s.setTeam n x).mem = s.mem := rfl
@[simp] theorem setTeam_homePoison (s : State) (n : Nat) (x : Team) : (s.setTeam n x).homePoison = s.homePoison := rfl
@[simp] theorem setTeam_presence (s : State) (n : Nat) (x : Team) : (s.setTeam n x).presence = s.presence := rfl
@[simp] theorem setTeam_msc (s : State) (n : Nat) (x : Team) : (s.setTeam n x).msc = s.msc := rfl
@[simp] theorem setTeam_dram (s : State) (n : Nat) (x : Team) : (s.setTeam n x).dram = s.dram := rfl
@[simp] theorem setTeam_keys (s : State) (n : Nat) (x : Team) : (s.setTeam n x).keys = s.keys := rfl
@[simp] theorem setTeam_keysMade (s : State) (n : Nat) (x : Team) : (s.setTeam n x).keysMade = s.keysMade := rfl
@[simp] theorem setTeam_hostMem (s : State) (n : Nat) (x : Team) : (s.setTeam n x).hostMem = s.hostMem := rfl
@[simp] theorem setTeam_ptab (s : State) (n : Nat) (x : Team) : (s.setTeam n x).ptab = s.ptab := rfl
@[simp] theorem setTeam_window (s : State) (n : Nat) (x : Team) : (s.setTeam n x).window = s.window := rfl
@[simp] theorem setTeam_exports (s : State) (n : Nat) (x : Team) : (s.setTeam n x).exports = s.exports := rfl
@[simp] theorem setTeam_routes (s : State) (n : Nat) (x : Team) : (s.setTeam n x).routes = s.routes := rfl
@[simp] theorem setTeam_extents (s : State) (n : Nat) (x : Team) : (s.setTeam n x).extents = s.extents := rfl
@[simp] theorem setTeam_owned (s : State) (n : Nat) (x : Team) : (s.setTeam n x).owned = s.owned := rfl
@[simp] theorem setTeam_packets (s : State) (n : Nat) (x : Team) : (s.setTeam n x).packets = s.packets := rfl
@[simp] theorem setTeam_mbstatSeq (s : State) (n : Nat) (x : Team) : (s.setTeam n x).mbstatSeq = s.mbstatSeq := rfl
@[simp] theorem setTeam_mbstatLast (s : State) (n : Nat) (x : Team) : (s.setTeam n x).mbstatLast = s.mbstatLast := rfl
@[simp] theorem setTeam_mbstatBusy (s : State) (n : Nat) (x : Team) : (s.setTeam n x).mbstatBusy = s.mbstatBusy := rfl
@[simp] theorem setTeam_mbstatReady (s : State) (n : Nat) (x : Team) : (s.setTeam n x).mbstatReady = s.mbstatReady := rfl
@[simp] theorem setTeam_mbMoved (s : State) (n : Nat) (x : Team) : (s.setTeam n x).mbMoved = s.mbMoved := rfl
@[simp] theorem setTeam_mbcmd (s : State) (n : Nat) (x : Team) : (s.setTeam n x).mbcmd = s.mbcmd := rfl
@[simp] theorem setTeam_mbTaken (s : State) (n : Nat) (x : Team) : (s.setTeam n x).mbTaken = s.mbTaken := rfl
@[simp] theorem setTeam_mbrsp (s : State) (n : Nat) (x : Team) : (s.setTeam n x).mbrsp = s.mbrsp := rfl
@[simp] theorem setTeam_eqHead (s : State) (n : Nat) (x : Team) : (s.setTeam n x).eqHead = s.eqHead := rfl
@[simp] theorem setTeam_eqTail (s : State) (n : Nat) (x : Team) : (s.setTeam n x).eqTail = s.eqTail := rfl
@[simp] theorem setTeam_eqLost (s : State) (n : Nat) (x : Team) : (s.setTeam n x).eqLost = s.eqLost := rfl
@[simp] theorem setTeam_eq (s : State) (n : Nat) (x : Team) : (s.setTeam n x).eq = s.eq := rfl
@[simp] theorem setTeam_msix (s : State) (n : Nat) (x : Team) : (s.setTeam n x).msix = s.msix := rfl
@[simp] theorem setTeam_dmaQ (s : State) (n : Nat) (x : Team) : (s.setTeam n x).dmaQ = s.dmaQ := rfl
@[simp] theorem setTeam_hostRead (s : State) (n : Nat) (x : Team) : (s.setTeam n x).hostRead = s.hostRead := rfl
@[simp] theorem setTeam_launchSeq (s : State) (n : Nat) (x : Team) : (s.setTeam n x).launchSeq = s.launchSeq := rfl
@[simp] theorem setTeam_rrQueue (s : State) (n : Nat) (x : Team) : (s.setTeam n x).rrQueue = s.rrQueue := rfl
@[simp] theorem setTeam_rrCtx (s : State) (n : Nat) (x : Team) : (s.setTeam n x).rrCtx = s.rrCtx := rfl
@[simp] theorem setTeam_ctxs (s : State) (n : Nat) (x : Team) : (s.setTeam n x).ctxs = s.ctxs := rfl
@[simp] theorem setTeam_grids (s : State) (n : Nat) (x : Team) : (s.setTeam n x).grids = s.grids := rfl
@[simp] theorem setTeam_roles (s : State) (n : Nat) (x : Team) : (s.setTeam n x).roles = s.roles := rfl
@[simp] theorem setTeam_groups (s : State) (n : Nat) (x : Team) : (s.setTeam n x).groups = s.groups := rfl
@[simp] theorem setTeam_allocs (s : State) (n : Nat) (x : Team) : (s.setTeam n x).allocs = s.allocs := rfl
@[simp] theorem setTeam_cores (s : State) (n : Nat) (x : Team) : (s.setTeam n x).cores = s.cores := rfl
@[simp] theorem setTeam_clusters (s : State) (n : Nat) (x : Team) : (s.setTeam n x).clusters = s.clusters := rfl
@[simp] theorem setTeam_pairs (s : State) (n : Nat) (x : Team) : (s.setTeam n x).pairs = s.pairs := rfl
@[simp] theorem setTeam_stks (s : State) (n : Nat) (x : Team) : (s.setTeam n x).stks = s.stks := rfl
@[simp] theorem setTeam_links (s : State) (n : Nat) (x : Team) : (s.setTeam n x).links = s.links := rfl
@[simp] theorem setTeam_joins (s : State) (n : Nat) (x : Team) : (s.setTeam n x).joins = s.joins := rfl
@[simp] theorem modTeam_eq (s : State) (n : Nat) (f : Team → Team) : s.modTeam n f = s.setTeam n (f (s.team n)) := rfl

/-! ### `setRole` -/

@[simp] theorem setRole_role (s : State) (n : Nat) (x : Role) (m : Nat) :
    (s.setRole n x).role m = if m = n then x else s.role m := by
  simp [State.role, State.setRole]
@[simp] theorem setRole_ctx (s : State) (n : Nat) (x : Role) (m : Nat) : (s.setRole n x).ctx m = s.ctx m := rfl
@[simp] theorem setRole_grid (s : State) (n : Nat) (x : Role) (m : Nat) : (s.setRole n x).grid m = s.grid m := rfl
@[simp] theorem setRole_team (s : State) (n : Nat) (x : Role) (m : Nat) : (s.setRole n x).team m = s.team m := rfl
@[simp] theorem setRole_group (s : State) (n : Nat) (x : Role) (m : Nat) : (s.setRole n x).group m = s.group m := rfl
@[simp] theorem setRole_alloc (s : State) (n : Nat) (x : Role) (m : Nat) : (s.setRole n x).alloc m = s.alloc m := rfl
@[simp] theorem setRole_core (s : State) (n : Nat) (x : Role) (m : Nat) : (s.setRole n x).core m = s.core m := rfl
@[simp] theorem setRole_cluster (s : State) (n : Nat) (x : Role) (m : Nat) : (s.setRole n x).cluster m = s.cluster m := rfl
@[simp] theorem setRole_pair (s : State) (n : Nat) (x : Role) (m : Nat) : (s.setRole n x).pair m = s.pair m := rfl
@[simp] theorem setRole_stack (s : State) (n : Nat) (x : Role) (m : Nat) : (s.setRole n x).stack m = s.stack m := rfl
@[simp] theorem setRole_link (s : State) (n : Nat) (x : Role) (m : Nat) : (s.setRole n x).link m = s.link m := rfl
@[simp] theorem setRole_agenda (s : State) (n : Nat) (x : Role) : (s.setRole n x).agenda = s.agenda := rfl
@[simp] theorem setRole_draws (s : State) (n : Nat) (x : Role) : (s.setRole n x).draws = s.draws := rfl
@[simp] theorem setRole_cur (s : State) (n : Nat) (x : Role) : (s.setRole n x).cur = s.cur := rfl
@[simp] theorem setRole_nextUid (s : State) (n : Nat) (x : Role) : (s.setRole n x).nextUid = s.nextUid := rfl
@[simp] theorem setRole_clock (s : State) (n : Nat) (x : Role) : (s.setRole n x).clock = s.clock := rfl
@[simp] theorem setRole_powered (s : State) (n : Nat) (x : Role) : (s.setRole n x).powered = s.powered := rfl
@[simp] theorem setRole_clockMHz (s : State) (n : Nat) (x : Role) : (s.setRole n x).clockMHz = s.clockMHz := rfl
@[simp] theorem setRole_powerCap (s : State) (n : Nat) (x : Role) : (s.setRole n x).powerCap = s.powerCap := rfl
@[simp] theorem setRole_coolantLow (s : State) (n : Nat) (x : Role) : (s.setRole n x).coolantLow = s.coolantLow := rfl
@[simp] theorem setRole_devnum (s : State) (n : Nat) (x : Role) : (s.setRole n x).devnum = s.devnum := rfl
@[simp] theorem setRole_mem (s : State) (n : Nat) (x : Role) : (s.setRole n x).mem = s.mem := rfl
@[simp] theorem setRole_homePoison (s : State) (n : Nat) (x : Role) : (s.setRole n x).homePoison = s.homePoison := rfl
@[simp] theorem setRole_presence (s : State) (n : Nat) (x : Role) : (s.setRole n x).presence = s.presence := rfl
@[simp] theorem setRole_msc (s : State) (n : Nat) (x : Role) : (s.setRole n x).msc = s.msc := rfl
@[simp] theorem setRole_dram (s : State) (n : Nat) (x : Role) : (s.setRole n x).dram = s.dram := rfl
@[simp] theorem setRole_keys (s : State) (n : Nat) (x : Role) : (s.setRole n x).keys = s.keys := rfl
@[simp] theorem setRole_keysMade (s : State) (n : Nat) (x : Role) : (s.setRole n x).keysMade = s.keysMade := rfl
@[simp] theorem setRole_hostMem (s : State) (n : Nat) (x : Role) : (s.setRole n x).hostMem = s.hostMem := rfl
@[simp] theorem setRole_ptab (s : State) (n : Nat) (x : Role) : (s.setRole n x).ptab = s.ptab := rfl
@[simp] theorem setRole_window (s : State) (n : Nat) (x : Role) : (s.setRole n x).window = s.window := rfl
@[simp] theorem setRole_exports (s : State) (n : Nat) (x : Role) : (s.setRole n x).exports = s.exports := rfl
@[simp] theorem setRole_routes (s : State) (n : Nat) (x : Role) : (s.setRole n x).routes = s.routes := rfl
@[simp] theorem setRole_extents (s : State) (n : Nat) (x : Role) : (s.setRole n x).extents = s.extents := rfl
@[simp] theorem setRole_owned (s : State) (n : Nat) (x : Role) : (s.setRole n x).owned = s.owned := rfl
@[simp] theorem setRole_packets (s : State) (n : Nat) (x : Role) : (s.setRole n x).packets = s.packets := rfl
@[simp] theorem setRole_mbstatSeq (s : State) (n : Nat) (x : Role) : (s.setRole n x).mbstatSeq = s.mbstatSeq := rfl
@[simp] theorem setRole_mbstatLast (s : State) (n : Nat) (x : Role) : (s.setRole n x).mbstatLast = s.mbstatLast := rfl
@[simp] theorem setRole_mbstatBusy (s : State) (n : Nat) (x : Role) : (s.setRole n x).mbstatBusy = s.mbstatBusy := rfl
@[simp] theorem setRole_mbstatReady (s : State) (n : Nat) (x : Role) : (s.setRole n x).mbstatReady = s.mbstatReady := rfl
@[simp] theorem setRole_mbMoved (s : State) (n : Nat) (x : Role) : (s.setRole n x).mbMoved = s.mbMoved := rfl
@[simp] theorem setRole_mbcmd (s : State) (n : Nat) (x : Role) : (s.setRole n x).mbcmd = s.mbcmd := rfl
@[simp] theorem setRole_mbTaken (s : State) (n : Nat) (x : Role) : (s.setRole n x).mbTaken = s.mbTaken := rfl
@[simp] theorem setRole_mbrsp (s : State) (n : Nat) (x : Role) : (s.setRole n x).mbrsp = s.mbrsp := rfl
@[simp] theorem setRole_eqHead (s : State) (n : Nat) (x : Role) : (s.setRole n x).eqHead = s.eqHead := rfl
@[simp] theorem setRole_eqTail (s : State) (n : Nat) (x : Role) : (s.setRole n x).eqTail = s.eqTail := rfl
@[simp] theorem setRole_eqLost (s : State) (n : Nat) (x : Role) : (s.setRole n x).eqLost = s.eqLost := rfl
@[simp] theorem setRole_eq (s : State) (n : Nat) (x : Role) : (s.setRole n x).eq = s.eq := rfl
@[simp] theorem setRole_msix (s : State) (n : Nat) (x : Role) : (s.setRole n x).msix = s.msix := rfl
@[simp] theorem setRole_dmaQ (s : State) (n : Nat) (x : Role) : (s.setRole n x).dmaQ = s.dmaQ := rfl
@[simp] theorem setRole_hostRead (s : State) (n : Nat) (x : Role) : (s.setRole n x).hostRead = s.hostRead := rfl
@[simp] theorem setRole_launchSeq (s : State) (n : Nat) (x : Role) : (s.setRole n x).launchSeq = s.launchSeq := rfl
@[simp] theorem setRole_rrQueue (s : State) (n : Nat) (x : Role) : (s.setRole n x).rrQueue = s.rrQueue := rfl
@[simp] theorem setRole_rrCtx (s : State) (n : Nat) (x : Role) : (s.setRole n x).rrCtx = s.rrCtx := rfl
@[simp] theorem setRole_ctxs (s : State) (n : Nat) (x : Role) : (s.setRole n x).ctxs = s.ctxs := rfl
@[simp] theorem setRole_grids (s : State) (n : Nat) (x : Role) : (s.setRole n x).grids = s.grids := rfl
@[simp] theorem setRole_teams (s : State) (n : Nat) (x : Role) : (s.setRole n x).teams = s.teams := rfl
@[simp] theorem setRole_groups (s : State) (n : Nat) (x : Role) : (s.setRole n x).groups = s.groups := rfl
@[simp] theorem setRole_allocs (s : State) (n : Nat) (x : Role) : (s.setRole n x).allocs = s.allocs := rfl
@[simp] theorem setRole_cores (s : State) (n : Nat) (x : Role) : (s.setRole n x).cores = s.cores := rfl
@[simp] theorem setRole_clusters (s : State) (n : Nat) (x : Role) : (s.setRole n x).clusters = s.clusters := rfl
@[simp] theorem setRole_pairs (s : State) (n : Nat) (x : Role) : (s.setRole n x).pairs = s.pairs := rfl
@[simp] theorem setRole_stks (s : State) (n : Nat) (x : Role) : (s.setRole n x).stks = s.stks := rfl
@[simp] theorem setRole_links (s : State) (n : Nat) (x : Role) : (s.setRole n x).links = s.links := rfl
@[simp] theorem setRole_joins (s : State) (n : Nat) (x : Role) : (s.setRole n x).joins = s.joins := rfl
@[simp] theorem modRole_eq (s : State) (n : Nat) (f : Role → Role) : s.modRole n f = s.setRole n (f (s.role n)) := rfl

/-! ### `setGroup` -/

@[simp] theorem setGroup_group (s : State) (n : Nat) (x : Group) (m : Nat) :
    (s.setGroup n x).group m = if m = n then x else s.group m := by
  simp [State.group, State.setGroup]
@[simp] theorem setGroup_ctx (s : State) (n : Nat) (x : Group) (m : Nat) : (s.setGroup n x).ctx m = s.ctx m := rfl
@[simp] theorem setGroup_grid (s : State) (n : Nat) (x : Group) (m : Nat) : (s.setGroup n x).grid m = s.grid m := rfl
@[simp] theorem setGroup_team (s : State) (n : Nat) (x : Group) (m : Nat) : (s.setGroup n x).team m = s.team m := rfl
@[simp] theorem setGroup_role (s : State) (n : Nat) (x : Group) (m : Nat) : (s.setGroup n x).role m = s.role m := rfl
@[simp] theorem setGroup_alloc (s : State) (n : Nat) (x : Group) (m : Nat) : (s.setGroup n x).alloc m = s.alloc m := rfl
@[simp] theorem setGroup_core (s : State) (n : Nat) (x : Group) (m : Nat) : (s.setGroup n x).core m = s.core m := rfl
@[simp] theorem setGroup_cluster (s : State) (n : Nat) (x : Group) (m : Nat) : (s.setGroup n x).cluster m = s.cluster m := rfl
@[simp] theorem setGroup_pair (s : State) (n : Nat) (x : Group) (m : Nat) : (s.setGroup n x).pair m = s.pair m := rfl
@[simp] theorem setGroup_stack (s : State) (n : Nat) (x : Group) (m : Nat) : (s.setGroup n x).stack m = s.stack m := rfl
@[simp] theorem setGroup_link (s : State) (n : Nat) (x : Group) (m : Nat) : (s.setGroup n x).link m = s.link m := rfl
@[simp] theorem setGroup_agenda (s : State) (n : Nat) (x : Group) : (s.setGroup n x).agenda = s.agenda := rfl
@[simp] theorem setGroup_draws (s : State) (n : Nat) (x : Group) : (s.setGroup n x).draws = s.draws := rfl
@[simp] theorem setGroup_cur (s : State) (n : Nat) (x : Group) : (s.setGroup n x).cur = s.cur := rfl
@[simp] theorem setGroup_nextUid (s : State) (n : Nat) (x : Group) : (s.setGroup n x).nextUid = s.nextUid := rfl
@[simp] theorem setGroup_clock (s : State) (n : Nat) (x : Group) : (s.setGroup n x).clock = s.clock := rfl
@[simp] theorem setGroup_powered (s : State) (n : Nat) (x : Group) : (s.setGroup n x).powered = s.powered := rfl
@[simp] theorem setGroup_clockMHz (s : State) (n : Nat) (x : Group) : (s.setGroup n x).clockMHz = s.clockMHz := rfl
@[simp] theorem setGroup_powerCap (s : State) (n : Nat) (x : Group) : (s.setGroup n x).powerCap = s.powerCap := rfl
@[simp] theorem setGroup_coolantLow (s : State) (n : Nat) (x : Group) : (s.setGroup n x).coolantLow = s.coolantLow := rfl
@[simp] theorem setGroup_devnum (s : State) (n : Nat) (x : Group) : (s.setGroup n x).devnum = s.devnum := rfl
@[simp] theorem setGroup_mem (s : State) (n : Nat) (x : Group) : (s.setGroup n x).mem = s.mem := rfl
@[simp] theorem setGroup_homePoison (s : State) (n : Nat) (x : Group) : (s.setGroup n x).homePoison = s.homePoison := rfl
@[simp] theorem setGroup_presence (s : State) (n : Nat) (x : Group) : (s.setGroup n x).presence = s.presence := rfl
@[simp] theorem setGroup_msc (s : State) (n : Nat) (x : Group) : (s.setGroup n x).msc = s.msc := rfl
@[simp] theorem setGroup_dram (s : State) (n : Nat) (x : Group) : (s.setGroup n x).dram = s.dram := rfl
@[simp] theorem setGroup_keys (s : State) (n : Nat) (x : Group) : (s.setGroup n x).keys = s.keys := rfl
@[simp] theorem setGroup_keysMade (s : State) (n : Nat) (x : Group) : (s.setGroup n x).keysMade = s.keysMade := rfl
@[simp] theorem setGroup_hostMem (s : State) (n : Nat) (x : Group) : (s.setGroup n x).hostMem = s.hostMem := rfl
@[simp] theorem setGroup_ptab (s : State) (n : Nat) (x : Group) : (s.setGroup n x).ptab = s.ptab := rfl
@[simp] theorem setGroup_window (s : State) (n : Nat) (x : Group) : (s.setGroup n x).window = s.window := rfl
@[simp] theorem setGroup_exports (s : State) (n : Nat) (x : Group) : (s.setGroup n x).exports = s.exports := rfl
@[simp] theorem setGroup_routes (s : State) (n : Nat) (x : Group) : (s.setGroup n x).routes = s.routes := rfl
@[simp] theorem setGroup_extents (s : State) (n : Nat) (x : Group) : (s.setGroup n x).extents = s.extents := rfl
@[simp] theorem setGroup_owned (s : State) (n : Nat) (x : Group) : (s.setGroup n x).owned = s.owned := rfl
@[simp] theorem setGroup_packets (s : State) (n : Nat) (x : Group) : (s.setGroup n x).packets = s.packets := rfl
@[simp] theorem setGroup_mbstatSeq (s : State) (n : Nat) (x : Group) : (s.setGroup n x).mbstatSeq = s.mbstatSeq := rfl
@[simp] theorem setGroup_mbstatLast (s : State) (n : Nat) (x : Group) : (s.setGroup n x).mbstatLast = s.mbstatLast := rfl
@[simp] theorem setGroup_mbstatBusy (s : State) (n : Nat) (x : Group) : (s.setGroup n x).mbstatBusy = s.mbstatBusy := rfl
@[simp] theorem setGroup_mbstatReady (s : State) (n : Nat) (x : Group) : (s.setGroup n x).mbstatReady = s.mbstatReady := rfl
@[simp] theorem setGroup_mbMoved (s : State) (n : Nat) (x : Group) : (s.setGroup n x).mbMoved = s.mbMoved := rfl
@[simp] theorem setGroup_mbcmd (s : State) (n : Nat) (x : Group) : (s.setGroup n x).mbcmd = s.mbcmd := rfl
@[simp] theorem setGroup_mbTaken (s : State) (n : Nat) (x : Group) : (s.setGroup n x).mbTaken = s.mbTaken := rfl
@[simp] theorem setGroup_mbrsp (s : State) (n : Nat) (x : Group) : (s.setGroup n x).mbrsp = s.mbrsp := rfl
@[simp] theorem setGroup_eqHead (s : State) (n : Nat) (x : Group) : (s.setGroup n x).eqHead = s.eqHead := rfl
@[simp] theorem setGroup_eqTail (s : State) (n : Nat) (x : Group) : (s.setGroup n x).eqTail = s.eqTail := rfl
@[simp] theorem setGroup_eqLost (s : State) (n : Nat) (x : Group) : (s.setGroup n x).eqLost = s.eqLost := rfl
@[simp] theorem setGroup_eq (s : State) (n : Nat) (x : Group) : (s.setGroup n x).eq = s.eq := rfl
@[simp] theorem setGroup_msix (s : State) (n : Nat) (x : Group) : (s.setGroup n x).msix = s.msix := rfl
@[simp] theorem setGroup_dmaQ (s : State) (n : Nat) (x : Group) : (s.setGroup n x).dmaQ = s.dmaQ := rfl
@[simp] theorem setGroup_hostRead (s : State) (n : Nat) (x : Group) : (s.setGroup n x).hostRead = s.hostRead := rfl
@[simp] theorem setGroup_launchSeq (s : State) (n : Nat) (x : Group) : (s.setGroup n x).launchSeq = s.launchSeq := rfl
@[simp] theorem setGroup_rrQueue (s : State) (n : Nat) (x : Group) : (s.setGroup n x).rrQueue = s.rrQueue := rfl
@[simp] theorem setGroup_rrCtx (s : State) (n : Nat) (x : Group) : (s.setGroup n x).rrCtx = s.rrCtx := rfl
@[simp] theorem setGroup_ctxs (s : State) (n : Nat) (x : Group) : (s.setGroup n x).ctxs = s.ctxs := rfl
@[simp] theorem setGroup_grids (s : State) (n : Nat) (x : Group) : (s.setGroup n x).grids = s.grids := rfl
@[simp] theorem setGroup_teams (s : State) (n : Nat) (x : Group) : (s.setGroup n x).teams = s.teams := rfl
@[simp] theorem setGroup_roles (s : State) (n : Nat) (x : Group) : (s.setGroup n x).roles = s.roles := rfl
@[simp] theorem setGroup_allocs (s : State) (n : Nat) (x : Group) : (s.setGroup n x).allocs = s.allocs := rfl
@[simp] theorem setGroup_cores (s : State) (n : Nat) (x : Group) : (s.setGroup n x).cores = s.cores := rfl
@[simp] theorem setGroup_clusters (s : State) (n : Nat) (x : Group) : (s.setGroup n x).clusters = s.clusters := rfl
@[simp] theorem setGroup_pairs (s : State) (n : Nat) (x : Group) : (s.setGroup n x).pairs = s.pairs := rfl
@[simp] theorem setGroup_stks (s : State) (n : Nat) (x : Group) : (s.setGroup n x).stks = s.stks := rfl
@[simp] theorem setGroup_links (s : State) (n : Nat) (x : Group) : (s.setGroup n x).links = s.links := rfl
@[simp] theorem setGroup_joins (s : State) (n : Nat) (x : Group) : (s.setGroup n x).joins = s.joins := rfl
@[simp] theorem modGroup_eq (s : State) (n : Nat) (f : Group → Group) : s.modGroup n f = s.setGroup n (f (s.group n)) := rfl

/-! ### `setAlloc` -/

@[simp] theorem setAlloc_alloc (s : State) (n : Nat) (x : Alloc) (m : Nat) :
    (s.setAlloc n x).alloc m = if m = n then x else s.alloc m := by
  simp [State.alloc, State.setAlloc]
@[simp] theorem setAlloc_ctx (s : State) (n : Nat) (x : Alloc) (m : Nat) : (s.setAlloc n x).ctx m = s.ctx m := rfl
@[simp] theorem setAlloc_grid (s : State) (n : Nat) (x : Alloc) (m : Nat) : (s.setAlloc n x).grid m = s.grid m := rfl
@[simp] theorem setAlloc_team (s : State) (n : Nat) (x : Alloc) (m : Nat) : (s.setAlloc n x).team m = s.team m := rfl
@[simp] theorem setAlloc_role (s : State) (n : Nat) (x : Alloc) (m : Nat) : (s.setAlloc n x).role m = s.role m := rfl
@[simp] theorem setAlloc_group (s : State) (n : Nat) (x : Alloc) (m : Nat) : (s.setAlloc n x).group m = s.group m := rfl
@[simp] theorem setAlloc_core (s : State) (n : Nat) (x : Alloc) (m : Nat) : (s.setAlloc n x).core m = s.core m := rfl
@[simp] theorem setAlloc_cluster (s : State) (n : Nat) (x : Alloc) (m : Nat) : (s.setAlloc n x).cluster m = s.cluster m := rfl
@[simp] theorem setAlloc_pair (s : State) (n : Nat) (x : Alloc) (m : Nat) : (s.setAlloc n x).pair m = s.pair m := rfl
@[simp] theorem setAlloc_stack (s : State) (n : Nat) (x : Alloc) (m : Nat) : (s.setAlloc n x).stack m = s.stack m := rfl
@[simp] theorem setAlloc_link (s : State) (n : Nat) (x : Alloc) (m : Nat) : (s.setAlloc n x).link m = s.link m := rfl
@[simp] theorem setAlloc_agenda (s : State) (n : Nat) (x : Alloc) : (s.setAlloc n x).agenda = s.agenda := rfl
@[simp] theorem setAlloc_draws (s : State) (n : Nat) (x : Alloc) : (s.setAlloc n x).draws = s.draws := rfl
@[simp] theorem setAlloc_cur (s : State) (n : Nat) (x : Alloc) : (s.setAlloc n x).cur = s.cur := rfl
@[simp] theorem setAlloc_nextUid (s : State) (n : Nat) (x : Alloc) : (s.setAlloc n x).nextUid = s.nextUid := rfl
@[simp] theorem setAlloc_clock (s : State) (n : Nat) (x : Alloc) : (s.setAlloc n x).clock = s.clock := rfl
@[simp] theorem setAlloc_powered (s : State) (n : Nat) (x : Alloc) : (s.setAlloc n x).powered = s.powered := rfl
@[simp] theorem setAlloc_clockMHz (s : State) (n : Nat) (x : Alloc) : (s.setAlloc n x).clockMHz = s.clockMHz := rfl
@[simp] theorem setAlloc_powerCap (s : State) (n : Nat) (x : Alloc) : (s.setAlloc n x).powerCap = s.powerCap := rfl
@[simp] theorem setAlloc_coolantLow (s : State) (n : Nat) (x : Alloc) : (s.setAlloc n x).coolantLow = s.coolantLow := rfl
@[simp] theorem setAlloc_devnum (s : State) (n : Nat) (x : Alloc) : (s.setAlloc n x).devnum = s.devnum := rfl
@[simp] theorem setAlloc_mem (s : State) (n : Nat) (x : Alloc) : (s.setAlloc n x).mem = s.mem := rfl
@[simp] theorem setAlloc_homePoison (s : State) (n : Nat) (x : Alloc) : (s.setAlloc n x).homePoison = s.homePoison := rfl
@[simp] theorem setAlloc_presence (s : State) (n : Nat) (x : Alloc) : (s.setAlloc n x).presence = s.presence := rfl
@[simp] theorem setAlloc_msc (s : State) (n : Nat) (x : Alloc) : (s.setAlloc n x).msc = s.msc := rfl
@[simp] theorem setAlloc_dram (s : State) (n : Nat) (x : Alloc) : (s.setAlloc n x).dram = s.dram := rfl
@[simp] theorem setAlloc_keys (s : State) (n : Nat) (x : Alloc) : (s.setAlloc n x).keys = s.keys := rfl
@[simp] theorem setAlloc_keysMade (s : State) (n : Nat) (x : Alloc) : (s.setAlloc n x).keysMade = s.keysMade := rfl
@[simp] theorem setAlloc_hostMem (s : State) (n : Nat) (x : Alloc) : (s.setAlloc n x).hostMem = s.hostMem := rfl
@[simp] theorem setAlloc_ptab (s : State) (n : Nat) (x : Alloc) : (s.setAlloc n x).ptab = s.ptab := rfl
@[simp] theorem setAlloc_window (s : State) (n : Nat) (x : Alloc) : (s.setAlloc n x).window = s.window := rfl
@[simp] theorem setAlloc_exports (s : State) (n : Nat) (x : Alloc) : (s.setAlloc n x).exports = s.exports := rfl
@[simp] theorem setAlloc_routes (s : State) (n : Nat) (x : Alloc) : (s.setAlloc n x).routes = s.routes := rfl
@[simp] theorem setAlloc_extents (s : State) (n : Nat) (x : Alloc) : (s.setAlloc n x).extents = s.extents := rfl
@[simp] theorem setAlloc_owned (s : State) (n : Nat) (x : Alloc) : (s.setAlloc n x).owned = s.owned := rfl
@[simp] theorem setAlloc_packets (s : State) (n : Nat) (x : Alloc) : (s.setAlloc n x).packets = s.packets := rfl
@[simp] theorem setAlloc_mbstatSeq (s : State) (n : Nat) (x : Alloc) : (s.setAlloc n x).mbstatSeq = s.mbstatSeq := rfl
@[simp] theorem setAlloc_mbstatLast (s : State) (n : Nat) (x : Alloc) : (s.setAlloc n x).mbstatLast = s.mbstatLast := rfl
@[simp] theorem setAlloc_mbstatBusy (s : State) (n : Nat) (x : Alloc) : (s.setAlloc n x).mbstatBusy = s.mbstatBusy := rfl
@[simp] theorem setAlloc_mbstatReady (s : State) (n : Nat) (x : Alloc) : (s.setAlloc n x).mbstatReady = s.mbstatReady := rfl
@[simp] theorem setAlloc_mbMoved (s : State) (n : Nat) (x : Alloc) : (s.setAlloc n x).mbMoved = s.mbMoved := rfl
@[simp] theorem setAlloc_mbcmd (s : State) (n : Nat) (x : Alloc) : (s.setAlloc n x).mbcmd = s.mbcmd := rfl
@[simp] theorem setAlloc_mbTaken (s : State) (n : Nat) (x : Alloc) : (s.setAlloc n x).mbTaken = s.mbTaken := rfl
@[simp] theorem setAlloc_mbrsp (s : State) (n : Nat) (x : Alloc) : (s.setAlloc n x).mbrsp = s.mbrsp := rfl
@[simp] theorem setAlloc_eqHead (s : State) (n : Nat) (x : Alloc) : (s.setAlloc n x).eqHead = s.eqHead := rfl
@[simp] theorem setAlloc_eqTail (s : State) (n : Nat) (x : Alloc) : (s.setAlloc n x).eqTail = s.eqTail := rfl
@[simp] theorem setAlloc_eqLost (s : State) (n : Nat) (x : Alloc) : (s.setAlloc n x).eqLost = s.eqLost := rfl
@[simp] theorem setAlloc_eq (s : State) (n : Nat) (x : Alloc) : (s.setAlloc n x).eq = s.eq := rfl
@[simp] theorem setAlloc_msix (s : State) (n : Nat) (x : Alloc) : (s.setAlloc n x).msix = s.msix := rfl
@[simp] theorem setAlloc_dmaQ (s : State) (n : Nat) (x : Alloc) : (s.setAlloc n x).dmaQ = s.dmaQ := rfl
@[simp] theorem setAlloc_hostRead (s : State) (n : Nat) (x : Alloc) : (s.setAlloc n x).hostRead = s.hostRead := rfl
@[simp] theorem setAlloc_launchSeq (s : State) (n : Nat) (x : Alloc) : (s.setAlloc n x).launchSeq = s.launchSeq := rfl
@[simp] theorem setAlloc_rrQueue (s : State) (n : Nat) (x : Alloc) : (s.setAlloc n x).rrQueue = s.rrQueue := rfl
@[simp] theorem setAlloc_rrCtx (s : State) (n : Nat) (x : Alloc) : (s.setAlloc n x).rrCtx = s.rrCtx := rfl
@[simp] theorem setAlloc_ctxs (s : State) (n : Nat) (x : Alloc) : (s.setAlloc n x).ctxs = s.ctxs := rfl
@[simp] theorem setAlloc_grids (s : State) (n : Nat) (x : Alloc) : (s.setAlloc n x).grids = s.grids := rfl
@[simp] theorem setAlloc_teams (s : State) (n : Nat) (x : Alloc) : (s.setAlloc n x).teams = s.teams := rfl
@[simp] theorem setAlloc_roles (s : State) (n : Nat) (x : Alloc) : (s.setAlloc n x).roles = s.roles := rfl
@[simp] theorem setAlloc_groups (s : State) (n : Nat) (x : Alloc) : (s.setAlloc n x).groups = s.groups := rfl
@[simp] theorem setAlloc_cores (s : State) (n : Nat) (x : Alloc) : (s.setAlloc n x).cores = s.cores := rfl
@[simp] theorem setAlloc_clusters (s : State) (n : Nat) (x : Alloc) : (s.setAlloc n x).clusters = s.clusters := rfl
@[simp] theorem setAlloc_pairs (s : State) (n : Nat) (x : Alloc) : (s.setAlloc n x).pairs = s.pairs := rfl
@[simp] theorem setAlloc_stks (s : State) (n : Nat) (x : Alloc) : (s.setAlloc n x).stks = s.stks := rfl
@[simp] theorem setAlloc_links (s : State) (n : Nat) (x : Alloc) : (s.setAlloc n x).links = s.links := rfl
@[simp] theorem setAlloc_joins (s : State) (n : Nat) (x : Alloc) : (s.setAlloc n x).joins = s.joins := rfl
@[simp] theorem modAlloc_eq (s : State) (n : Nat) (f : Alloc → Alloc) : s.modAlloc n f = s.setAlloc n (f (s.alloc n)) := rfl

/-! ### `setCore` -/

@[simp] theorem setCore_core (s : State) (n : Nat) (x : Core) (m : Nat) :
    (s.setCore n x).core m = if m = n then x else s.core m := by
  simp [State.core, State.setCore]
@[simp] theorem setCore_ctx (s : State) (n : Nat) (x : Core) (m : Nat) : (s.setCore n x).ctx m = s.ctx m := rfl
@[simp] theorem setCore_grid (s : State) (n : Nat) (x : Core) (m : Nat) : (s.setCore n x).grid m = s.grid m := rfl
@[simp] theorem setCore_team (s : State) (n : Nat) (x : Core) (m : Nat) : (s.setCore n x).team m = s.team m := rfl
@[simp] theorem setCore_role (s : State) (n : Nat) (x : Core) (m : Nat) : (s.setCore n x).role m = s.role m := rfl
@[simp] theorem setCore_group (s : State) (n : Nat) (x : Core) (m : Nat) : (s.setCore n x).group m = s.group m := rfl
@[simp] theorem setCore_alloc (s : State) (n : Nat) (x : Core) (m : Nat) : (s.setCore n x).alloc m = s.alloc m := rfl
@[simp] theorem setCore_cluster (s : State) (n : Nat) (x : Core) (m : Nat) : (s.setCore n x).cluster m = s.cluster m := rfl
@[simp] theorem setCore_pair (s : State) (n : Nat) (x : Core) (m : Nat) : (s.setCore n x).pair m = s.pair m := rfl
@[simp] theorem setCore_stack (s : State) (n : Nat) (x : Core) (m : Nat) : (s.setCore n x).stack m = s.stack m := rfl
@[simp] theorem setCore_link (s : State) (n : Nat) (x : Core) (m : Nat) : (s.setCore n x).link m = s.link m := rfl
@[simp] theorem setCore_agenda (s : State) (n : Nat) (x : Core) : (s.setCore n x).agenda = s.agenda := rfl
@[simp] theorem setCore_draws (s : State) (n : Nat) (x : Core) : (s.setCore n x).draws = s.draws := rfl
@[simp] theorem setCore_cur (s : State) (n : Nat) (x : Core) : (s.setCore n x).cur = s.cur := rfl
@[simp] theorem setCore_nextUid (s : State) (n : Nat) (x : Core) : (s.setCore n x).nextUid = s.nextUid := rfl
@[simp] theorem setCore_clock (s : State) (n : Nat) (x : Core) : (s.setCore n x).clock = s.clock := rfl
@[simp] theorem setCore_powered (s : State) (n : Nat) (x : Core) : (s.setCore n x).powered = s.powered := rfl
@[simp] theorem setCore_clockMHz (s : State) (n : Nat) (x : Core) : (s.setCore n x).clockMHz = s.clockMHz := rfl
@[simp] theorem setCore_powerCap (s : State) (n : Nat) (x : Core) : (s.setCore n x).powerCap = s.powerCap := rfl
@[simp] theorem setCore_coolantLow (s : State) (n : Nat) (x : Core) : (s.setCore n x).coolantLow = s.coolantLow := rfl
@[simp] theorem setCore_devnum (s : State) (n : Nat) (x : Core) : (s.setCore n x).devnum = s.devnum := rfl
@[simp] theorem setCore_mem (s : State) (n : Nat) (x : Core) : (s.setCore n x).mem = s.mem := rfl
@[simp] theorem setCore_homePoison (s : State) (n : Nat) (x : Core) : (s.setCore n x).homePoison = s.homePoison := rfl
@[simp] theorem setCore_presence (s : State) (n : Nat) (x : Core) : (s.setCore n x).presence = s.presence := rfl
@[simp] theorem setCore_msc (s : State) (n : Nat) (x : Core) : (s.setCore n x).msc = s.msc := rfl
@[simp] theorem setCore_dram (s : State) (n : Nat) (x : Core) : (s.setCore n x).dram = s.dram := rfl
@[simp] theorem setCore_keys (s : State) (n : Nat) (x : Core) : (s.setCore n x).keys = s.keys := rfl
@[simp] theorem setCore_keysMade (s : State) (n : Nat) (x : Core) : (s.setCore n x).keysMade = s.keysMade := rfl
@[simp] theorem setCore_hostMem (s : State) (n : Nat) (x : Core) : (s.setCore n x).hostMem = s.hostMem := rfl
@[simp] theorem setCore_ptab (s : State) (n : Nat) (x : Core) : (s.setCore n x).ptab = s.ptab := rfl
@[simp] theorem setCore_window (s : State) (n : Nat) (x : Core) : (s.setCore n x).window = s.window := rfl
@[simp] theorem setCore_exports (s : State) (n : Nat) (x : Core) : (s.setCore n x).exports = s.exports := rfl
@[simp] theorem setCore_routes (s : State) (n : Nat) (x : Core) : (s.setCore n x).routes = s.routes := rfl
@[simp] theorem setCore_extents (s : State) (n : Nat) (x : Core) : (s.setCore n x).extents = s.extents := rfl
@[simp] theorem setCore_owned (s : State) (n : Nat) (x : Core) : (s.setCore n x).owned = s.owned := rfl
@[simp] theorem setCore_packets (s : State) (n : Nat) (x : Core) : (s.setCore n x).packets = s.packets := rfl
@[simp] theorem setCore_mbstatSeq (s : State) (n : Nat) (x : Core) : (s.setCore n x).mbstatSeq = s.mbstatSeq := rfl
@[simp] theorem setCore_mbstatLast (s : State) (n : Nat) (x : Core) : (s.setCore n x).mbstatLast = s.mbstatLast := rfl
@[simp] theorem setCore_mbstatBusy (s : State) (n : Nat) (x : Core) : (s.setCore n x).mbstatBusy = s.mbstatBusy := rfl
@[simp] theorem setCore_mbstatReady (s : State) (n : Nat) (x : Core) : (s.setCore n x).mbstatReady = s.mbstatReady := rfl
@[simp] theorem setCore_mbMoved (s : State) (n : Nat) (x : Core) : (s.setCore n x).mbMoved = s.mbMoved := rfl
@[simp] theorem setCore_mbcmd (s : State) (n : Nat) (x : Core) : (s.setCore n x).mbcmd = s.mbcmd := rfl
@[simp] theorem setCore_mbTaken (s : State) (n : Nat) (x : Core) : (s.setCore n x).mbTaken = s.mbTaken := rfl
@[simp] theorem setCore_mbrsp (s : State) (n : Nat) (x : Core) : (s.setCore n x).mbrsp = s.mbrsp := rfl
@[simp] theorem setCore_eqHead (s : State) (n : Nat) (x : Core) : (s.setCore n x).eqHead = s.eqHead := rfl
@[simp] theorem setCore_eqTail (s : State) (n : Nat) (x : Core) : (s.setCore n x).eqTail = s.eqTail := rfl
@[simp] theorem setCore_eqLost (s : State) (n : Nat) (x : Core) : (s.setCore n x).eqLost = s.eqLost := rfl
@[simp] theorem setCore_eq (s : State) (n : Nat) (x : Core) : (s.setCore n x).eq = s.eq := rfl
@[simp] theorem setCore_msix (s : State) (n : Nat) (x : Core) : (s.setCore n x).msix = s.msix := rfl
@[simp] theorem setCore_dmaQ (s : State) (n : Nat) (x : Core) : (s.setCore n x).dmaQ = s.dmaQ := rfl
@[simp] theorem setCore_hostRead (s : State) (n : Nat) (x : Core) : (s.setCore n x).hostRead = s.hostRead := rfl
@[simp] theorem setCore_launchSeq (s : State) (n : Nat) (x : Core) : (s.setCore n x).launchSeq = s.launchSeq := rfl
@[simp] theorem setCore_rrQueue (s : State) (n : Nat) (x : Core) : (s.setCore n x).rrQueue = s.rrQueue := rfl
@[simp] theorem setCore_rrCtx (s : State) (n : Nat) (x : Core) : (s.setCore n x).rrCtx = s.rrCtx := rfl
@[simp] theorem setCore_ctxs (s : State) (n : Nat) (x : Core) : (s.setCore n x).ctxs = s.ctxs := rfl
@[simp] theorem setCore_grids (s : State) (n : Nat) (x : Core) : (s.setCore n x).grids = s.grids := rfl
@[simp] theorem setCore_teams (s : State) (n : Nat) (x : Core) : (s.setCore n x).teams = s.teams := rfl
@[simp] theorem setCore_roles (s : State) (n : Nat) (x : Core) : (s.setCore n x).roles = s.roles := rfl
@[simp] theorem setCore_groups (s : State) (n : Nat) (x : Core) : (s.setCore n x).groups = s.groups := rfl
@[simp] theorem setCore_allocs (s : State) (n : Nat) (x : Core) : (s.setCore n x).allocs = s.allocs := rfl
@[simp] theorem setCore_clusters (s : State) (n : Nat) (x : Core) : (s.setCore n x).clusters = s.clusters := rfl
@[simp] theorem setCore_pairs (s : State) (n : Nat) (x : Core) : (s.setCore n x).pairs = s.pairs := rfl
@[simp] theorem setCore_stks (s : State) (n : Nat) (x : Core) : (s.setCore n x).stks = s.stks := rfl
@[simp] theorem setCore_links (s : State) (n : Nat) (x : Core) : (s.setCore n x).links = s.links := rfl
@[simp] theorem setCore_joins (s : State) (n : Nat) (x : Core) : (s.setCore n x).joins = s.joins := rfl
@[simp] theorem modCore_eq (s : State) (n : Nat) (f : Core → Core) : s.modCore n f = s.setCore n (f (s.core n)) := rfl

/-! ### `setCluster` -/

@[simp] theorem setCluster_cluster (s : State) (n : Nat) (x : Cluster) (m : Nat) :
    (s.setCluster n x).cluster m = if m = n then x else s.cluster m := by
  simp [State.cluster, State.setCluster]
@[simp] theorem setCluster_ctx (s : State) (n : Nat) (x : Cluster) (m : Nat) : (s.setCluster n x).ctx m = s.ctx m := rfl
@[simp] theorem setCluster_grid (s : State) (n : Nat) (x : Cluster) (m : Nat) : (s.setCluster n x).grid m = s.grid m := rfl
@[simp] theorem setCluster_team (s : State) (n : Nat) (x : Cluster) (m : Nat) : (s.setCluster n x).team m = s.team m := rfl
@[simp] theorem setCluster_role (s : State) (n : Nat) (x : Cluster) (m : Nat) : (s.setCluster n x).role m = s.role m := rfl
@[simp] theorem setCluster_group (s : State) (n : Nat) (x : Cluster) (m : Nat) : (s.setCluster n x).group m = s.group m := rfl
@[simp] theorem setCluster_alloc (s : State) (n : Nat) (x : Cluster) (m : Nat) : (s.setCluster n x).alloc m = s.alloc m := rfl
@[simp] theorem setCluster_core (s : State) (n : Nat) (x : Cluster) (m : Nat) : (s.setCluster n x).core m = s.core m := rfl
@[simp] theorem setCluster_pair (s : State) (n : Nat) (x : Cluster) (m : Nat) : (s.setCluster n x).pair m = s.pair m := rfl
@[simp] theorem setCluster_stack (s : State) (n : Nat) (x : Cluster) (m : Nat) : (s.setCluster n x).stack m = s.stack m := rfl
@[simp] theorem setCluster_link (s : State) (n : Nat) (x : Cluster) (m : Nat) : (s.setCluster n x).link m = s.link m := rfl
@[simp] theorem setCluster_agenda (s : State) (n : Nat) (x : Cluster) : (s.setCluster n x).agenda = s.agenda := rfl
@[simp] theorem setCluster_draws (s : State) (n : Nat) (x : Cluster) : (s.setCluster n x).draws = s.draws := rfl
@[simp] theorem setCluster_cur (s : State) (n : Nat) (x : Cluster) : (s.setCluster n x).cur = s.cur := rfl
@[simp] theorem setCluster_nextUid (s : State) (n : Nat) (x : Cluster) : (s.setCluster n x).nextUid = s.nextUid := rfl
@[simp] theorem setCluster_clock (s : State) (n : Nat) (x : Cluster) : (s.setCluster n x).clock = s.clock := rfl
@[simp] theorem setCluster_powered (s : State) (n : Nat) (x : Cluster) : (s.setCluster n x).powered = s.powered := rfl
@[simp] theorem setCluster_clockMHz (s : State) (n : Nat) (x : Cluster) : (s.setCluster n x).clockMHz = s.clockMHz := rfl
@[simp] theorem setCluster_powerCap (s : State) (n : Nat) (x : Cluster) : (s.setCluster n x).powerCap = s.powerCap := rfl
@[simp] theorem setCluster_coolantLow (s : State) (n : Nat) (x : Cluster) : (s.setCluster n x).coolantLow = s.coolantLow := rfl
@[simp] theorem setCluster_devnum (s : State) (n : Nat) (x : Cluster) : (s.setCluster n x).devnum = s.devnum := rfl
@[simp] theorem setCluster_mem (s : State) (n : Nat) (x : Cluster) : (s.setCluster n x).mem = s.mem := rfl
@[simp] theorem setCluster_homePoison (s : State) (n : Nat) (x : Cluster) : (s.setCluster n x).homePoison = s.homePoison := rfl
@[simp] theorem setCluster_presence (s : State) (n : Nat) (x : Cluster) : (s.setCluster n x).presence = s.presence := rfl
@[simp] theorem setCluster_msc (s : State) (n : Nat) (x : Cluster) : (s.setCluster n x).msc = s.msc := rfl
@[simp] theorem setCluster_dram (s : State) (n : Nat) (x : Cluster) : (s.setCluster n x).dram = s.dram := rfl
@[simp] theorem setCluster_keys (s : State) (n : Nat) (x : Cluster) : (s.setCluster n x).keys = s.keys := rfl
@[simp] theorem setCluster_keysMade (s : State) (n : Nat) (x : Cluster) : (s.setCluster n x).keysMade = s.keysMade := rfl
@[simp] theorem setCluster_hostMem (s : State) (n : Nat) (x : Cluster) : (s.setCluster n x).hostMem = s.hostMem := rfl
@[simp] theorem setCluster_ptab (s : State) (n : Nat) (x : Cluster) : (s.setCluster n x).ptab = s.ptab := rfl
@[simp] theorem setCluster_window (s : State) (n : Nat) (x : Cluster) : (s.setCluster n x).window = s.window := rfl
@[simp] theorem setCluster_exports (s : State) (n : Nat) (x : Cluster) : (s.setCluster n x).exports = s.exports := rfl
@[simp] theorem setCluster_routes (s : State) (n : Nat) (x : Cluster) : (s.setCluster n x).routes = s.routes := rfl
@[simp] theorem setCluster_extents (s : State) (n : Nat) (x : Cluster) : (s.setCluster n x).extents = s.extents := rfl
@[simp] theorem setCluster_owned (s : State) (n : Nat) (x : Cluster) : (s.setCluster n x).owned = s.owned := rfl
@[simp] theorem setCluster_packets (s : State) (n : Nat) (x : Cluster) : (s.setCluster n x).packets = s.packets := rfl
@[simp] theorem setCluster_mbstatSeq (s : State) (n : Nat) (x : Cluster) : (s.setCluster n x).mbstatSeq = s.mbstatSeq := rfl
@[simp] theorem setCluster_mbstatLast (s : State) (n : Nat) (x : Cluster) : (s.setCluster n x).mbstatLast = s.mbstatLast := rfl
@[simp] theorem setCluster_mbstatBusy (s : State) (n : Nat) (x : Cluster) : (s.setCluster n x).mbstatBusy = s.mbstatBusy := rfl
@[simp] theorem setCluster_mbstatReady (s : State) (n : Nat) (x : Cluster) : (s.setCluster n x).mbstatReady = s.mbstatReady := rfl
@[simp] theorem setCluster_mbMoved (s : State) (n : Nat) (x : Cluster) : (s.setCluster n x).mbMoved = s.mbMoved := rfl
@[simp] theorem setCluster_mbcmd (s : State) (n : Nat) (x : Cluster) : (s.setCluster n x).mbcmd = s.mbcmd := rfl
@[simp] theorem setCluster_mbTaken (s : State) (n : Nat) (x : Cluster) : (s.setCluster n x).mbTaken = s.mbTaken := rfl
@[simp] theorem setCluster_mbrsp (s : State) (n : Nat) (x : Cluster) : (s.setCluster n x).mbrsp = s.mbrsp := rfl
@[simp] theorem setCluster_eqHead (s : State) (n : Nat) (x : Cluster) : (s.setCluster n x).eqHead = s.eqHead := rfl
@[simp] theorem setCluster_eqTail (s : State) (n : Nat) (x : Cluster) : (s.setCluster n x).eqTail = s.eqTail := rfl
@[simp] theorem setCluster_eqLost (s : State) (n : Nat) (x : Cluster) : (s.setCluster n x).eqLost = s.eqLost := rfl
@[simp] theorem setCluster_eq (s : State) (n : Nat) (x : Cluster) : (s.setCluster n x).eq = s.eq := rfl
@[simp] theorem setCluster_msix (s : State) (n : Nat) (x : Cluster) : (s.setCluster n x).msix = s.msix := rfl
@[simp] theorem setCluster_dmaQ (s : State) (n : Nat) (x : Cluster) : (s.setCluster n x).dmaQ = s.dmaQ := rfl
@[simp] theorem setCluster_hostRead (s : State) (n : Nat) (x : Cluster) : (s.setCluster n x).hostRead = s.hostRead := rfl
@[simp] theorem setCluster_launchSeq (s : State) (n : Nat) (x : Cluster) : (s.setCluster n x).launchSeq = s.launchSeq := rfl
@[simp] theorem setCluster_rrQueue (s : State) (n : Nat) (x : Cluster) : (s.setCluster n x).rrQueue = s.rrQueue := rfl
@[simp] theorem setCluster_rrCtx (s : State) (n : Nat) (x : Cluster) : (s.setCluster n x).rrCtx = s.rrCtx := rfl
@[simp] theorem setCluster_ctxs (s : State) (n : Nat) (x : Cluster) : (s.setCluster n x).ctxs = s.ctxs := rfl
@[simp] theorem setCluster_grids (s : State) (n : Nat) (x : Cluster) : (s.setCluster n x).grids = s.grids := rfl
@[simp] theorem setCluster_teams (s : State) (n : Nat) (x : Cluster) : (s.setCluster n x).teams = s.teams := rfl
@[simp] theorem setCluster_roles (s : State) (n : Nat) (x : Cluster) : (s.setCluster n x).roles = s.roles := rfl
@[simp] theorem setCluster_groups (s : State) (n : Nat) (x : Cluster) : (s.setCluster n x).groups = s.groups := rfl
@[simp] theorem setCluster_allocs (s : State) (n : Nat) (x : Cluster) : (s.setCluster n x).allocs = s.allocs := rfl
@[simp] theorem setCluster_cores (s : State) (n : Nat) (x : Cluster) : (s.setCluster n x).cores = s.cores := rfl
@[simp] theorem setCluster_pairs (s : State) (n : Nat) (x : Cluster) : (s.setCluster n x).pairs = s.pairs := rfl
@[simp] theorem setCluster_stks (s : State) (n : Nat) (x : Cluster) : (s.setCluster n x).stks = s.stks := rfl
@[simp] theorem setCluster_links (s : State) (n : Nat) (x : Cluster) : (s.setCluster n x).links = s.links := rfl
@[simp] theorem setCluster_joins (s : State) (n : Nat) (x : Cluster) : (s.setCluster n x).joins = s.joins := rfl
@[simp] theorem modCluster_eq (s : State) (n : Nat) (f : Cluster → Cluster) : s.modCluster n f = s.setCluster n (f (s.cluster n)) := rfl

/-! ### `setPair` -/

@[simp] theorem setPair_pair (s : State) (n : Nat) (x : Pair) (m : Nat) :
    (s.setPair n x).pair m = if m = n then x else s.pair m := by
  simp [State.pair, State.setPair]
@[simp] theorem setPair_ctx (s : State) (n : Nat) (x : Pair) (m : Nat) : (s.setPair n x).ctx m = s.ctx m := rfl
@[simp] theorem setPair_grid (s : State) (n : Nat) (x : Pair) (m : Nat) : (s.setPair n x).grid m = s.grid m := rfl
@[simp] theorem setPair_team (s : State) (n : Nat) (x : Pair) (m : Nat) : (s.setPair n x).team m = s.team m := rfl
@[simp] theorem setPair_role (s : State) (n : Nat) (x : Pair) (m : Nat) : (s.setPair n x).role m = s.role m := rfl
@[simp] theorem setPair_group (s : State) (n : Nat) (x : Pair) (m : Nat) : (s.setPair n x).group m = s.group m := rfl
@[simp] theorem setPair_alloc (s : State) (n : Nat) (x : Pair) (m : Nat) : (s.setPair n x).alloc m = s.alloc m := rfl
@[simp] theorem setPair_core (s : State) (n : Nat) (x : Pair) (m : Nat) : (s.setPair n x).core m = s.core m := rfl
@[simp] theorem setPair_cluster (s : State) (n : Nat) (x : Pair) (m : Nat) : (s.setPair n x).cluster m = s.cluster m := rfl
@[simp] theorem setPair_stack (s : State) (n : Nat) (x : Pair) (m : Nat) : (s.setPair n x).stack m = s.stack m := rfl
@[simp] theorem setPair_link (s : State) (n : Nat) (x : Pair) (m : Nat) : (s.setPair n x).link m = s.link m := rfl
@[simp] theorem setPair_agenda (s : State) (n : Nat) (x : Pair) : (s.setPair n x).agenda = s.agenda := rfl
@[simp] theorem setPair_draws (s : State) (n : Nat) (x : Pair) : (s.setPair n x).draws = s.draws := rfl
@[simp] theorem setPair_cur (s : State) (n : Nat) (x : Pair) : (s.setPair n x).cur = s.cur := rfl
@[simp] theorem setPair_nextUid (s : State) (n : Nat) (x : Pair) : (s.setPair n x).nextUid = s.nextUid := rfl
@[simp] theorem setPair_clock (s : State) (n : Nat) (x : Pair) : (s.setPair n x).clock = s.clock := rfl
@[simp] theorem setPair_powered (s : State) (n : Nat) (x : Pair) : (s.setPair n x).powered = s.powered := rfl
@[simp] theorem setPair_clockMHz (s : State) (n : Nat) (x : Pair) : (s.setPair n x).clockMHz = s.clockMHz := rfl
@[simp] theorem setPair_powerCap (s : State) (n : Nat) (x : Pair) : (s.setPair n x).powerCap = s.powerCap := rfl
@[simp] theorem setPair_coolantLow (s : State) (n : Nat) (x : Pair) : (s.setPair n x).coolantLow = s.coolantLow := rfl
@[simp] theorem setPair_devnum (s : State) (n : Nat) (x : Pair) : (s.setPair n x).devnum = s.devnum := rfl
@[simp] theorem setPair_mem (s : State) (n : Nat) (x : Pair) : (s.setPair n x).mem = s.mem := rfl
@[simp] theorem setPair_homePoison (s : State) (n : Nat) (x : Pair) : (s.setPair n x).homePoison = s.homePoison := rfl
@[simp] theorem setPair_presence (s : State) (n : Nat) (x : Pair) : (s.setPair n x).presence = s.presence := rfl
@[simp] theorem setPair_msc (s : State) (n : Nat) (x : Pair) : (s.setPair n x).msc = s.msc := rfl
@[simp] theorem setPair_dram (s : State) (n : Nat) (x : Pair) : (s.setPair n x).dram = s.dram := rfl
@[simp] theorem setPair_keys (s : State) (n : Nat) (x : Pair) : (s.setPair n x).keys = s.keys := rfl
@[simp] theorem setPair_keysMade (s : State) (n : Nat) (x : Pair) : (s.setPair n x).keysMade = s.keysMade := rfl
@[simp] theorem setPair_hostMem (s : State) (n : Nat) (x : Pair) : (s.setPair n x).hostMem = s.hostMem := rfl
@[simp] theorem setPair_ptab (s : State) (n : Nat) (x : Pair) : (s.setPair n x).ptab = s.ptab := rfl
@[simp] theorem setPair_window (s : State) (n : Nat) (x : Pair) : (s.setPair n x).window = s.window := rfl
@[simp] theorem setPair_exports (s : State) (n : Nat) (x : Pair) : (s.setPair n x).exports = s.exports := rfl
@[simp] theorem setPair_routes (s : State) (n : Nat) (x : Pair) : (s.setPair n x).routes = s.routes := rfl
@[simp] theorem setPair_extents (s : State) (n : Nat) (x : Pair) : (s.setPair n x).extents = s.extents := rfl
@[simp] theorem setPair_owned (s : State) (n : Nat) (x : Pair) : (s.setPair n x).owned = s.owned := rfl
@[simp] theorem setPair_packets (s : State) (n : Nat) (x : Pair) : (s.setPair n x).packets = s.packets := rfl
@[simp] theorem setPair_mbstatSeq (s : State) (n : Nat) (x : Pair) : (s.setPair n x).mbstatSeq = s.mbstatSeq := rfl
@[simp] theorem setPair_mbstatLast (s : State) (n : Nat) (x : Pair) : (s.setPair n x).mbstatLast = s.mbstatLast := rfl
@[simp] theorem setPair_mbstatBusy (s : State) (n : Nat) (x : Pair) : (s.setPair n x).mbstatBusy = s.mbstatBusy := rfl
@[simp] theorem setPair_mbstatReady (s : State) (n : Nat) (x : Pair) : (s.setPair n x).mbstatReady = s.mbstatReady := rfl
@[simp] theorem setPair_mbMoved (s : State) (n : Nat) (x : Pair) : (s.setPair n x).mbMoved = s.mbMoved := rfl
@[simp] theorem setPair_mbcmd (s : State) (n : Nat) (x : Pair) : (s.setPair n x).mbcmd = s.mbcmd := rfl
@[simp] theorem setPair_mbTaken (s : State) (n : Nat) (x : Pair) : (s.setPair n x).mbTaken = s.mbTaken := rfl
@[simp] theorem setPair_mbrsp (s : State) (n : Nat) (x : Pair) : (s.setPair n x).mbrsp = s.mbrsp := rfl
@[simp] theorem setPair_eqHead (s : State) (n : Nat) (x : Pair) : (s.setPair n x).eqHead = s.eqHead := rfl
@[simp] theorem setPair_eqTail (s : State) (n : Nat) (x : Pair) : (s.setPair n x).eqTail = s.eqTail := rfl
@[simp] theorem setPair_eqLost (s : State) (n : Nat) (x : Pair) : (s.setPair n x).eqLost = s.eqLost := rfl
@[simp] theorem setPair_eq (s : State) (n : Nat) (x : Pair) : (s.setPair n x).eq = s.eq := rfl
@[simp] theorem setPair_msix (s : State) (n : Nat) (x : Pair) : (s.setPair n x).msix = s.msix := rfl
@[simp] theorem setPair_dmaQ (s : State) (n : Nat) (x : Pair) : (s.setPair n x).dmaQ = s.dmaQ := rfl
@[simp] theorem setPair_hostRead (s : State) (n : Nat) (x : Pair) : (s.setPair n x).hostRead = s.hostRead := rfl
@[simp] theorem setPair_launchSeq (s : State) (n : Nat) (x : Pair) : (s.setPair n x).launchSeq = s.launchSeq := rfl
@[simp] theorem setPair_rrQueue (s : State) (n : Nat) (x : Pair) : (s.setPair n x).rrQueue = s.rrQueue := rfl
@[simp] theorem setPair_rrCtx (s : State) (n : Nat) (x : Pair) : (s.setPair n x).rrCtx = s.rrCtx := rfl
@[simp] theorem setPair_ctxs (s : State) (n : Nat) (x : Pair) : (s.setPair n x).ctxs = s.ctxs := rfl
@[simp] theorem setPair_grids (s : State) (n : Nat) (x : Pair) : (s.setPair n x).grids = s.grids := rfl
@[simp] theorem setPair_teams (s : State) (n : Nat) (x : Pair) : (s.setPair n x).teams = s.teams := rfl
@[simp] theorem setPair_roles (s : State) (n : Nat) (x : Pair) : (s.setPair n x).roles = s.roles := rfl
@[simp] theorem setPair_groups (s : State) (n : Nat) (x : Pair) : (s.setPair n x).groups = s.groups := rfl
@[simp] theorem setPair_allocs (s : State) (n : Nat) (x : Pair) : (s.setPair n x).allocs = s.allocs := rfl
@[simp] theorem setPair_cores (s : State) (n : Nat) (x : Pair) : (s.setPair n x).cores = s.cores := rfl
@[simp] theorem setPair_clusters (s : State) (n : Nat) (x : Pair) : (s.setPair n x).clusters = s.clusters := rfl
@[simp] theorem setPair_stks (s : State) (n : Nat) (x : Pair) : (s.setPair n x).stks = s.stks := rfl
@[simp] theorem setPair_links (s : State) (n : Nat) (x : Pair) : (s.setPair n x).links = s.links := rfl
@[simp] theorem setPair_joins (s : State) (n : Nat) (x : Pair) : (s.setPair n x).joins = s.joins := rfl
@[simp] theorem modPair_eq (s : State) (n : Nat) (f : Pair → Pair) : s.modPair n f = s.setPair n (f (s.pair n)) := rfl

/-! ### `setStack` -/

@[simp] theorem setStack_stack (s : State) (n : Nat) (x : Stack) (m : Nat) :
    (s.setStack n x).stack m = if m = n then x else s.stack m := by
  simp [State.stack, State.setStack]
@[simp] theorem setStack_ctx (s : State) (n : Nat) (x : Stack) (m : Nat) : (s.setStack n x).ctx m = s.ctx m := rfl
@[simp] theorem setStack_grid (s : State) (n : Nat) (x : Stack) (m : Nat) : (s.setStack n x).grid m = s.grid m := rfl
@[simp] theorem setStack_team (s : State) (n : Nat) (x : Stack) (m : Nat) : (s.setStack n x).team m = s.team m := rfl
@[simp] theorem setStack_role (s : State) (n : Nat) (x : Stack) (m : Nat) : (s.setStack n x).role m = s.role m := rfl
@[simp] theorem setStack_group (s : State) (n : Nat) (x : Stack) (m : Nat) : (s.setStack n x).group m = s.group m := rfl
@[simp] theorem setStack_alloc (s : State) (n : Nat) (x : Stack) (m : Nat) : (s.setStack n x).alloc m = s.alloc m := rfl
@[simp] theorem setStack_core (s : State) (n : Nat) (x : Stack) (m : Nat) : (s.setStack n x).core m = s.core m := rfl
@[simp] theorem setStack_cluster (s : State) (n : Nat) (x : Stack) (m : Nat) : (s.setStack n x).cluster m = s.cluster m := rfl
@[simp] theorem setStack_pair (s : State) (n : Nat) (x : Stack) (m : Nat) : (s.setStack n x).pair m = s.pair m := rfl
@[simp] theorem setStack_link (s : State) (n : Nat) (x : Stack) (m : Nat) : (s.setStack n x).link m = s.link m := rfl
@[simp] theorem setStack_agenda (s : State) (n : Nat) (x : Stack) : (s.setStack n x).agenda = s.agenda := rfl
@[simp] theorem setStack_draws (s : State) (n : Nat) (x : Stack) : (s.setStack n x).draws = s.draws := rfl
@[simp] theorem setStack_cur (s : State) (n : Nat) (x : Stack) : (s.setStack n x).cur = s.cur := rfl
@[simp] theorem setStack_nextUid (s : State) (n : Nat) (x : Stack) : (s.setStack n x).nextUid = s.nextUid := rfl
@[simp] theorem setStack_clock (s : State) (n : Nat) (x : Stack) : (s.setStack n x).clock = s.clock := rfl
@[simp] theorem setStack_powered (s : State) (n : Nat) (x : Stack) : (s.setStack n x).powered = s.powered := rfl
@[simp] theorem setStack_clockMHz (s : State) (n : Nat) (x : Stack) : (s.setStack n x).clockMHz = s.clockMHz := rfl
@[simp] theorem setStack_powerCap (s : State) (n : Nat) (x : Stack) : (s.setStack n x).powerCap = s.powerCap := rfl
@[simp] theorem setStack_coolantLow (s : State) (n : Nat) (x : Stack) : (s.setStack n x).coolantLow = s.coolantLow := rfl
@[simp] theorem setStack_devnum (s : State) (n : Nat) (x : Stack) : (s.setStack n x).devnum = s.devnum := rfl
@[simp] theorem setStack_mem (s : State) (n : Nat) (x : Stack) : (s.setStack n x).mem = s.mem := rfl
@[simp] theorem setStack_homePoison (s : State) (n : Nat) (x : Stack) : (s.setStack n x).homePoison = s.homePoison := rfl
@[simp] theorem setStack_presence (s : State) (n : Nat) (x : Stack) : (s.setStack n x).presence = s.presence := rfl
@[simp] theorem setStack_msc (s : State) (n : Nat) (x : Stack) : (s.setStack n x).msc = s.msc := rfl
@[simp] theorem setStack_dram (s : State) (n : Nat) (x : Stack) : (s.setStack n x).dram = s.dram := rfl
@[simp] theorem setStack_keys (s : State) (n : Nat) (x : Stack) : (s.setStack n x).keys = s.keys := rfl
@[simp] theorem setStack_keysMade (s : State) (n : Nat) (x : Stack) : (s.setStack n x).keysMade = s.keysMade := rfl
@[simp] theorem setStack_hostMem (s : State) (n : Nat) (x : Stack) : (s.setStack n x).hostMem = s.hostMem := rfl
@[simp] theorem setStack_ptab (s : State) (n : Nat) (x : Stack) : (s.setStack n x).ptab = s.ptab := rfl
@[simp] theorem setStack_window (s : State) (n : Nat) (x : Stack) : (s.setStack n x).window = s.window := rfl
@[simp] theorem setStack_exports (s : State) (n : Nat) (x : Stack) : (s.setStack n x).exports = s.exports := rfl
@[simp] theorem setStack_routes (s : State) (n : Nat) (x : Stack) : (s.setStack n x).routes = s.routes := rfl
@[simp] theorem setStack_extents (s : State) (n : Nat) (x : Stack) : (s.setStack n x).extents = s.extents := rfl
@[simp] theorem setStack_owned (s : State) (n : Nat) (x : Stack) : (s.setStack n x).owned = s.owned := rfl
@[simp] theorem setStack_packets (s : State) (n : Nat) (x : Stack) : (s.setStack n x).packets = s.packets := rfl
@[simp] theorem setStack_mbstatSeq (s : State) (n : Nat) (x : Stack) : (s.setStack n x).mbstatSeq = s.mbstatSeq := rfl
@[simp] theorem setStack_mbstatLast (s : State) (n : Nat) (x : Stack) : (s.setStack n x).mbstatLast = s.mbstatLast := rfl
@[simp] theorem setStack_mbstatBusy (s : State) (n : Nat) (x : Stack) : (s.setStack n x).mbstatBusy = s.mbstatBusy := rfl
@[simp] theorem setStack_mbstatReady (s : State) (n : Nat) (x : Stack) : (s.setStack n x).mbstatReady = s.mbstatReady := rfl
@[simp] theorem setStack_mbMoved (s : State) (n : Nat) (x : Stack) : (s.setStack n x).mbMoved = s.mbMoved := rfl
@[simp] theorem setStack_mbcmd (s : State) (n : Nat) (x : Stack) : (s.setStack n x).mbcmd = s.mbcmd := rfl
@[simp] theorem setStack_mbTaken (s : State) (n : Nat) (x : Stack) : (s.setStack n x).mbTaken = s.mbTaken := rfl
@[simp] theorem setStack_mbrsp (s : State) (n : Nat) (x : Stack) : (s.setStack n x).mbrsp = s.mbrsp := rfl
@[simp] theorem setStack_eqHead (s : State) (n : Nat) (x : Stack) : (s.setStack n x).eqHead = s.eqHead := rfl
@[simp] theorem setStack_eqTail (s : State) (n : Nat) (x : Stack) : (s.setStack n x).eqTail = s.eqTail := rfl
@[simp] theorem setStack_eqLost (s : State) (n : Nat) (x : Stack) : (s.setStack n x).eqLost = s.eqLost := rfl
@[simp] theorem setStack_eq (s : State) (n : Nat) (x : Stack) : (s.setStack n x).eq = s.eq := rfl
@[simp] theorem setStack_msix (s : State) (n : Nat) (x : Stack) : (s.setStack n x).msix = s.msix := rfl
@[simp] theorem setStack_dmaQ (s : State) (n : Nat) (x : Stack) : (s.setStack n x).dmaQ = s.dmaQ := rfl
@[simp] theorem setStack_hostRead (s : State) (n : Nat) (x : Stack) : (s.setStack n x).hostRead = s.hostRead := rfl
@[simp] theorem setStack_launchSeq (s : State) (n : Nat) (x : Stack) : (s.setStack n x).launchSeq = s.launchSeq := rfl
@[simp] theorem setStack_rrQueue (s : State) (n : Nat) (x : Stack) : (s.setStack n x).rrQueue = s.rrQueue := rfl
@[simp] theorem setStack_rrCtx (s : State) (n : Nat) (x : Stack) : (s.setStack n x).rrCtx = s.rrCtx := rfl
@[simp] theorem setStack_ctxs (s : State) (n : Nat) (x : Stack) : (s.setStack n x).ctxs = s.ctxs := rfl
@[simp] theorem setStack_grids (s : State) (n : Nat) (x : Stack) : (s.setStack n x).grids = s.grids := rfl
@[simp] theorem setStack_teams (s : State) (n : Nat) (x : Stack) : (s.setStack n x).teams = s.teams := rfl
@[simp] theorem setStack_roles (s : State) (n : Nat) (x : Stack) : (s.setStack n x).roles = s.roles := rfl
@[simp] theorem setStack_groups (s : State) (n : Nat) (x : Stack) : (s.setStack n x).groups = s.groups := rfl
@[simp] theorem setStack_allocs (s : State) (n : Nat) (x : Stack) : (s.setStack n x).allocs = s.allocs := rfl
@[simp] theorem setStack_cores (s : State) (n : Nat) (x : Stack) : (s.setStack n x).cores = s.cores := rfl
@[simp] theorem setStack_clusters (s : State) (n : Nat) (x : Stack) : (s.setStack n x).clusters = s.clusters := rfl
@[simp] theorem setStack_pairs (s : State) (n : Nat) (x : Stack) : (s.setStack n x).pairs = s.pairs := rfl
@[simp] theorem setStack_links (s : State) (n : Nat) (x : Stack) : (s.setStack n x).links = s.links := rfl
@[simp] theorem setStack_joins (s : State) (n : Nat) (x : Stack) : (s.setStack n x).joins = s.joins := rfl
@[simp] theorem modStack_eq (s : State) (n : Nat) (f : Stack → Stack) : s.modStack n f = s.setStack n (f (s.stack n)) := rfl

/-! ### `setLink` -/

@[simp] theorem setLink_link (s : State) (n : Nat) (x : Link) (m : Nat) :
    (s.setLink n x).link m = if m = n then x else s.link m := by
  simp [State.link, State.setLink]
@[simp] theorem setLink_ctx (s : State) (n : Nat) (x : Link) (m : Nat) : (s.setLink n x).ctx m = s.ctx m := rfl
@[simp] theorem setLink_grid (s : State) (n : Nat) (x : Link) (m : Nat) : (s.setLink n x).grid m = s.grid m := rfl
@[simp] theorem setLink_team (s : State) (n : Nat) (x : Link) (m : Nat) : (s.setLink n x).team m = s.team m := rfl
@[simp] theorem setLink_role (s : State) (n : Nat) (x : Link) (m : Nat) : (s.setLink n x).role m = s.role m := rfl
@[simp] theorem setLink_group (s : State) (n : Nat) (x : Link) (m : Nat) : (s.setLink n x).group m = s.group m := rfl
@[simp] theorem setLink_alloc (s : State) (n : Nat) (x : Link) (m : Nat) : (s.setLink n x).alloc m = s.alloc m := rfl
@[simp] theorem setLink_core (s : State) (n : Nat) (x : Link) (m : Nat) : (s.setLink n x).core m = s.core m := rfl
@[simp] theorem setLink_cluster (s : State) (n : Nat) (x : Link) (m : Nat) : (s.setLink n x).cluster m = s.cluster m := rfl
@[simp] theorem setLink_pair (s : State) (n : Nat) (x : Link) (m : Nat) : (s.setLink n x).pair m = s.pair m := rfl
@[simp] theorem setLink_stack (s : State) (n : Nat) (x : Link) (m : Nat) : (s.setLink n x).stack m = s.stack m := rfl
@[simp] theorem setLink_agenda (s : State) (n : Nat) (x : Link) : (s.setLink n x).agenda = s.agenda := rfl
@[simp] theorem setLink_draws (s : State) (n : Nat) (x : Link) : (s.setLink n x).draws = s.draws := rfl
@[simp] theorem setLink_cur (s : State) (n : Nat) (x : Link) : (s.setLink n x).cur = s.cur := rfl
@[simp] theorem setLink_nextUid (s : State) (n : Nat) (x : Link) : (s.setLink n x).nextUid = s.nextUid := rfl
@[simp] theorem setLink_clock (s : State) (n : Nat) (x : Link) : (s.setLink n x).clock = s.clock := rfl
@[simp] theorem setLink_powered (s : State) (n : Nat) (x : Link) : (s.setLink n x).powered = s.powered := rfl
@[simp] theorem setLink_clockMHz (s : State) (n : Nat) (x : Link) : (s.setLink n x).clockMHz = s.clockMHz := rfl
@[simp] theorem setLink_powerCap (s : State) (n : Nat) (x : Link) : (s.setLink n x).powerCap = s.powerCap := rfl
@[simp] theorem setLink_coolantLow (s : State) (n : Nat) (x : Link) : (s.setLink n x).coolantLow = s.coolantLow := rfl
@[simp] theorem setLink_devnum (s : State) (n : Nat) (x : Link) : (s.setLink n x).devnum = s.devnum := rfl
@[simp] theorem setLink_mem (s : State) (n : Nat) (x : Link) : (s.setLink n x).mem = s.mem := rfl
@[simp] theorem setLink_homePoison (s : State) (n : Nat) (x : Link) : (s.setLink n x).homePoison = s.homePoison := rfl
@[simp] theorem setLink_presence (s : State) (n : Nat) (x : Link) : (s.setLink n x).presence = s.presence := rfl
@[simp] theorem setLink_msc (s : State) (n : Nat) (x : Link) : (s.setLink n x).msc = s.msc := rfl
@[simp] theorem setLink_dram (s : State) (n : Nat) (x : Link) : (s.setLink n x).dram = s.dram := rfl
@[simp] theorem setLink_keys (s : State) (n : Nat) (x : Link) : (s.setLink n x).keys = s.keys := rfl
@[simp] theorem setLink_keysMade (s : State) (n : Nat) (x : Link) : (s.setLink n x).keysMade = s.keysMade := rfl
@[simp] theorem setLink_hostMem (s : State) (n : Nat) (x : Link) : (s.setLink n x).hostMem = s.hostMem := rfl
@[simp] theorem setLink_ptab (s : State) (n : Nat) (x : Link) : (s.setLink n x).ptab = s.ptab := rfl
@[simp] theorem setLink_window (s : State) (n : Nat) (x : Link) : (s.setLink n x).window = s.window := rfl
@[simp] theorem setLink_exports (s : State) (n : Nat) (x : Link) : (s.setLink n x).exports = s.exports := rfl
@[simp] theorem setLink_routes (s : State) (n : Nat) (x : Link) : (s.setLink n x).routes = s.routes := rfl
@[simp] theorem setLink_extents (s : State) (n : Nat) (x : Link) : (s.setLink n x).extents = s.extents := rfl
@[simp] theorem setLink_owned (s : State) (n : Nat) (x : Link) : (s.setLink n x).owned = s.owned := rfl
@[simp] theorem setLink_packets (s : State) (n : Nat) (x : Link) : (s.setLink n x).packets = s.packets := rfl
@[simp] theorem setLink_mbstatSeq (s : State) (n : Nat) (x : Link) : (s.setLink n x).mbstatSeq = s.mbstatSeq := rfl
@[simp] theorem setLink_mbstatLast (s : State) (n : Nat) (x : Link) : (s.setLink n x).mbstatLast = s.mbstatLast := rfl
@[simp] theorem setLink_mbstatBusy (s : State) (n : Nat) (x : Link) : (s.setLink n x).mbstatBusy = s.mbstatBusy := rfl
@[simp] theorem setLink_mbstatReady (s : State) (n : Nat) (x : Link) : (s.setLink n x).mbstatReady = s.mbstatReady := rfl
@[simp] theorem setLink_mbMoved (s : State) (n : Nat) (x : Link) : (s.setLink n x).mbMoved = s.mbMoved := rfl
@[simp] theorem setLink_mbcmd (s : State) (n : Nat) (x : Link) : (s.setLink n x).mbcmd = s.mbcmd := rfl
@[simp] theorem setLink_mbTaken (s : State) (n : Nat) (x : Link) : (s.setLink n x).mbTaken = s.mbTaken := rfl
@[simp] theorem setLink_mbrsp (s : State) (n : Nat) (x : Link) : (s.setLink n x).mbrsp = s.mbrsp := rfl
@[simp] theorem setLink_eqHead (s : State) (n : Nat) (x : Link) : (s.setLink n x).eqHead = s.eqHead := rfl
@[simp] theorem setLink_eqTail (s : State) (n : Nat) (x : Link) : (s.setLink n x).eqTail = s.eqTail := rfl
@[simp] theorem setLink_eqLost (s : State) (n : Nat) (x : Link) : (s.setLink n x).eqLost = s.eqLost := rfl
@[simp] theorem setLink_eq (s : State) (n : Nat) (x : Link) : (s.setLink n x).eq = s.eq := rfl
@[simp] theorem setLink_msix (s : State) (n : Nat) (x : Link) : (s.setLink n x).msix = s.msix := rfl
@[simp] theorem setLink_dmaQ (s : State) (n : Nat) (x : Link) : (s.setLink n x).dmaQ = s.dmaQ := rfl
@[simp] theorem setLink_hostRead (s : State) (n : Nat) (x : Link) : (s.setLink n x).hostRead = s.hostRead := rfl
@[simp] theorem setLink_launchSeq (s : State) (n : Nat) (x : Link) : (s.setLink n x).launchSeq = s.launchSeq := rfl
@[simp] theorem setLink_rrQueue (s : State) (n : Nat) (x : Link) : (s.setLink n x).rrQueue = s.rrQueue := rfl
@[simp] theorem setLink_rrCtx (s : State) (n : Nat) (x : Link) : (s.setLink n x).rrCtx = s.rrCtx := rfl
@[simp] theorem setLink_ctxs (s : State) (n : Nat) (x : Link) : (s.setLink n x).ctxs = s.ctxs := rfl
@[simp] theorem setLink_grids (s : State) (n : Nat) (x : Link) : (s.setLink n x).grids = s.grids := rfl
@[simp] theorem setLink_teams (s : State) (n : Nat) (x : Link) : (s.setLink n x).teams = s.teams := rfl
@[simp] theorem setLink_roles (s : State) (n : Nat) (x : Link) : (s.setLink n x).roles = s.roles := rfl
@[simp] theorem setLink_groups (s : State) (n : Nat) (x : Link) : (s.setLink n x).groups = s.groups := rfl
@[simp] theorem setLink_allocs (s : State) (n : Nat) (x : Link) : (s.setLink n x).allocs = s.allocs := rfl
@[simp] theorem setLink_cores (s : State) (n : Nat) (x : Link) : (s.setLink n x).cores = s.cores := rfl
@[simp] theorem setLink_clusters (s : State) (n : Nat) (x : Link) : (s.setLink n x).clusters = s.clusters := rfl
@[simp] theorem setLink_pairs (s : State) (n : Nat) (x : Link) : (s.setLink n x).pairs = s.pairs := rfl
@[simp] theorem setLink_stks (s : State) (n : Nat) (x : Link) : (s.setLink n x).stks = s.stks := rfl
@[simp] theorem setLink_joins (s : State) (n : Nat) (x : Link) : (s.setLink n x).joins = s.joins := rfl
@[simp] theorem modLink_eq (s : State) (n : Nat) (f : Link → Link) : s.modLink n f = s.setLink n (f (s.link n)) := rfl

end Sys2Proof.Machine
end

