-- ==== Sys2Proof/Laws/Finish.lean ====
section
/-! SUPPORT. Moving past an instruction: what it changes, and that it changes nothing else. -/

namespace Sys2Proof.Machine

/-! ### Issue groups -/

theorem ig_of_role {s t : State} {q : IgRef} (h : (t.role q.role).igs = (s.role q.role).igs) : t.ig q = s.ig q := by
  simp [State.ig, h]

theorem find_map_uid (l : List Ig) (f : Ig → Ig) (n m : Nat) (hf : ∀ g, (f g).uid = g.uid) :
    (l.map fun g => if g.uid == n then f g else g).find? (fun g => g.uid == m) =
      (l.find? fun g => g.uid == m).map fun g => if g.uid == n then f g else g := by
  induction l with
  | nil => rfl
  | cons a t ih =>
    have hu : (if (a.uid == n) = true then f a else a).uid = a.uid := by split <;> simp [hf]
    simp only [List.map_cons, List.find?_cons, hu, ih]
    split <;> simp

/-- An update of one issue group, seen through any of them. -/
theorem modIg_ig (s : State) (r : IgRef) (f : Ig → Ig) (hf : ∀ g, (f g).uid = g.uid) (q : IgRef) (hq : q ≠ r) :
    (s.modIg r f).ig q = s.ig q := by
  unfold State.modIg
  by_cases hr : q.role = r.role
  · have hu : q.ig ≠ r.ig := fun e => hq (by cases q; cases r; simp_all)
    simp only [State.ig, modRole_eq, setRole_role, hr, if_true, find_map_uid _ _ _ _ hf]
    cases h : ((s.role r.role).igs.find? fun g => g.uid == q.ig) with
    | none => rfl
    | some g =>
      have := List.find?_some h
      have hne : ¬ g.uid = r.ig := fun e => hu (by rw [← e]; simpa using (beq_iff_eq.1 this).symm)
      simp [hne]
  · exact ig_of_role (by simp [hr])

theorem modIg_ig_same (s : State) (r : IgRef) (f : Ig → Ig) (hf : ∀ g, (f g).uid = g.uid)
    (h : ∃ g ∈ (s.role r.role).igs, g.uid = r.ig) : (s.modIg r f).ig r = f (s.ig r) := by
  unfold State.modIg
  simp only [State.ig, modRole_eq, setRole_role, if_true, find_map_uid _ _ _ _ hf]
  cases hh : ((s.role r.role).igs.find? fun g => g.uid == r.ig) with
  | none =>
    obtain ⟨g, hg, hu⟩ := h
    have := List.find?_eq_none.1 hh g hg
    simp [hu] at this
  | some g =>
    have := List.find?_some hh
    simp_all

/-! ### Counting and moving past -/

/-- The state with another agenda. -/
def State.setAgenda (s : State) (a : List Action) : State := { s with agenda := a }
@[simp] theorem setAgenda_role (s : State) (a : List Action) (n : Nat) : (s.setAgenda a).role n = s.role n := rfl
@[simp] theorem setAgenda_ctx (s : State) (a : List Action) (n : Nat) : (s.setAgenda a).ctx n = s.ctx n := rfl

theorem count_cases (s : State) : ∃ (a : List Action) (d : Bool), s.count =
    ((s.modRole s.cur.role fun r => { r with count := r.count + 1 }).setCtx s.curCtx
        { s.ctx s.curCtx with retired := (s.ctx s.curCtx).retired + 1, due := d }).setAgenda a := by
  unfold State.count
  simp only []
  split
  · exact ⟨_, true, rfl⟩
  · exact ⟨s.agenda, (s.ctx s.curCtx).due, rfl⟩

/-- The count of a role whose blocked time is counted up to a clock. -/
theorem ticked_count (r : Role) (now : Nat) :
    (r.ticked now).count = r.count + (r.since.map fun c => (now - c) / 1024).getD 0 := by
  unfold Role.ticked
  cases r.since <;> rfl

/-- Counting blocked time changes nothing of the issuing role but its path count, as far as it has run, and since when it
runs. -/
theorem unblock_cases (s : State) : ∃ x, s.unblock = s.modRole s.cur.role fun r =>
    { r with since := x, count := if (s.role s.cur.role).igs.any fun g => decide (g.wait = .blocked)
                                  then (s.role s.cur.role).count
                                  else ((s.role s.cur.role).ticked s.clock.toNat).count } := by
  unfold State.unblock State.unblockRole
  by_cases h : (s.role s.cur.role).igs.any fun g => decide (g.wait = .blocked)
  · refine ⟨(s.role s.cur.role).since, ?_⟩
    simp only [modRole_eq, h, if_true]
  · refine ⟨none, ?_⟩
    simp only [modRole_eq, if_neg h, Role.ticked]
    cases hs : (s.role s.cur.role).since <;> simp

/-- Counting an instruction changes nothing but the path count, RETIRED and the agenda. -/
theorem count_kept (s : State) : Kept s s.count ∧ s.count.groups = s.groups ∧ (∀ q, s.count.ig q = s.ig q) ∧
    (s.count.role s.cur.role).count = (s.role s.cur.role).count + 1 ∧
    (s.count.ctx s.curCtx).retired = (s.ctx s.curCtx).retired + 1 := by
  obtain ⟨a, d, h⟩ := count_cases s
  rw [h]
  have hi : ∀ q : IgRef, (((s.modRole s.cur.role fun r => { r with count := r.count + 1 }).setCtx s.curCtx
      { s.ctx s.curCtx with retired := (s.ctx s.curCtx).retired + 1, due := d }).setAgenda a).ig q = s.ig q := by
    intro q
    refine ig_of_role ?_
    by_cases hq : q.role = s.cur.role <;> simp [hq]
  refine ⟨⟨rfl, ?_, ?_, by simp, fun q _ => hi q⟩, rfl, hi, by simp, by simp⟩
  · intro c
    by_cases hc : c = s.curCtx <;> simp [hc]
  · intro r hr
    simp [hr]

theorem Kept.trans {s t u : State} (h : Kept s t) (k : Kept t u) (hc : t.cur = s.cur) : Kept s u := by
  obtain ⟨a1, b1, c1, d1, e1⟩ := h
  obtain ⟨a2, b2, c2, d2, e2⟩ := k
  rw [hc] at c2 d2 e2
  refine ⟨?_, ?_, ?_, ?_, ?_⟩
  · unfold SameElsewhere at *
    calc { u with groups := s.groups, roles := s.roles, ctxs := s.ctxs, agenda := s.agenda }
        = { { u with groups := t.groups, roles := t.roles, ctxs := t.ctxs, agenda := t.agenda } with
            groups := s.groups, roles := s.roles, ctxs := s.ctxs, agenda := s.agenda } := rfl
      _ = { t with groups := s.groups, roles := s.roles, ctxs := s.ctxs, agenda := s.agenda } := by rw [a2]
      _ = s := a1
  · intro c
    have h2 := b2 c
    have h1 := b1 c
    calc ({ u.ctx c with retired := (s.ctx c).retired, due := (s.ctx c).due } : Ctx)
        = { { u.ctx c with retired := (t.ctx c).retired, due := (t.ctx c).due } with retired := (s.ctx c).retired, due := (s.ctx c).due } := rfl
      _ = { t.ctx c with retired := (s.ctx c).retired, due := (s.ctx c).due } := by rw [h2]
      _ = s.ctx c := h1
  · intro r hr
    rw [c2 r hr, c1 r hr]
  · calc ({ u.role s.cur.role with igs := (s.role s.cur.role).igs, count := (s.role s.cur.role).count,
                                   since := (s.role s.cur.role).since } : Role)
        = { { u.role s.cur.role with igs := (t.role s.cur.role).igs, count := (t.role s.cur.role).count,
                                     since := (t.role s.cur.role).since } with
            igs := (s.role s.cur.role).igs, count := (s.role s.cur.role).count, since := (s.role s.cur.role).since } := rfl
      _ = { t.role s.cur.role with igs := (s.role s.cur.role).igs, count := (s.role s.cur.role).count,
                                   since := (s.role s.cur.role).since } := by rw [d2]
      _ = s.role s.cur.role := d1
  · intro q hq
    rw [e2 q hq, e1 q hq]

theorem sameElsewhere_cur {s t : State} (h : SameElsewhere s t) : t.cur = s.cur :=
  show ({ t with groups := s.groups, roles := s.roles, ctxs := s.ctxs, agenda := s.agenda } : State).cur = s.cur by rw [h]
theorem sameElsewhere_teams {s t : State} (h : SameElsewhere s t) : t.teams = s.teams :=
  show ({ t with groups := s.groups, roles := s.roles, ctxs := s.ctxs, agenda := s.agenda } : State).teams = s.teams by
    rw [h]

/-- An update of the issuing issue group. -/
theorem modIg_kept (s : State) (f : Ig → Ig) (hf : ∀ g, (f g).uid = g.uid) :
    Kept s (s.modIg s.cur f) ∧ (s.modIg s.cur f).groups = s.groups := by
  refine ⟨⟨rfl, fun _ => rfl, ?_, ?_, fun q hq => modIg_ig s s.cur f hf q hq⟩, rfl⟩
  · intro r hr; simp [State.modIg, hr]
  · simp [State.modIg]

theorem unblock_kept (s : State) : Kept s s.unblock ∧ s.unblock.groups = s.groups ∧ ∀ q, s.unblock.ig q = s.ig q := by
  obtain ⟨x, h⟩ := unblock_cases s
  rw [h]
  refine ⟨⟨rfl, fun _ => rfl, ?_, ?_, ?_⟩, rfl, ?_⟩
  · intro r hr; simp [hr]
  · simp
  · intro q _; exact ig_of_role (by by_cases hq : q.role = s.cur.role <;> simp [hq])
  · intro q; exact ig_of_role (by by_cases hq : q.role = s.cur.role <;> simp [hq])

/-- No issue group of a role but the moving one is blocked when it has moved past. -/
theorem advance_blocked (l : List Ig) (n len : Nat) :
    ((l.map fun g => if g.uid == n then g.advance len else g).any fun g => decide (g.wait = .blocked)) =
      l.any fun g => g.uid != n && decide (g.wait = .blocked) := by
  induction l with
  | nil => rfl
  | cons a t ih =>
    simp only [List.map_cons, List.any_cons, ih]
    by_cases h : a.uid = n
    · simp [h, Ig.advance]
    · have hb : (a.uid == n) = false := by simp [h]
      have hn : (a.uid != n) = true := by simp [h]
      simp [hb, hn]

/-- Past the issuing group's instruction. -/
theorem next_kept (s : State) (len : Nat) :
    Kept s (s.next len) ∧ Past s (s.next len) len ∧ (s.next len).groups = s.groups := by
  unfold State.next
  have hadv : ∀ g : Ig, (g.advance len).uid = g.uid := fun _ => rfl
  obtain ⟨k1, g1⟩ := modIg_kept s (fun g => g.advance len) hadv
  obtain ⟨k2, g2, i2⟩ := unblock_kept (s.modIg s.cur fun g => g.advance len)
  obtain ⟨x, hx⟩ := unblock_cases (s.modIg s.cur fun g => g.advance len)
  obtain ⟨k3, g3, i3, c3, r3⟩ := count_kept (s.modIg s.cur fun g => g.advance len).unblock
  have k12 := k1.trans k2 rfl
  have hc : (s.modIg s.cur fun g => g.advance len).unblock.cur = s.cur := sameElsewhere_cur k12.elsewhere
  have ht : (s.modIg s.cur fun g => g.advance len).unblock.curCtx = s.curCtx := by
    simp only [State.curCtx, State.roleCtx, State.team, sameElsewhere_teams k12.elsewhere, hc]
  refine ⟨k12.trans k3 hc, ⟨?_, ?_, ?_⟩, ?_⟩
  · intro hi
    rw [i3, i2, modIg_ig_same s s.cur _ hadv hi]
    rfl
  · rw [hc] at c3
    rw [c3, hx]
    have hcur : (s.modIg s.cur fun g => g.advance len).cur = s.cur := rfl
    have hrole : (s.modIg s.cur fun g => g.advance len).role s.cur.role =
        { s.role s.cur.role with
          igs := (s.role s.cur.role).igs.map fun g => if g.uid == s.cur.ig then g.advance len else g } := by
      simp [State.modIg]
    simp only [hcur, modRole_eq, setRole_role, if_true, hrole, advance_blocked, ticked_count, State.pathCount]
    rfl
  · rw [ht] at r3
    rw [r3, hx]
    simp [State.modIg]
  · rw [g3, g2, g1]

end Sys2Proof.Machine
end

