-- ==== Sys2Proof/Laws/Lanes.lean ====
section
/-! SUPPORT. The home groups that supply active lanes, and effects performed once for each of them. -/

namespace Sys2Proof.Machine

theorem mem_enter (h a : Nat) (l : List Nat) : a ∈ enter h l ↔ a = h ∨ a ∈ l := by
  induction l with
  | nil => simp [enter]
  | cons b t ih =>
    unfold enter
    split
    · simp
    · split
      · rename_i hb; subst hb; simp
      · simp only [List.mem_cons, ih]; tauto

theorem sorted_enter (h : Nat) (l : List Nat) (hl : l.Pairwise (· < ·)) : (enter h l).Pairwise (· < ·) := by
  induction l with
  | nil => simp [enter]
  | cons b t ih =>
    obtain ⟨hb, ht⟩ := List.pairwise_cons.1 hl
    unfold enter
    split
    · rename_i hlt
      refine List.pairwise_cons.2 ⟨fun a ha => ?_, hl⟩
      rcases List.mem_cons.1 ha with rfl | ha
      · exact hlt
      · exact lt_trans hlt (hb a ha)
    · split
      · exact hl
      · rename_i h1 h2
        refine List.pairwise_cons.2 ⟨fun a ha => ?_, ih ht⟩
        rcases (mem_enter h a t).1 ha with rfl | ha
        · omega
        · exact hb a ha

theorem homes_fold (ls : List (Nat × Nat)) (acc : List Nat) :
    (∀ a, a ∈ ls.foldl (fun acc p => enter p.2 acc) acc ↔ a ∈ acc ∨ ∃ l, (l, a) ∈ ls) ∧
      (acc.Pairwise (· < ·) → (ls.foldl (fun acc p => enter p.2 acc) acc).Pairwise (· < ·)) := by
  induction ls generalizing acc with
  | nil => simp
  | cons p t ih =>
    obtain ⟨h1, h2⟩ := ih (enter p.2 acc)
    refine ⟨fun a => ?_, fun h => h2 (sorted_enter _ _ h)⟩
    simp only [List.foldl_cons, h1, mem_enter, List.mem_cons]
    constructor
    · rintro ((rfl | h) | ⟨l, h⟩)
      · exact .inr ⟨p.1, .inl rfl⟩
      · exact .inl h
      · exact .inr ⟨l, .inr h⟩
    · rintro (h | ⟨l, h | h⟩)
      · exact .inl (.inr h)
      · exact .inl (.inl (by rw [← h]))
      · exact .inr ⟨l, h⟩

/-- The home groups of some lanes are those named in them. -/
theorem mem_homesOf (ls : List (Nat × Nat)) (h : Nat) : h ∈ homesOf ls ↔ ∃ l, (l, h) ∈ ls := by
  simpa [homesOf] using (homes_fold ls []).1 h

/-- The home groups of some lanes rise strictly. -/
theorem sorted_homesOf (ls : List (Nat × Nat)) : (homesOf ls).Pairwise (· < ·) := (homes_fold ls []).2 .nil

theorem nodup_homesOf (ls : List (Nat × Nat)) : (homesOf ls).Nodup :=
  (sorted_homesOf ls).imp fun h => Nat.ne_of_lt h

theorem maskOf_fold (ls : List (Nat × Nat)) (h : Nat) (acc : LaneMask) (l : Nat) :
    (ls.foldl (fun m p => if p.2 = h then m ||| BitVec.twoPow 96 p.1 else m) acc).getLsbD l =
      (acc.getLsbD l || decide (l < 96 ∧ (l, h) ∈ ls)) := by
  induction ls generalizing acc with
  | nil => simp
  | cons p t ih =>
    simp only [List.foldl_cons, ih]
    by_cases hp : p.2 = h
    · simp only [hp, if_true, BitVec.getLsbD_or, BitVec.getLsbD_twoPow]
      by_cases hl : p.1 = l
      · have : (l, h) = p := by rw [← hp, ← hl]
        by_cases h96 : l < 96 <;> simp [hl, h96, this]
      · have : (l, h) ≠ p := fun e => hl (by rw [← e])
        simp [hl, this]
    · have : (l, h) ≠ p := fun e => hp (by rw [← e])
      simp [hp, this]

/-- A lane is in the mask of a home group exactly when the two are listed together. -/
theorem maskOf_bit (ls : List (Nat × Nat)) (h l : Nat) :
    (maskOf ls h).getLsbD l = decide (l < 96 ∧ (l, h) ∈ ls) := by
  simpa [maskOf] using maskOf_fold ls h 0 l

/-- The states differ in nothing but their groups. -/
def OnlyGroups (s t : State) : Prop := { t with groups := s.groups } = s

theorem OnlyGroups.refl (s : State) : OnlyGroups s s := rfl
theorem OnlyGroups.setGroup {s t : State} (h : OnlyGroups s t) (n : Nat) (x : Group) : OnlyGroups s (t.setGroup n x) := h
theorem OnlyGroups.role {s t : State} (h : OnlyGroups s t) (n : Nat) : t.role n = s.role n :=
  show ({ t with groups := s.groups } : State).role n = s.role n by rw [h]
theorem OnlyGroups.team {s t : State} (h : OnlyGroups s t) (n : Nat) : t.team n = s.team n :=
  show ({ t with groups := s.groups } : State).team n = s.team n by rw [h]
theorem OnlyGroups.grid {s t : State} (h : OnlyGroups s t) (n : Nat) : t.grid n = s.grid n :=
  show ({ t with groups := s.groups } : State).grid n = s.grid n by rw [h]
theorem OnlyGroups.ctx {s t : State} (h : OnlyGroups s t) (n : Nat) : t.ctx n = s.ctx n :=
  show ({ t with groups := s.groups } : State).ctx n = s.ctx n by rw [h]
theorem OnlyGroups.clock {s t : State} (h : OnlyGroups s t) : t.clock = s.clock :=
  show ({ t with groups := s.groups } : State).clock = s.clock by rw [h]
theorem OnlyGroups.cur {s t : State} (h : OnlyGroups s t) : t.cur = s.cur :=
  show ({ t with groups := s.groups } : State).cur = s.cur by rw [h]
theorem OnlyGroups.ig {s t : State} (h : OnlyGroups s t) (q : IgRef) : t.ig q = s.ig q := ig_of_role (by rw [h.role])
theorem OnlyGroups.lanes {s t : State} (h : OnlyGroups s t) (q : IgRef) : t.lanes q = s.lanes q := by
  simp only [State.lanes, h.ig, h.role]

theorem OnlyGroups.kept {s t : State} (h : OnlyGroups s t) : Kept s t where
  elsewhere := by
    unfold SameElsewhere
    calc ({ t with groups := s.groups, roles := s.roles, ctxs := s.ctxs, agenda := s.agenda } : State)
        = { ({ t with groups := s.groups } : State) with roles := s.roles, ctxs := s.ctxs, agenda := s.agenda } := rfl
      _ = s := by rw [h]
  ctx c := by rw [h.ctx]
  roles r _ := h.role r
  role := by rw [h.role]
  igs q _ := h.ig q

/-- An effect on one group: nothing else changes, and that group becomes `u`. -/
def Becomes (s t : State) (g : Nat) (u : Group) : Prop :=
  OnlyGroups s t ∧ ∀ k, t.group k = if k = g then u else s.group k

theorem becomes_setGroup (s : State) (g : Nat) (u : Group) : Becomes s (s.setGroup g u) g u :=
  ⟨rfl, fun k => setGroup_group s g u k⟩

theorem Becomes.then {s t r : State} {g : Nat} {u v : Group} (h : Becomes s t g u) (k : Becomes t r g v) :
    Becomes s r g v := by
  refine ⟨?_, fun n => ?_⟩
  · have h1 := h.1
    have k1 := k.1
    unfold OnlyGroups at *
    calc ({ r with groups := s.groups } : State) = { ({ r with groups := t.groups } : State) with groups := s.groups } := rfl
      _ = { t with groups := s.groups } := by rw [k1]
      _ = s := h1
  · rw [k.2, h.2]
    by_cases hn : n = g <;> simp [hn]

theorem OnlyGroups.then {s t r : State} (h : OnlyGroups s t) (k : OnlyGroups t r) : OnlyGroups s r := by
  unfold OnlyGroups at *
  calc ({ r with groups := s.groups } : State) = { ({ r with groups := t.groups } : State) with groups := s.groups } := rfl
    _ = { t with groups := s.groups } := by rw [k]
    _ = s := h

theorem gid_inj (s : State) {a b : Nat} (h : s.gid a = s.gid b) : a = b := by
  simp only [State.gid, teamGroup] at h; omega

/-- The home groups' names as the issuing team names them do not change with the groups. -/
theorem OnlyGroups.gid {s t : State} (h : OnlyGroups s t) (n : Nat) : t.gid n = s.gid n := by
  simp only [State.gid, h.cur]

/-- An effect on each of some home groups once, each computed from what the ones before it leave alone. -/
theorem foldl_homes_from (f : State → Nat → State) (u : Nat → Group) (s : State)
    (hf : ∀ t h, OnlyGroups s t → t.group (s.gid h) = s.group (s.gid h) → Becomes t (f t h) (s.gid h) (u h))
    (l : List Nat) (hl : l.Nodup)
    (t : State) (ht : OnlyGroups s t) (hg : ∀ h ∈ l, t.group (s.gid h) = s.group (s.gid h)) :
    OnlyGroups s (l.foldl f t) ∧ (∀ h ∈ l, (l.foldl f t).group (s.gid h) = u h) ∧
      ∀ k, (∀ h ∈ l, k ≠ s.gid h) → (l.foldl f t).group k = t.group k := by
  induction l generalizing t with
  | nil => exact ⟨ht, by simp, fun k _ => rfl⟩
  | cons a r ih =>
    obtain ⟨ha, hr⟩ := List.nodup_cons.1 hl
    have hb := hf t a ht (hg a (List.mem_cons_self ..))
    rw [List.foldl_cons]
    obtain ⟨h1, h2, h3⟩ := ih hr (f t a) (ht.then hb.1) (fun h hh => by
      have : s.gid h ≠ s.gid a := fun e => ha (gid_inj s e ▸ hh)
      rw [hb.2]
      simp [this, hg h (List.mem_cons_of_mem _ hh)])
    refine ⟨h1, fun h hh => ?_, fun k hk => ?_⟩
    · rcases List.mem_cons.1 hh with rfl | hh
      · rw [h3 _ fun b hb e => ha (by rw [gid_inj s e]; exact hb), hb.2, if_pos rfl]
      · exact h2 h hh
    · rw [h3 k fun h hh => hk h (List.mem_cons_of_mem _ hh), hb.2, if_neg (hk a (List.mem_cons_self ..))]

theorem foldl_homes (f : State → Nat → State) (u : Nat → Group) (s : State)
    (hf : ∀ t h, OnlyGroups s t → t.group (s.gid h) = s.group (s.gid h) → Becomes t (f t h) (s.gid h) (u h))
    (ls : List (Nat × Nat)) :
    OnlyGroups s ((homesOf ls).foldl f s) ∧ (∀ h ∈ homesOf ls, ((homesOf ls).foldl f s).group (s.gid h) = u h) ∧
      ∀ k, (∀ h ∈ homesOf ls, k ≠ s.gid h) → ((homesOf ls).foldl f s).group k = s.group k :=
  foldl_homes_from f u s hf _ (nodup_homesOf ls) s (OnlyGroups.refl s) fun _ _ => rfl

end Sys2Proof.Machine
end

