-- ==== Sys2Proof/Laws/Memory.lean ====
section
/-! SUPPORT. Memory keeps its canonical form: the one predicate, and one lemma for each operation that can change what a byte
of memory holds; and what the basic operations do to one byte. -/

namespace Sys2Proof.Machine

/-- Both memories are in canonical form. -/
def State.MemOk (s : State) : Prop := s.mem.wf = true ∧ s.hostMem.wf = true

theorem reset_memOk : State.reset.MemOk := ⟨rfl, rfl⟩

/-- A state with the memories of a state in canonical form is in canonical form. -/
theorem memOk_of_eq {s t : State} (hs : s.MemOk) (hm : t.mem = s.mem) (hh : t.hostMem = s.hostMem) : t.MemOk := by
  unfold State.MemOk at *
  rw [hm, hh]
  exact hs

theorem foldl_memOk {α : Type} (f : State → α → State) (hf : ∀ s a, s.MemOk → (f s a).MemOk) :
    ∀ (l : List α) (s : State), s.MemOk → (l.foldl f s).MemOk
  | [], _, h => h
  | a :: l, s, h => foldl_memOk f hf l (f s a) (hf s a h)

/-- As `foldl_memOk`, for a fold that carries more than a state. -/
theorem foldl_fst_memOk {α β : Type} (f : State × β → α → State × β) (hf : ∀ x a, x.1.MemOk → (f x a).1.MemOk) :
    ∀ (l : List α) (x : State × β), x.1.MemOk → (l.foldl f x).1.MemOk
  | [], _, h => h
  | a :: l, x, h => foldl_fst_memOk f hf l (f x a) (hf x a h)

/-- Taking cells out of a canonical memory leaves it canonical. -/
theorem wf_filter (m : Memory) (p : Host.Cell → Bool) (h : m.wf = true) : Memory.wf (m.filter p) = true := by
  unfold Memory.wf at *
  rw [SMap.wf_iff] at *
  exact ⟨h.1.filter _, fun q hq => h.2 q (List.mem_of_mem_filter hq)⟩

theorem modCluster_memOk (s : State) (n : Nat) (f : Cluster → Cluster) (h : s.MemOk) : (s.modCluster n f).MemOk := h
theorem modCore_memOk (s : State) (n : Nat) (f : Core → Core) (h : s.MemOk) : (s.modCore n f).MemOk := h
theorem setPresent_memOk (s : State) (l c : Nat) (h : s.MemOk) : (s.setPresent l c).MemOk := h
theorem clearPresent_memOk (s : State) (l c : Nat) (h : s.MemOk) : (s.clearPresent l c).MemOk := h
theorem withMsc_memOk (s : State) (m : SMap MscLine) (h : s.MemOk) : ({ s with msc := m } : State).MemOk := h
theorem withPoison_memOk (s : State) (m : List Nat) (h : s.MemOk) : ({ s with homePoison := m } : State).MemOk := h

/-! ### One byte -/

theorem putMem_memOk (s : State) (k : Nat) (b : Byte) (h : s.MemOk) : (s.putMem k b).MemOk := by
  unfold State.putMem
  split
  · exact ⟨SMap.wf_put _ _ _ _ h.1, h.2⟩
  · exact ⟨h.1, SMap.wf_put _ _ _ _ h.2⟩

/-- A byte written reads as written, and every other byte as before. -/
@[simp] theorem putMem_readMem (s : State) (k j : Nat) (b : Byte) :
    (s.putMem k b).readMem j = if j = k then b else s.readMem j := by
  unfold State.putMem State.readMem
  generalize (2 : Nat) ^ 64 = top
  by_cases hk : k < top <;> by_cases hj : j < top <;> by_cases h : j = k <;> simp only [hk, hj, h, if_true, if_false,
    SMap.look_put]
  all_goals first
    | exact absurd (by omega) h
    | contradiction
    | rw [if_neg (by omega)]

/-! ### Lines -/

theorem postError_memOk (s : State) (r : BitVec 128) (h : s.MemOk) : (s.postError r).MemOk := by
  unfold State.postError
  split <;> exact h

theorem storeDram_memOk (s : State) (line : Nat) (m : MscLine) (h : s.MemOk) : (s.storeDram line m).MemOk := h

theorem mergeLine_memOk (s : State) (line : Nat) (v : BitVec 64) (f : Nat → Byte) (h : s.MemOk) :
    (s.mergeLine line v f).MemOk := by
  refine foldl_memOk _ ?_ _ _ h
  intro s i hs
  split
  · exact hs
  · exact putMem_memOk _ _ _ hs

theorem markHome_memOk (s : State) (on : Bool) (n : Nat) (h : s.MemOk) : (s.markHome on n).MemOk := by
  cases on <;> exact h

theorem dramFor_memOk (s : State) (line : Nat) (dr : DramRead) (h : s.MemOk) : (s.dramFor line dr).1.MemOk := by
  unfold State.dramFor
  split <;> exact h

theorem dramOutcome_memOk (s : State) (slot line : Nat) (dr : DramRead) (h : s.MemOk) :
    (s.dramOutcome slot line dr).MemOk := by
  have hu := dramFor_memOk s line dr h
  unfold State.dramOutcome
  generalize s.dramFor line dr = r at hu ⊢
  obtain ⟨u, d⟩ := r
  cases d with
  | clean => exact hu
  | free => exact hu
  | corrected => exact hu
  | transient => exact postError_memOk _ _ hu
  | lasting => exact postError_memOk _ _ (markHome_memOk _ _ _ (markHome_memOk _ _ _ hu))

theorem fetchLine_memOk (s : State) (slot line : Nat) (dr : DramRead) (h : s.MemOk) : (s.fetchLine slot line dr).MemOk := by
  unfold State.fetchLine
  refine dramOutcome_memOk _ _ _ _ (withMsc_memOk _ _ ?_)
  cases s.inDram line with
  | none => exact h
  | some d => exact markHome_memOk _ _ _ (markHome_memOk _ _ _ (mergeLine_memOk _ _ _ _ h))

theorem loseLine_memOk (s : State) (line : Nat) (h : s.MemOk) : (s.loseLine line).MemOk :=
  foldl_memOk _ (fun _ _ hs => putMem_memOk _ _ _ hs) _ _ h

theorem evictHome_memOk (s : State) (line : Nat) (m : MscLine) (h : s.MemOk) : (s.evictHome line m).MemOk := by
  unfold State.evictHome
  refine withMsc_memOk _ _ ?_
  split
  · refine storeDram_memOk _ _ _ ?_
    split
    · exact h
    · exact fetchLine_memOk _ _ _ _ h
  · exact h

theorem roomHome_memOk (s : State) (line : Nat) (h : s.MemOk) : (s.roomHome line).MemOk := by
  unfold State.roomHome
  dsimp only
  split
  · exact h
  · split
    · exact evictHome_memOk _ _ _ h
    · exact h

theorem seatHome_memOk (s : State) (slot line : Nat) (h : s.MemOk) : (s.seatHome slot line).MemOk := by
  unfold State.seatHome
  split
  · split
    · exact h
    · exact evictHome_memOk _ _ _ h
  · exact roomHome_memOk _ _ h

theorem fill_memOk (s : State) (slot k : Nat) (dr : DramRead) (h : s.MemOk) : (s.fill slot k dr).MemOk := by
  unfold State.fill
  split
  · exact h
  · exact fetchLine_memOk _ _ _ _ (seatHome_memOk _ _ _ h)

theorem homePut_memOk (s : State) (slot k : Nat) (b : Byte) (h : s.MemOk) : (s.homePut slot k b).MemOk := by
  unfold State.homePut
  split
  · exact putMem_memOk s k b h
  · split
    · exact h
    · exact withMsc_memOk _ _ (putMem_memOk _ _ _ (seatHome_memOk _ _ _ h))

/-- A home put under a slot that is not blocked, to a line held under it or to host memory, writes its one byte. -/
theorem homePut_readMem (s : State) (slot k j : Nat) (b : Byte)
    (h : 2 ^ 64 ≤ k ∨ (s.keySlot slot).blocked = false ∧ ∃ m, findKey s.msc (k / 64) = some m ∧ m.slot = slot) :
    (s.homePut slot k b).readMem j = if j = k then b else s.readMem j := by
  unfold State.homePut
  split
  · exact putMem_readMem s k j b
  · obtain ⟨hb, m, hm, hs⟩ := h.resolve_left ‹_›
    rw [if_neg (by simp [hb])]
    simp only [State.seatHome, hm, hs, if_true]
    exact putMem_readMem s k j b

/-! ### Home writes and the levels -/

theorem dropClusterLine_memOk (s : State) (c line : Nat) (h : s.MemOk) : (s.dropClusterLine c line).MemOk := h

theorem recall_memOk (s : State) (frm : Option Nat) (lines : List Nat) (h : s.MemOk) : (s.recall frm lines).MemOk := by
  refine foldl_memOk _ ?_ _ _ h
  intro s line hs
  refine foldl_memOk _ ?_ _ _ hs
  intro s c hs
  split
  · exact clearPresent_memOk _ _ _ (dropClusterLine_memOk _ _ _
      (foldl_memOk _ (fun _ _ hs => homePut_memOk _ _ _ _ hs) _ _ hs))
  · exact hs

theorem applyHome_memOk (s : State) (slot : Nat) (ks : List Nat) (ws : List (Nat × Byte)) (h : s.MemOk) :
    (s.applyHome slot ks ws).MemOk :=
  withPoison_memOk _ _ (foldl_memOk _ (fun _ _ hs => homePut_memOk _ _ _ _ hs) ws _ h)

theorem recallBytes_memOk (s : State) (ctx : Nat) (ks : List Nat) (h : s.MemOk) : (s.recallBytes ctx ks).1.MemOk :=
  applyHome_memOk _ _ _ _ (recall_memOk _ _ _ h)

theorem homeWrite_memOk (s : State) (slot : Nat) (frm : Option Nat) (ws : List (Nat × Byte)) (h : s.MemOk) :
    (s.homeWrite slot frm ws).MemOk := applyHome_memOk _ _ _ _ (recall_memOk _ _ _ h)

theorem clusterDown_memOk (s : State) (c line : Nat) (h : s.MemOk) : (s.clusterDown c line).MemOk :=
  dropClusterLine_memOk _ _ _ (homeWrite_memOk s _ _ _ h)

theorem ownCluster_memOk (s : State) (c ctx line : Nat) (h : s.MemOk) : (s.ownCluster c ctx line).MemOk := by
  unfold State.ownCluster
  split
  · exact clusterDown_memOk _ _ _ h
  · exact h

theorem allocLine_memOk (s : State) (c line rc : Nat) (h : s.MemOk) : (s.allocLine c line rc).1.MemOk := by
  have hd : ({ s with draws := s.draws + 1 } : State).MemOk := h
  unfold State.allocLine
  dsimp only
  split
  · exact h
  · split
    · exact h
    · split
      · exact modCluster_memOk _ _ _ h
      · refine modCluster_memOk _ _ _ ?_
        split
        · exact clusterDown_memOk _ _ _ hd
        · exact hd

theorem writeCluster_memOk (s : State) (c : Nat) (ws : List (Nat × LByte)) (h : s.MemOk) : (s.writeCluster c ws).MemOk := by
  refine foldl_memOk _ ?_ _ _ h
  intro s line hs
  have ha := fun ctx => allocLine_memOk _ c line 0 (ownCluster_memOk s c ctx line hs)
  dsimp only
  split
  · exact setPresent_memOk _ _ _ (modCluster_memOk _ _ _ (ha _))
  · exact homeWrite_memOk _ _ _ _ (ha _)

theorem countLines_memOk (s : State) (c : Nat) (old : Cluster) (rc : Nat) (ls : List Nat) (h : s.MemOk) :
    (s.countLines c old rc ls).MemOk := by
  unfold State.countLines
  split <;> exact h

theorem pushCluster_memOk (s : State) (c : Nat) (d : List (Nat × LByte)) (h : s.MemOk) : (s.pushCluster c d).MemOk :=
  countLines_memOk _ _ _ _ _ (writeCluster_memOk s _ _ h)

theorem coreDown_memOk (s : State) (k line : Nat) (h : s.MemOk) : (s.coreDown k line).MemOk :=
  modCore_memOk _ _ _ (pushCluster_memOk s _ _ h)

theorem seatCore_memOk (s : State) (core line : Nat) (h : s.MemOk) : (s.seatCore core line).MemOk := by
  unfold State.seatCore
  refine modCore_memOk _ _ _ ?_
  split
  · exact h
  · refine modCore_memOk _ _ _ ?_
    split
    · exact coreDown_memOk _ _ _ h
    · exact h

theorem readHome_memOk (s : State) (slot k : Nat) (dr : DramRead) (h : s.MemOk) : (s.readHome slot k dr).1.MemOk :=
  fill_memOk s _ _ _ h

theorem readEngine_memOk (s : State) (c : Option Nat) (slot k : Nat) (dr : DramRead) (h : s.MemOk) :
    (s.readEngine c slot k dr).1.MemOk := by
  unfold State.readEngine
  split
  · have ho := ownCluster_memOk s ‹_› slot (k / 64) h
    dsimp only
    split
    · exact ho
    · exact readHome_memOk _ _ _ _ ho
  · exact readHome_memOk _ _ _ _ h

theorem readBelow_memOk (s : State) (c k va ctx rc : Nat) (dr : DramRead) (h : s.MemOk) :
    (s.readBelow c k va ctx rc dr).1.MemOk := by
  have ho := ownCluster_memOk s c ctx (k / 64) h
  unfold State.readBelow
  dsimp only
  split
  · exact ho
  · have ha := allocLine_memOk _ c (k / 64) rc (fill_memOk _ ctx k dr ho)
    split
    · exact setPresent_memOk _ _ _ (modCluster_memOk _ _ _ ha)
    · exact ha

theorem fetchByte_memOk (s : State) (core k va ctx rc : Nat) (dr : DramRead) (h : s.MemOk) :
    (s.fetchByte core k va ctx rc dr).MemOk := by
  have hb := readBelow_memOk s (clusterOf core) k va ctx rc dr h
  unfold State.fetchByte
  generalize s.readBelow (clusterOf core) k va ctx rc dr = r at hb ⊢
  exact modCore_memOk _ _ _ hb

theorem fetchSector_memOk (s : State) (core k va ctx rc : Nat) (dr : DramRead) (h : s.MemOk) :
    (s.fetchSector core k va ctx rc dr).MemOk := by
  have hf := foldl_memOk (fun s i => s.fetchByte core (k / 32 * 32 + i) (va / 32 * 32 + i) ctx rc dr)
    (fun s i hs => fetchByte_memOk s _ _ _ _ _ _ hs) (List.range 32) _ (seatCore_memOk s core (tagged ctx k / 64) h)
  unfold State.fetchSector
  generalize (List.range 32).foldl _ _ = t at hf ⊢
  exact hf

theorem loadByte_memOk (s : State) (core k va ctx rc : Nat) (dr : DramRead) (h : s.MemOk) :
    (s.loadByte core k va ctx rc dr).1.MemOk := by
  unfold State.loadByte
  dsimp only
  split
  · exact modCore_memOk _ _ _ h
  · split
    · have hb := readBelow_memOk s (clusterOf core) k va ctx rc dr h
      generalize s.readBelow (clusterOf core) k va ctx rc dr = r at hb ⊢
      exact hb
    · exact fetchSector_memOk _ _ _ _ _ _ _ h

theorem readPoint_memOk (s : State) (core : Nat) (p : Point) (k va ctx rc : Nat) (dr : DramRead) (h : s.MemOk) :
    (s.readPoint core p k va ctx rc dr).1.MemOk := by
  cases p with
  | core => exact loadByte_memOk _ _ _ _ _ _ _ h
  | cluster => exact readBelow_memOk _ _ _ _ _ _ _ h
  | home => exact readHome_memOk _ _ _ _ h

theorem writeCore_memOk (s : State) (core ctx : Nat) (lb : List (Nat × LByte)) (h : s.MemOk) :
    (s.writeCore core ctx lb).MemOk :=
  modCore_memOk _ _ _ (foldl_memOk _ (fun _ _ hs => seatCore_memOk _ _ _ hs) _ _ h)

theorem writePoint_memOk (s : State) (core : Nat) (p : Point) (ctx : Nat) (ks : List Nat) (ws : List (Nat × Nat × Byte))
    (h : s.MemOk) : (s.writePoint core p ctx ks ws).MemOk := by
  cases p with
  | core => exact writeCore_memOk _ _ _ _ h
  | cluster => exact writeCluster_memOk _ _ _ h
  | home => exact applyHome_memOk _ _ _ _ (recall_memOk _ _ _ h)

theorem pushDown_memOk (s : State) (core : Nat) (p : Point) (ctx : Nat) (ks : List Nat) (h : s.MemOk) :
    (s.pushDown core p ctx ks).MemOk := by
  have step2 : ∀ t : State, t.MemOk →
      (if p = .home then
        let t := (linesOf ks).foldl (fun s l => s.ownCluster (clusterOf core) ctx l) t
        let d := ks.filterMap fun k =>
          ((t.cluster (clusterOf core)).level.find k).bind fun b => if b.dirty then some (k, b) else none
        if d.isEmpty then t
        else (t.homeWrite ctx (some (clusterOf core)) (d.map fun q => (q.1, q.2.val))).modCluster (clusterOf core) fun x =>
          { x with level := d.foldl (fun lv q => lv.dropByte q.1) x.level }
      else t).MemOk := by
    intro t ht
    have ho : ((linesOf ks).foldl (fun s l => s.ownCluster (clusterOf core) ctx l) t).MemOk :=
      foldl_memOk _ (fun _ _ hs => ownCluster_memOk _ _ _ _ hs) _ _ ht
    split
    · dsimp only
      split
      · exact ho
      · exact modCluster_memOk _ _ _ (homeWrite_memOk _ _ _ _ ho)
    · exact ht
  refine step2 _ ?_
  split
  · exact h
  · exact modCore_memOk _ _ _ (pushCluster_memOk _ _ _ h)

/-! ### Drains and invalidations -/

theorem drainCore_memOk (s : State) (core ctx : Nat) (objs : List (Option Nat)) (h : s.MemOk) :
    (s.drainCore core ctx objs).MemOk :=
  foldl_memOk _ (fun _ _ hs => coreDown_memOk _ _ _ hs) _ _ h

theorem drainCluster_memOk (s : State) (c ctx : Nat) (objs : List (Option Nat)) (h : s.MemOk) :
    (s.drainCluster c ctx objs).MemOk :=
  foldl_memOk _ (fun _ _ hs => clusterDown_memOk _ _ _ hs) _ _ h

theorem invalidateCore_memOk (s : State) (core ctx : Nat) (objs : List (Option Nat)) (h : s.MemOk) :
    (s.invalidateCore core ctx objs).MemOk :=
  foldl_memOk _ (fun _ _ hs => coreDown_memOk _ _ _ hs) _ _ h

theorem drain_memOk (s : State) (core ctx : Nat) (place : Placement) (sc : Scope) (objs : List (Option Nat)) (h : s.MemOk) :
    (s.drain core ctx place sc objs).MemOk := by
  unfold State.drain
  split
  · exact h
  · exact drainCore_memOk _ _ _ _ h
  · exact drainCluster_memOk _ _ _ _ (drainCore_memOk _ _ _ _ h)

theorem invalidate_memOk (s : State) (core ctx : Nat) (place : Placement) (sc : Scope) (objs : List (Option Nat))
    (h : s.MemOk) : (s.invalidate core ctx place sc objs).MemOk := by
  unfold State.invalidate
  split
  · exact h
  · exact invalidateCore_memOk _ _ _ _ h

/-! ### Firmware and the host -/

theorem zeroFrame_memOk (s : State) (c base size : Nat) (h : s.MemOk) : (s.zeroFrame c base size).MemOk :=
  ⟨wf_filter _ _ h.1, h.2⟩

theorem readHomes_memOk (s : State) (slot a n : Nat) (dr : DramRead) (h : s.MemOk) :
    (s.readHomes slot a n dr).1.MemOk := by
  refine foldl_fst_memOk _ ?_ _ _ h
  intro x i hx
  exact readHome_memOk _ _ _ _ hx

theorem writeDownAll_memOk (s : State) (c : Nat) (h : s.MemOk) : (s.writeDownAll c).MemOk := by
  have h1 : ((s.cores.map (·.1)).foldl (fun (s : State) k =>
      ((s.core k).level.linesOf c).foldl (fun s l => s.coreDown k l) s) s).MemOk :=
    foldl_memOk _ (fun _ _ hs => foldl_memOk _ (fun _ _ hs => coreDown_memOk _ _ _ hs) _ _ hs) _ _ h
  unfold State.writeDownAll
  generalize (s.cores.map (·.1)).foldl (fun (s : State) k =>
      ((s.core k).level.linesOf c).foldl (fun s l => s.coreDown k l) s) s = t at h1
  exact foldl_memOk _ (fun _ _ hs => foldl_memOk _ (fun _ _ hs =>
    dropClusterLine_memOk _ _ _ (clusterDown_memOk _ _ _ hs)) _ _ hs) _ _ h1

theorem writeBackLine_memOk (failed : List Nat) (x : State × List Nat) (l : Nat) (h : x.1.MemOk) :
    (State.writeBackLine failed x l).1.MemOk := by
  unfold State.writeBackLine
  split
  · split
    · exact h
    · split
      · exact postError_memOk _ _ (loseLine_memOk _ _ h)
      · refine storeDram_memOk _ _ _ ?_
        split
        · exact h
        · exact fetchLine_memOk _ _ _ _ h
  · exact h

theorem writeBack_memOk (s : State) (lines failed : List Nat) (h : s.MemOk) : (s.writeBack lines failed).1.MemOk :=
  foldl_fst_memOk _ (writeBackLine_memOk failed) lines (s, []) h

end Sys2Proof.Machine
end

