-- ==== Sys2Proof/Laws/PerInstr.lean ====
section
/-! SUPPORT. What holds of every instruction as syntax, one lemma per constructor: the length code of R216 in an encoding,
and that a transition has no encoding. -/

namespace Sys2Proof.Laws.Length

/-- The two low bits of an encoding give its length: 64, 96 or 128 bits for 0, 1 or 2 (R216); a transition has none. -/
def Statement (i : Instr) : Prop :=
  i.nbits = 0 ∨ (encode i % 4 < 3 ∧ i.nbits = lenBits (encode i % 4))

/-- A header and fields above it that are whole multiples of four. -/
theorem of_header (len fmt op e n : Nat) (he : 4 ∣ e) (hl : len < 3) (hn : n = lenBits len) :
    (header len fmt op + e) % 4 < 3 ∧ n = lenBits ((header len fmt op + e) % 4) := by
  obtain ⟨k, rfl⟩ := he
  have h : (header len fmt op + 4 * k) % 4 = len := by
    unfold header
    omega
  rw [h]
  exact ⟨hl, hn⟩

theorem encCh_dvd (x : ChArgs) : 4 ∣ encCh x := by
  unfold encCh
  omega
theorem encSo_dvd (x : SoArgs) : 4 ∣ encSo x := by
  unfold encSo
  omega
theorem encSk_dvd (x : SkArgs) : 4 ∣ encSk x := by
  unfold encSk
  omega
theorem encVo_dvd (x : VoArgs) : 4 ∣ encVo x := by
  unfold encVo
  omega
theorem encVw_dvd (x : VwArgs) : 4 ∣ encVw x := by
  unfold encVw
  omega
theorem encVk_dvd (x : VkArgs) : 4 ∣ encVk x := by
  unfold encVk
  omega
theorem encVm_dvd (x : VmArgs) : 4 ∣ encVm x := by
  unfold encVm
  omega
theorem encSf_dvd (x : SfArgs) : 4 ∣ encSf x := by
  unfold encSf
  omega
theorem encXl_dvd (x : XlArgs) : 4 ∣ encXl x := by
  unfold encXl
  omega
theorem encBc_dvd (x : BcArgs) : 4 ∣ encBc x := by
  unfold encBc
  omega
theorem encXf_dvd (x : XfArgs) : 4 ∣ encXf x := by
  unfold encXf
  omega
theorem encMa_dvd (x : MaArgs) : 4 ∣ encMa x := by
  unfold encMa
  omega
theorem encMx96_dvd (x : MxArgs) : 4 ∣ encMx96 x := by
  unfold encMx96
  omega
theorem encMx128_dvd (x : MxArgs) : 4 ∣ encMx128 x := by
  unfold encMx128
  omega
theorem encMs_dvd (x : MsArgs) : 4 ∣ encMs x := by
  unfold encMs
  omega
theorem encCe_dvd (x : CeArgs) : 4 ∣ encCe x := by
  unfold encCe
  omega
theorem encMf_dvd (x : MfArgs) : 4 ∣ encMf x := by
  unfold encMf
  omega
theorem encTo_dvd (x : ToArgs) : 4 ∣ encTo x := by
  unfold encTo
  omega
theorem encTq_dvd (x : TqArgs) : 4 ∣ encTq x := by
  unfold encTq
  omega
theorem encGx_dvd (x : GxArgs) : 4 ∣ encGx x := by
  unfold encGx
  omega
theorem encTa_dvd (x : TaArgs) : 4 ∣ encTa x := by
  unfold encTa
  omega
theorem encNm_dvd (x : NmArgs) : 4 ∣ encNm x := by
  unfold encNm
  omega
theorem encLs_dvd (x : LsArgs) : 4 ∣ encLs x := by
  unfold encLs
  omega
theorem encSy_dvd (x : SyArgs) : 4 ∣ encSy x := by
  unfold encSy
  omega

theorem ch (x : ChArgs) : Statement (.ch x) := .inr (of_header 0 1 0 _ _ (encCh_dvd x) (by decide) rfl)
theorem soAdd (x : SoArgs) : Statement (.soAdd x) := .inr (of_header 0 2 0 _ _ (encSo_dvd x) (by decide) rfl)
theorem soSub (x : SoArgs) : Statement (.soSub x) := .inr (of_header 0 2 1 _ _ (encSo_dvd x) (by decide) rfl)
theorem soMul (x : SoArgs) : Statement (.soMul x) := .inr (of_header 0 2 2 _ _ (encSo_dvd x) (by decide) rfl)
theorem soMulh (x : SoArgs) : Statement (.soMulh x) := .inr (of_header 0 2 3 _ _ (encSo_dvd x) (by decide) rfl)
theorem soAnd (x : SoArgs) : Statement (.soAnd x) := .inr (of_header 0 2 4 _ _ (encSo_dvd x) (by decide) rfl)
theorem soOr (x : SoArgs) : Statement (.soOr x) := .inr (of_header 0 2 5 _ _ (encSo_dvd x) (by decide) rfl)
theorem soXor (x : SoArgs) : Statement (.soXor x) := .inr (of_header 0 2 6 _ _ (encSo_dvd x) (by decide) rfl)
theorem soShl (x : SoArgs) : Statement (.soShl x) := .inr (of_header 0 2 7 _ _ (encSo_dvd x) (by decide) rfl)
theorem soShr (x : SoArgs) : Statement (.soShr x) := .inr (of_header 0 2 8 _ _ (encSo_dvd x) (by decide) rfl)
theorem soSra (x : SoArgs) : Statement (.soSra x) := .inr (of_header 0 2 9 _ _ (encSo_dvd x) (by decide) rfl)
theorem soMin (x : SoArgs) : Statement (.soMin x) := .inr (of_header 0 2 10 _ _ (encSo_dvd x) (by decide) rfl)
theorem soMax (x : SoArgs) : Statement (.soMax x) := .inr (of_header 0 2 11 _ _ (encSo_dvd x) (by decide) rfl)
theorem soCmp (x : SoArgs) : Statement (.soCmp x) := .inr (of_header 0 2 12 _ _ (encSo_dvd x) (by decide) rfl)
theorem soSel (x : SoArgs) : Statement (.soSel x) := .inr (of_header 0 2 13 _ _ (encSo_dvd x) (by decide) rfl)
theorem soBfe (x : SoArgs) : Statement (.soBfe x) := .inr (of_header 0 2 14 _ _ (encSo_dvd x) (by decide) rfl)
theorem soBfi (x : SoArgs) : Statement (.soBfi x) := .inr (of_header 0 2 15 _ _ (encSo_dvd x) (by decide) rfl)
theorem soPopc (x : SoArgs) : Statement (.soPopc x) := .inr (of_header 0 2 16 _ _ (encSo_dvd x) (by decide) rfl)
theorem soClz (x : SoArgs) : Statement (.soClz x) := .inr (of_header 0 2 17 _ _ (encSo_dvd x) (by decide) rfl)
theorem soAdd64 (x : SoArgs) : Statement (.soAdd64 x) := .inr (of_header 0 2 18 _ _ (encSo_dvd x) (by decide) rfl)
theorem soLea (x : SoArgs) : Statement (.soLea x) := .inr (of_header 0 2 19 _ _ (encSo_dvd x) (by decide) rfl)
theorem soMov (x : SoArgs) : Statement (.soMov x) := .inr (of_header 0 2 20 _ _ (encSo_dvd x) (by decide) rfl)
theorem soRdid (x : SoArgs) : Statement (.soRdid x) := .inr (of_header 0 2 21 _ _ (encSo_dvd x) (by decide) rfl)
theorem skMov (x : SkArgs) : Statement (.skMov x) := .inr (of_header 1 3 0 _ _ (encSk_dvd x) (by decide) rfl)
theorem skAdd (x : SkArgs) : Statement (.skAdd x) := .inr (of_header 1 3 1 _ _ (encSk_dvd x) (by decide) rfl)
theorem skAnd (x : SkArgs) : Statement (.skAnd x) := .inr (of_header 1 3 2 _ _ (encSk_dvd x) (by decide) rfl)
theorem skOr (x : SkArgs) : Statement (.skOr x) := .inr (of_header 1 3 3 _ _ (encSk_dvd x) (by decide) rfl)
theorem skXor (x : SkArgs) : Statement (.skXor x) := .inr (of_header 1 3 4 _ _ (encSk_dvd x) (by decide) rfl)
theorem skCmp (x : SkArgs) : Statement (.skCmp x) := .inr (of_header 1 3 5 _ _ (encSk_dvd x) (by decide) rfl)
theorem voAdd (x : VoArgs) : Statement (.voAdd x) := .inr (of_header 0 4 0 _ _ (encVo_dvd x) (by decide) rfl)
theorem voSub (x : VoArgs) : Statement (.voSub x) := .inr (of_header 0 4 1 _ _ (encVo_dvd x) (by decide) rfl)
theorem voMull (x : VoArgs) : Statement (.voMull x) := .inr (of_header 0 4 2 _ _ (encVo_dvd x) (by decide) rfl)
theorem voMulh (x : VoArgs) : Statement (.voMulh x) := .inr (of_header 0 4 3 _ _ (encVo_dvd x) (by decide) rfl)
theorem voAnd (x : VoArgs) : Statement (.voAnd x) := .inr (of_header 0 4 4 _ _ (encVo_dvd x) (by decide) rfl)
theorem voOr (x : VoArgs) : Statement (.voOr x) := .inr (of_header 0 4 5 _ _ (encVo_dvd x) (by decide) rfl)
theorem voXor (x : VoArgs) : Statement (.voXor x) := .inr (of_header 0 4 6 _ _ (encVo_dvd x) (by decide) rfl)
theorem voShl (x : VoArgs) : Statement (.voShl x) := .inr (of_header 0 4 7 _ _ (encVo_dvd x) (by decide) rfl)
theorem voShr (x : VoArgs) : Statement (.voShr x) := .inr (of_header 0 4 8 _ _ (encVo_dvd x) (by decide) rfl)
theorem voSra (x : VoArgs) : Statement (.voSra x) := .inr (of_header 0 4 9 _ _ (encVo_dvd x) (by decide) rfl)
theorem voMin (x : VoArgs) : Statement (.voMin x) := .inr (of_header 0 4 10 _ _ (encVo_dvd x) (by decide) rfl)
theorem voMax (x : VoArgs) : Statement (.voMax x) := .inr (of_header 0 4 11 _ _ (encVo_dvd x) (by decide) rfl)
theorem voAbs (x : VoArgs) : Statement (.voAbs x) := .inr (of_header 0 4 12 _ _ (encVo_dvd x) (by decide) rfl)
theorem voBfe (x : VoArgs) : Statement (.voBfe x) := .inr (of_header 0 4 13 _ _ (encVo_dvd x) (by decide) rfl)
theorem voPopc (x : VoArgs) : Statement (.voPopc x) := .inr (of_header 0 4 14 _ _ (encVo_dvd x) (by decide) rfl)
theorem voClz (x : VoArgs) : Statement (.voClz x) := .inr (of_header 0 4 15 _ _ (encVo_dvd x) (by decide) rfl)
theorem voBrev (x : VoArgs) : Statement (.voBrev x) := .inr (of_header 0 4 16 _ _ (encVo_dvd x) (by decide) rfl)
theorem voFadd (x : VoArgs) : Statement (.voFadd x) := .inr (of_header 0 4 17 _ _ (encVo_dvd x) (by decide) rfl)
theorem voFsub (x : VoArgs) : Statement (.voFsub x) := .inr (of_header 0 4 18 _ _ (encVo_dvd x) (by decide) rfl)
theorem voFmul (x : VoArgs) : Statement (.voFmul x) := .inr (of_header 0 4 19 _ _ (encVo_dvd x) (by decide) rfl)
theorem voFmin (x : VoArgs) : Statement (.voFmin x) := .inr (of_header 0 4 20 _ _ (encVo_dvd x) (by decide) rfl)
theorem voFmax (x : VoArgs) : Statement (.voFmax x) := .inr (of_header 0 4 21 _ _ (encVo_dvd x) (by decide) rfl)
theorem voCvt (x : VoArgs) : Statement (.voCvt x) := .inr (of_header 0 4 22 _ _ (encVo_dvd x) (by decide) rfl)
theorem voRnd (x : VoArgs) : Statement (.voRnd x) := .inr (of_header 0 4 23 _ _ (encVo_dvd x) (by decide) rfl)
theorem voSel (x : VoArgs) : Statement (.voSel x) := .inr (of_header 0 4 24 _ _ (encVo_dvd x) (by decide) rfl)
theorem voMov (x : VoArgs) : Statement (.voMov x) := .inr (of_header 0 4 25 _ _ (encVo_dvd x) (by decide) rfl)
theorem vwFma (x : VwArgs) : Statement (.vwFma x) := .inr (of_header 1 5 0 _ _ (encVw_dvd x) (by decide) rfl)
theorem vwMad (x : VwArgs) : Statement (.vwMad x) := .inr (of_header 1 5 1 _ _ (encVw_dvd x) (by decide) rfl)
theorem vwBfi (x : VwArgs) : Statement (.vwBfi x) := .inr (of_header 1 5 2 _ _ (encVw_dvd x) (by decide) rfl)
theorem vwCvtsr (x : VwArgs) : Statement (.vwCvtsr x) := .inr (of_header 1 5 3 _ _ (encVw_dvd x) (by decide) rfl)
theorem vwPack (x : VwArgs) : Statement (.vwPack x) := .inr (of_header 1 5 4 _ _ (encVw_dvd x) (by decide) rfl)
theorem vkAdd (x : VkArgs) : Statement (.vkAdd x) := .inr (of_header 1 6 0 _ _ (encVk_dvd x) (by decide) rfl)
theorem vkMul (x : VkArgs) : Statement (.vkMul x) := .inr (of_header 1 6 1 _ _ (encVk_dvd x) (by decide) rfl)
theorem vkAnd (x : VkArgs) : Statement (.vkAnd x) := .inr (of_header 1 6 2 _ _ (encVk_dvd x) (by decide) rfl)
theorem vkOr (x : VkArgs) : Statement (.vkOr x) := .inr (of_header 1 6 3 _ _ (encVk_dvd x) (by decide) rfl)
theorem vkMov (x : VkArgs) : Statement (.vkMov x) := .inr (of_header 1 6 4 _ _ (encVk_dvd x) (by decide) rfl)
theorem vkFma (x : VkArgs) : Statement (.vkFma x) := .inr (of_header 1 6 5 _ _ (encVk_dvd x) (by decide) rfl)
theorem vp (op1 : VoOp) (x1 : VoArgs) (op2 : VoOp) (x2 : VoArgs) : Statement (.vp op1 x1 op2 x2) := by
  have h : 4 ∣ encVo x1 + (header 0 4 op2.code + encVo x2) * 2 ^ 64 :=
    (Nat.dvd_add (encVo_dvd x1) (Dvd.dvd.mul_left (by norm_num) _))
  have := of_header 2 7 op1.code _ 128 h (by decide) rfl
  rw [← Nat.add_assoc] at this
  exact .inr this
theorem vmCmp (x : VmArgs) : Statement (.vmCmp x) := .inr (of_header 0 8 0 _ _ (encVm_dvd x) (by decide) rfl)
theorem vmClass (x : VmArgs) : Statement (.vmClass x) := .inr (of_header 0 8 1 _ _ (encVm_dvd x) (by decide) rfl)
theorem sfRcp (x : SfArgs) : Statement (.sfRcp x) := .inr (of_header 0 9 0 _ _ (encSf_dvd x) (by decide) rfl)
theorem sfRsq (x : SfArgs) : Statement (.sfRsq x) := .inr (of_header 0 9 1 _ _ (encSf_dvd x) (by decide) rfl)
theorem sfSqrt (x : SfArgs) : Statement (.sfSqrt x) := .inr (of_header 0 9 2 _ _ (encSf_dvd x) (by decide) rfl)
theorem sfExp2 (x : SfArgs) : Statement (.sfExp2 x) := .inr (of_header 0 9 3 _ _ (encSf_dvd x) (by decide) rfl)
theorem sfLog2 (x : SfArgs) : Statement (.sfLog2 x) := .inr (of_header 0 9 4 _ _ (encSf_dvd x) (by decide) rfl)
theorem sfSin (x : SfArgs) : Statement (.sfSin x) := .inr (of_header 0 9 5 _ _ (encSf_dvd x) (by decide) rfl)
theorem sfCos (x : SfArgs) : Statement (.sfCos x) := .inr (of_header 0 9 6 _ _ (encSf_dvd x) (by decide) rfl)
theorem sfTanh (x : SfArgs) : Statement (.sfTanh x) := .inr (of_header 0 9 7 _ _ (encSf_dvd x) (by decide) rfl)
theorem sfSigm (x : SfArgs) : Statement (.sfSigm x) := .inr (of_header 0 9 8 _ _ (encSf_dvd x) (by decide) rfl)
theorem sfGelu (x : SfArgs) : Statement (.sfGelu x) := .inr (of_header 0 9 9 _ _ (encSf_dvd x) (by decide) rfl)
theorem sfSilu (x : SfArgs) : Statement (.sfSilu x) := .inr (of_header 0 9 10 _ _ (encSf_dvd x) (by decide) rfl)
theorem sfErf (x : SfArgs) : Statement (.sfErf x) := .inr (of_header 0 9 11 _ _ (encSf_dvd x) (by decide) rfl)
theorem xlShfl (x : XlArgs) : Statement (.xlShfl x) := .inr (of_header 0 10 0 _ _ (encXl_dvd x) (by decide) rfl)
theorem xlShflx (x : XlArgs) : Statement (.xlShflx x) := .inr (of_header 0 10 1 _ _ (encXl_dvd x) (by decide) rfl)
theorem xlBfly (x : XlArgs) : Statement (.xlBfly x) := .inr (of_header 0 10 2 _ _ (encXl_dvd x) (by decide) rfl)
theorem xlVote (x : XlArgs) : Statement (.xlVote x) := .inr (of_header 0 10 3 _ _ (encXl_dvd x) (by decide) rfl)
theorem xlRdln (x : XlArgs) : Statement (.xlRdln x) := .inr (of_header 0 10 4 _ _ (encXl_dvd x) (by decide) rfl)
theorem xlWrln (x : XlArgs) : Statement (.xlWrln x) := .inr (of_header 0 10 5 _ _ (encXl_dvd x) (by decide) rfl)
theorem xlScan (x : XlArgs) : Statement (.xlScan x) := .inr (of_header 0 10 6 _ _ (encXl_dvd x) (by decide) rfl)
theorem xlRed (x : XlArgs) : Statement (.xlRed x) := .inr (of_header 0 10 7 _ _ (encXl_dvd x) (by decide) rfl)
theorem bcBr (x : BcArgs) : Statement (.bcBr x) := .inr (of_header 0 11 0 _ _ (encBc_dvd x) (by decide) rfl)
theorem bcBrd (x : BcArgs) : Statement (.bcBrd x) := .inr (of_header 0 11 1 _ _ (encBc_dvd x) (by decide) rfl)
theorem bcJmp (x : BcArgs) : Statement (.bcJmp x) := .inr (of_header 0 11 2 _ _ (encBc_dvd x) (by decide) rfl)
theorem bcCall (x : BcArgs) : Statement (.bcCall x) := .inr (of_header 0 11 3 _ _ (encBc_dvd x) (by decide) rfl)
theorem bcRet (x : BcArgs) : Statement (.bcRet x) := .inr (of_header 0 11 4 _ _ (encBc_dvd x) (by decide) rfl)
theorem bcExit (x : BcArgs) : Statement (.bcExit x) := .inr (of_header 0 11 5 _ _ (encBc_dvd x) (by decide) rfl)
theorem bcNop (x : BcArgs) : Statement (.bcNop x) := .inr (of_header 0 11 6 _ _ (encBc_dvd x) (by decide) rfl)
theorem bcBrk (x : BcArgs) : Statement (.bcBrk x) := .inr (of_header 0 11 7 _ _ (encBc_dvd x) (by decide) rfl)
theorem xfQuant (x : XfArgs) : Statement (.xfQuant x) := .inr (of_header 1 12 0 _ _ (encXf_dvd x) (by decide) rfl)
theorem xfDq (x : XfArgs) : Statement (.xfDq x) := .inr (of_header 1 12 1 _ _ (encXf_dvd x) (by decide) rfl)
theorem xfSign (x : XfArgs) : Statement (.xfSign x) := .inr (of_header 1 12 2 _ _ (encXf_dvd x) (by decide) rfl)
theorem xfPack (x : XfArgs) : Statement (.xfPack x) := .inr (of_header 1 12 3 _ _ (encXf_dvd x) (by decide) rfl)
theorem maLd (x : MaArgs) : Statement (.maLd x) := .inr (of_header 1 13 0 _ _ (encMa_dvd x) (by decide) rfl)
theorem maSt (x : MaArgs) : Statement (.maSt x) := .inr (of_header 1 13 1 _ _ (encMa_dvd x) (by decide) rfl)
theorem maLdg (x : MaArgs) : Statement (.maLdg x) := .inr (of_header 1 13 2 _ _ (encMa_dvd x) (by decide) rfl)
theorem maStg (x : MaArgs) : Statement (.maStg x) := .inr (of_header 1 13 3 _ _ (encMa_dvd x) (by decide) rfl)
theorem maLds (x : MaArgs) : Statement (.maLds x) := .inr (of_header 1 13 4 _ _ (encMa_dvd x) (by decide) rfl)
theorem maSts (x : MaArgs) : Statement (.maSts x) := .inr (of_header 1 13 5 _ _ (encMa_dvd x) (by decide) rfl)
theorem maLdsc (x : MaArgs) : Statement (.maLdsc x) := .inr (of_header 1 13 6 _ _ (encMa_dvd x) (by decide) rfl)
theorem maPf (x : MaArgs) : Statement (.maPf x) := .inr (of_header 1 13 7 _ _ (encMa_dvd x) (by decide) rfl)
theorem maFpush (x : MaArgs) : Statement (.maFpush x) := .inr (of_header 1 13 8 _ _ (encMa_dvd x) (by decide) rfl)
theorem maFpop (x : MaArgs) : Statement (.maFpop x) := .inr (of_header 1 13 9 _ _ (encMa_dvd x) (by decide) rfl)
theorem mxAtom96 (x : MxArgs) : Statement (.mxAtom96 x) := .inr (of_header 1 14 0 _ _ (encMx96_dvd x) (by decide) rfl)
theorem mxAtom128 (x : MxArgs) : Statement (.mxAtom128 x) := .inr (of_header 2 14 0 _ _ (encMx128_dvd x) (by decide) rfl)
theorem mxCas96 (x : MxArgs) : Statement (.mxCas96 x) := .inr (of_header 1 14 1 _ _ (encMx96_dvd x) (by decide) rfl)
theorem mxCas128 (x : MxArgs) : Statement (.mxCas128 x) := .inr (of_header 2 14 1 _ _ (encMx128_dvd x) (by decide) rfl)
theorem mxFatom96 (x : MxArgs) : Statement (.mxFatom96 x) := .inr (of_header 1 14 2 _ _ (encMx96_dvd x) (by decide) rfl)
theorem mxFatom128 (x : MxArgs) : Statement (.mxFatom128 x) := .inr (of_header 2 14 2 _ _ (encMx128_dvd x) (by decide) rfl)
theorem mxRed96 (x : MxArgs) : Statement (.mxRed96 x) := .inr (of_header 1 14 3 _ _ (encMx96_dvd x) (by decide) rfl)
theorem mxRed128 (x : MxArgs) : Statement (.mxRed128 x) := .inr (of_header 2 14 3 _ _ (encMx128_dvd x) (by decide) rfl)
theorem msWaitc (x : MsArgs) : Statement (.msWaitc x) := .inr (of_header 0 15 0 _ _ (encMs_dvd x) (by decide) rfl)
theorem msWaitb (x : MsArgs) : Statement (.msWaitb x) := .inr (of_header 0 15 1 _ _ (encMs_dvd x) (by decide) rfl)
theorem msWaitm (x : MsArgs) : Statement (.msWaitm x) := .inr (of_header 0 15 2 _ _ (encMs_dvd x) (by decide) rfl)
theorem msCommit (x : MsArgs) : Statement (.msCommit x) := .inr (of_header 0 15 3 _ _ (encMs_dvd x) (by decide) rfl)
theorem msBarT (x : MsArgs) : Statement (.msBarT x) := .inr (of_header 0 15 4 _ _ (encMs_dvd x) (by decide) rfl)
theorem msBarR (x : MsArgs) : Statement (.msBarR x) := .inr (of_header 0 15 5 _ _ (encMs_dvd x) (by decide) rfl)
theorem msBarG (x : MsArgs) : Statement (.msBarG x) := .inr (of_header 0 15 6 _ _ (encMs_dvd x) (by decide) rfl)
theorem msBind (x : MsArgs) : Statement (.msBind x) := .inr (of_header 0 15 7 _ _ (encMs_dvd x) (by decide) rfl)
theorem msUnbind (x : MsArgs) : Statement (.msUnbind x) := .inr (of_header 0 15 8 _ _ (encMs_dvd x) (by decide) rfl)
theorem msQjoin (x : MsArgs) : Statement (.msQjoin x) := .inr (of_header 0 15 9 _ _ (encMs_dvd x) (by decide) rfl)
theorem msRclaim (x : MsArgs) : Statement (.msRclaim x) := .inr (of_header 0 15 10 _ _ (encMs_dvd x) (by decide) rfl)
theorem msRgive (x : MsArgs) : Statement (.msRgive x) := .inr (of_header 0 15 11 _ _ (encMs_dvd x) (by decide) rfl)
theorem msAcq (x : MsArgs) : Statement (.msAcq x) := .inr (of_header 0 15 12 _ _ (encMs_dvd x) (by decide) rfl)
theorem msRel (x : MsArgs) : Statement (.msRel x) := .inr (of_header 0 15 13 _ _ (encMs_dvd x) (by decide) rfl)
theorem ceCp (x : CeArgs) : Statement (.ceCp x) := .inr (of_header 2 16 0 _ _ (encCe_dvd x) (by decide) rfl)
theorem ceChain (x : CeArgs) : Statement (.ceChain x) := .inr (of_header 2 16 1 _ _ (encCe_dvd x) (by decide) rfl)
theorem ceFill (x : CeArgs) : Statement (.ceFill x) := .inr (of_header 2 16 2 _ _ (encCe_dvd x) (by decide) rfl)
theorem mfMma (x : MfArgs) : Statement (.mfMma x) := .inr (of_header 2 17 0 _ _ (encMf_dvd x) (by decide) rfl)
theorem mfMmasp (x : MfArgs) : Statement (.mfMmasp x) := .inr (of_header 2 17 1 _ _ (encMf_dvd x) (by decide) rfl)
theorem toLd (x : ToArgs) : Statement (.toLd x) := .inr (of_header 1 18 0 _ _ (encTo_dvd x) (by decide) rfl)
theorem toSt (x : ToArgs) : Statement (.toSt x) := .inr (of_header 1 18 1 _ _ (encTo_dvd x) (by decide) rfl)
theorem toZero (x : ToArgs) : Statement (.toZero x) := .inr (of_header 1 18 2 _ _ (encTo_dvd x) (by decide) rfl)
theorem toFree (x : ToArgs) : Statement (.toFree x) := .inr (of_header 1 18 3 _ _ (encTo_dvd x) (by decide) rfl)
theorem toDense (x : ToArgs) : Statement (.toDense x) := .inr (of_header 1 18 4 _ _ (encTo_dvd x) (by decide) rfl)
theorem toCmpr (x : ToArgs) : Statement (.toCmpr x) := .inr (of_header 1 18 5 _ _ (encTo_dvd x) (by decide) rfl)
theorem toAdd (x : ToArgs) : Statement (.toAdd x) := .inr (of_header 1 18 6 _ _ (encTo_dvd x) (by decide) rfl)
theorem toMul (x : ToArgs) : Statement (.toMul x) := .inr (of_header 1 18 7 _ _ (encTo_dvd x) (by decide) rfl)
theorem toGemm (x : ToArgs) : Statement (.toGemm x) := .inr (of_header 1 18 8 _ _ (encTo_dvd x) (by decide) rfl)
theorem toLu (x : ToArgs) : Statement (.toLu x) := .inr (of_header 1 18 9 _ _ (encTo_dvd x) (by decide) rfl)
theorem toTrsm (x : ToArgs) : Statement (.toTrsm x) := .inr (of_header 1 18 10 _ _ (encTo_dvd x) (by decide) rfl)
theorem toScal (x : ToArgs) : Statement (.toScal x) := .inr (of_header 1 18 11 _ _ (encTo_dvd x) (by decide) rfl)
theorem toTr (x : ToArgs) : Statement (.toTr x) := .inr (of_header 1 18 12 _ _ (encTo_dvd x) (by decide) rfl)
theorem toRound (x : ToArgs) : Statement (.toRound x) := .inr (of_header 1 18 13 _ _ (encTo_dvd x) (by decide) rfl)
theorem tqInfo (x : TqArgs) : Statement (.tqInfo x) := .inr (of_header 1 19 0 _ _ (encTq_dvd x) (by decide) rfl)
theorem tqGet (x : TqArgs) : Statement (.tqGet x) := .inr (of_header 1 19 1 _ _ (encTq_dvd x) (by decide) rfl)
theorem tqSet (x : TqArgs) : Statement (.tqSet x) := .inr (of_header 1 19 2 _ _ (encTq_dvd x) (by decide) rfl)
theorem gxAdd (x : GxArgs) : Statement (.gxAdd x) := .inr (of_header 1 20 0 _ _ (encGx_dvd x) (by decide) rfl)
theorem gxRead (x : GxArgs) : Statement (.gxRead x) := .inr (of_header 1 20 1 _ _ (encGx_dvd x) (by decide) rfl)
theorem gxStep (x : GxArgs) : Statement (.gxStep x) := .inr (of_header 1 20 2 _ _ (encGx_dvd x) (by decide) rfl)
theorem gxSpread (x : GxArgs) : Statement (.gxSpread x) := .inr (of_header 1 20 3 _ _ (encGx_dvd x) (by decide) rfl)
theorem gxCtl (x : GxArgs) : Statement (.gxCtl x) := .inr (of_header 1 20 4 _ _ (encGx_dvd x) (by decide) rfl)
theorem taRec (x : TaArgs) : Statement (.taRec x) := .inr (of_header 0 21 0 _ _ (encTa_dvd x) (by decide) rfl)
theorem taMark (x : TaArgs) : Statement (.taMark x) := .inr (of_header 0 21 1 _ _ (encTa_dvd x) (by decide) rfl)
theorem taPop (x : TaArgs) : Statement (.taPop x) := .inr (of_header 0 21 2 _ _ (encTa_dvd x) (by decide) rfl)
theorem taCtlFlush (x : TaArgs) : Statement (.taCtlFlush x) := .inr (of_header 0 21 3 _ _ (encTa_dvd x) (by decide) rfl)
theorem taCtlRewind (x : TaArgs) : Statement (.taCtlRewind x) := .inr (of_header 0 21 3 _ _ (encTa_dvd x) (by decide) rfl)
theorem taHash (x : TaArgs) : Statement (.taHash x) := .inr (of_header 0 21 4 _ _ (encTa_dvd x) (by decide) rfl)
theorem taGateOff (x : TaArgs) : Statement (.taGateOff x) := .inr (of_header 0 21 5 _ _ (encTa_dvd x) (by decide) rfl)
theorem taGateRec (x : TaArgs) : Statement (.taGateRec x) := .inr (of_header 0 21 5 _ _ (encTa_dvd x) (by decide) rfl)
theorem taGatePlay (x : TaArgs) : Statement (.taGatePlay x) := .inr (of_header 0 21 5 _ _ (encTa_dvd x) (by decide) rfl)
theorem nmUpd (x : NmArgs) : Statement (.nmUpd x) := .inr (of_header 2 22 0 _ _ (encNm_dvd x) (by decide) rfl)
theorem nmLandInst (x : NmArgs) : Statement (.nmLandInst x) := .inr (of_header 2 22 1 _ _ (encNm_dvd x) (by decide) rfl)
theorem nmLandRem (x : NmArgs) : Statement (.nmLandRem x) := .inr (of_header 2 22 1 _ _ (encNm_dvd x) (by decide) rfl)
theorem nmCtlDone (x : NmArgs) : Statement (.nmCtlDone x) := .inr (of_header 2 22 2 _ _ (encNm_dvd x) (by decide) rfl)
theorem lsLaunch (x : LsArgs) : Statement (.lsLaunch x) := .inr (of_header 1 23 0 _ _ (encLs_dvd x) (by decide) rfl)
theorem lsSpawn (x : LsArgs) : Statement (.lsSpawn x) := .inr (of_header 1 23 1 _ _ (encLs_dvd x) (by decide) rfl)
theorem syCsrr (x : SyArgs) : Statement (.syCsrr x) := .inr (of_header 0 24 0 _ _ (encSy_dvd x) (by decide) rfl)
theorem syCsrw (x : SyArgs) : Statement (.syCsrw x) := .inr (of_header 0 24 1 _ _ (encSy_dvd x) (by decide) rfl)
theorem syCsrs (x : SyArgs) : Statement (.syCsrs x) := .inr (of_header 0 24 2 _ _ (encSy_dvd x) (by decide) rfl)
theorem syCsrc (x : SyArgs) : Statement (.syCsrc x) := .inr (of_header 0 24 3 _ _ (encSy_dvd x) (by decide) rfl)
theorem syTrap (x : SyArgs) : Statement (.syTrap x) := .inr (of_header 0 24 4 _ _ (encSy_dvd x) (by decide) rfl)
theorem syTret (x : SyArgs) : Statement (.syTret x) := .inr (of_header 0 24 5 _ _ (encSy_dvd x) (by decide) rfl)
theorem syClk (x : SyArgs) : Statement (.syClk x) := .inr (of_header 0 24 6 _ _ (encSy_dvd x) (by decide) rfl)
theorem syRng (x : SyArgs) : Statement (.syRng x) := .inr (of_header 0 24 7 _ _ (encSy_dvd x) (by decide) rfl)
theorem storePerform (g op : Nat) (lane : Option Nat) : Statement (.storePerform g op lane) := .inl rfl
theorem loadPerform (g op : Nat) (part : Option Part) (dr : DramRead) : Statement (.loadPerform g op part dr) := .inl rfl
theorem coreWriteDown (core line : Nat) : Statement (.coreWriteDown core line) := .inl rfl
theorem clusterWriteDown (cluster line : Nat) : Statement (.clusterWriteDown cluster line) := .inl rfl
theorem dropLine (atCore : Bool) (unit line : Nat) : Statement (.dropLine atCore unit line) := .inl rfl
theorem releasePerform (g op : Nat) (dr : DramRead) : Statement (.releasePerform g op dr) := .inl rfl
theorem acquirePerform (g op : Nat) (dr : DramRead) : Statement (.acquirePerform g op dr) := .inl rfl
theorem atomicPerform (g op addr : Nat) (dr : DramRead) : Statement (.atomicPerform g op addr dr) := .inl rfl
theorem scratchAccessPerform (g op : Nat) (lane : Option Nat) : Statement (.scratchAccessPerform g op lane) := .inl rfl
theorem fifoPushPerform (g op : Nat) : Statement (.fifoPushPerform g op) := .inl rfl
theorem fifoPopPerform (g op : Nat) : Statement (.fifoPopPerform g op) := .inl rfl
theorem pinCounterAgeing (cluster : Nat) : Statement (.pinCounterAgeing cluster) := .inl rfl
theorem mscWriteback (line : Nat) (ok : Bool) : Statement (.mscWriteback line ok) := .inl rfl
theorem patrolScrub (line : Nat) (dr : DramRead) (sram : Option Bool) : Statement (.patrolScrub line dr sram) := .inl rfl
theorem faultReplay (r : IgRef) : Statement (.faultReplay r) := .inl rfl
theorem engineEntryResume (eng : EngineId) : Statement (.engineEntryResume eng) := .inl rfl
theorem queueJoinPerform (join : Nat) : Statement (.queueJoinPerform join) := .inl rfl
theorem copyChunkLand (core q chunk : Nat) (dr : DramRead) : Statement (.copyChunkLand core q chunk dr) := .inl rfl
theorem tileEntryStart (pair entry : Nat) : Statement (.tileEntryStart pair entry) := .inl rfl
theorem tileCommit (pair entry : Nat) (dr : DramRead) : Statement (.tileCommit pair entry dr) := .inl rfl
theorem transformEntryComplete (move : XformMove) : Statement (.transformEntryComplete move) := .inl rfl
theorem nmuUpdate (stack : Nat) (dr : DramRead) : Statement (.nmuUpdate stack dr) := .inl rfl
theorem landingInstall (stack : Nat) : Statement (.landingInstall stack) := .inl rfl
theorem landingRemove (stack : Nat) : Statement (.landingRemove stack) := .inl rfl
theorem nmuDoneWrite (stack : Nat) : Statement (.nmuDoneWrite stack) := .inl rfl
theorem reductionPacket (src : PacketSrc) : Statement (.reductionPacket src) := .inl rfl
theorem gossipDeparture (ctx rgn : Nat) : Statement (.gossipDeparture ctx rgn) := .inl rfl
theorem gossipArrival (ctx rgn link : Nat) (p : GxPacket) : Statement (.gossipArrival ctx rgn link p) := .inl rfl
theorem gossipBounce (ctx rgn seq : Nat) : Statement (.gossipBounce ctx rgn seq) := .inl rfl
theorem gossipAck (ctx rgn seq : Nat) : Statement (.gossipAck ctx rgn seq) := .inl rfl
theorem gossipSweep (ctx rgn : Nat) : Statement (.gossipSweep ctx rgn) := .inl rfl
theorem gossipInitComplete (ctx rgn : Nat) : Statement (.gossipInitComplete ctx rgn) := .inl rfl
theorem gossipModeEffect (ctx rgn : Nat) : Statement (.gossipModeEffect ctx rgn) := .inl rfl
theorem linkFailure (link : Nat) : Statement (.linkFailure link) := .inl rfl
theorem linkRetrain (link : Nat) (last : List (Nat × Nat × Nat)) (partnerReset : Bool) : Statement (.linkRetrain link last partnerReset) := .inl rfl
theorem peerRequest (req : PeerReq) : Statement (.peerRequest req) := .inl rfl
theorem peerAcknowledgement (peer : Nat) (ans : PeerAns) : Statement (.peerAcknowledgement peer ans) := .inl rfl
theorem hostCxlMemRead (addr n : Nat) (dr : DramRead) : Statement (.hostCxlMemRead addr n dr) := .inl rfl
theorem hostCxlMemWrite (addr : Nat) (data : List Byte) : Statement (.hostCxlMemWrite addr data) := .inl rfl
theorem hostCxlSnoop (addr : Nat) (data : List Byte) : Statement (.hostCxlSnoop addr data) := .inl rfl
theorem hostWindowWrite (n : Nat) (e : BitVec 128) : Statement (.hostWindowWrite n e) := .inl rfl
theorem hostWindowReadback (n : Nat) : Statement (.hostWindowReadback n) := .inl rfl
theorem teamPlace : Statement .teamPlace := .inl rfl
theorem teamEnd (team : Nat) : Statement (.teamEnd team) := .inl rfl
theorem scratchReclaim (alloc : Nat) : Statement (.scratchReclaim alloc) := .inl rfl
theorem granuleReturn (g : Nat) : Statement (.granuleReturn g) := .inl rfl
theorem rclaimServed (core : Nat) : Statement (.rclaimServed core) := .inl rfl
theorem pathTimeout (r : IgRef) : Statement (.pathTimeout r) := .inl rfl
theorem blockedTimeTick (role : Nat) : Statement (.blockedTimeTick role) := .inl rfl
theorem spawnTimerExpiry (core bin : Nat) : Statement (.spawnTimerExpiry core bin) := .inl rfl
theorem spawnBinLaunch (core bin : Nat) : Statement (.spawnBinLaunch core bin) := .inl rfl
theorem preemptTrigger (ctx : Nat) : Statement (.preemptTrigger ctx) := .inl rfl
theorem tapeEntryPerform (g : Nat) : Statement (.tapeEntryPerform g) := .inl rfl
theorem bankDrainComplete (cluster bank : Nat) : Statement (.bankDrainComplete cluster bank) := .inl rfl
theorem bankClearComplete (cluster bank : Nat) : Statement (.bankClearComplete cluster bank) := .inl rfl
theorem deviceReset : Statement .deviceReset := .inl rfl
theorem thermalThrottle (steps : Nat) : Statement (.thermalThrottle steps) := .inl rfl
theorem thermalCutoff : Statement .thermalCutoff := .inl rfl
theorem coolantFlowLow (low : Bool) : Statement (.coolantFlowLow low) := .inl rfl
theorem csrWrite (g csr : Nat) (value : Word) : Statement (.csrWrite g csr value) := .inl rfl
theorem tapebaseWrite (g : Nat) (hi : Bool) (value : Word) : Statement (.tapebaseWrite g hi value) := .inl rfl
theorem tapectlWrite (g : Nat) (value : Word) : Statement (.tapectlWrite g value) := .inl rfl
theorem gxcfgWrite (ctx rgn : Nat) (value : Word) : Statement (.gxcfgWrite ctx rgn value) := .inl rfl
theorem gxlenWrite (ctx rgn : Nat) (value : Word) : Statement (.gxlenWrite ctx rgn value) := .inl rfl
theorem gxstatWrite (ctx rgn : Nat) (value : Word) : Statement (.gxstatWrite ctx rgn value) := .inl rfl
theorem tilequotaWrite (ctx : Nat) (value : Word) : Statement (.tilequotaWrite ctx value) := .inl rfl
theorem rankceilWrite (ctx : Nat) (value : Word) : Statement (.rankceilWrite ctx value) := .inl rfl
theorem rankmodeWrite (ctx : Nat) (value : Word) : Statement (.rankmodeWrite ctx value) := .inl rfl
theorem ctxCreate : Statement .ctxCreate := .inl rfl
theorem ctxDestroy : Statement .ctxDestroy := .inl rfl
theorem mapPage : Statement .mapPage := .inl rfl
theorem unmap : Statement .unmap := .inl rfl
theorem decline : Statement .decline := .inl rfl
theorem keyDestroy : Statement .keyDestroy := .inl rfl
theorem loadImage : Statement .loadImage := .inl rfl
theorem launch : Statement .launch := .inl rfl
theorem preempt : Statement .preempt := .inl rfl
theorem resumeCtx : Statement .resumeCtx := .inl rfl
theorem testTrigger : Statement .testTrigger := .inl rfl
theorem dcAdd : Statement .dcAdd := .inl rfl
theorem dcRelease (failed : List Nat) : Statement (.dcRelease failed) := .inl rfl
theorem flush (failed : List Nat) : Statement (.flush failed) := .inl rfl
theorem bankSet : Statement .bankSet := .inl rfl
theorem attest : Statement .attest := .inl rfl
theorem powercap : Statement .powercap := .inl rfl
theorem mbdoorWrite (value : DWord) (words : List DWord) : Statement (.mbdoorWrite value words) := .inl rfl
theorem eqtailWrite (value : DWord) : Statement (.eqtailWrite value) := .inl rfl
theorem pincfgWrite (cluster : Nat) (value : DWord) : Statement (.pincfgWrite cluster value) := .inl rfl
theorem hostDmaRingWrite (ctx : Nat) : Statement (.hostDmaRingWrite ctx) := .inl rfl
theorem exportTableGrant (g : Grant) : Statement (.exportTableGrant g) := .inl rfl

end Sys2Proof.Laws.Length
end

