-- ==== Sys2Proof/Laws/Scalar.lean ====
section
/-! SUPPORT. What an instruction does that writes scalar registers of each supplying home group. -/

namespace Sys2Proof.Machine

theorem isEm_false {n : Nat} (h : isEm n = false) : ¬(124 ≤ n ∧ n ≤ 126) := by simpa [isEm] using h

theorem writeS_eq {s : State} {g n : Nat} {w : Word} (h : isEm n = false) :
    s.writeS g n w = s.setGroup g { s.group g with s := SMap.put 0 (s.group g).s n w } := by
  simp only [State.writeS, isEm_false h, if_false]

theorem OnlyGroups.readS {s t : State} (h : OnlyGroups s t) {g n : Nat} (hg : t.group g = s.group g) :
    t.readS g n = s.readS g n := by
  simp only [State.readS, hg, h.role]

theorem OnlyGroups.readS64 {s t : State} (h : OnlyGroups s t) {g n : Nat} (hg : t.group g = s.group g) :
    t.readS64 g n = s.readS64 g n := by
  simp only [State.readS64, h.readS hg]

theorem OnlyGroups.rdid {s t : State} (h : OnlyGroups s t) {g n : Nat} (hg : t.group g = s.group g) :
    t.rdid g n = s.rdid g n := by
  simp only [State.rdid, hg, h.team, h.grid]

/-- The scalar file with some registers written. -/
def putAll (m : SMap Word) (w : List (Nat × Word)) : SMap Word := w.foldl (fun m p => SMap.put 0 m p.1 p.2) m

/-- What a run of scalar writes to one group makes of it. -/
theorem writes_become (w : List (Nat × Word)) (hw : ∀ p ∈ w, isEm p.1 = false) (s : State) (g : Nat) :
    Becomes s (w.foldl (fun s p => s.writeS g p.1 p.2) s) g { s.group g with s := putAll (s.group g).s w } := by
  induction w generalizing s with
  | nil => exact ⟨rfl, fun k => by by_cases hk : k = g <;> simp [hk, putAll]⟩
  | cons p t ih =>
    rw [List.foldl_cons, writeS_eq (hw p (List.mem_cons_self ..))]
    have h := (becomes_setGroup s g { s.group g with s := SMap.put 0 (s.group g).s p.1 p.2 }).then
      (ih (fun q hq => hw q (List.mem_cons_of_mem _ hq)) _)
    simpa [putAll] using h

theorem look_putAll (w : List (Nat × Word)) (m : SMap Word) (n : Nat) (hn : ∀ p ∈ w, p.1 ≠ n) :
    SMap.look 0 (putAll m w) n = SMap.look 0 m n := by
  induction w generalizing m with
  | nil => rfl
  | cons p t ih =>
    have h := ih (SMap.put 0 m p.1 p.2) fun q hq => hn q (List.mem_cons_of_mem _ hq)
    have hp : n ≠ p.1 := fun e => hn p (List.mem_cons_self ..) e.symm
    simpa [putAll, hp] using h

theorem look_putAll_mem (w : List (Nat × Word)) (hw : (w.map Prod.fst).Nodup) (m : SMap Word) (p : Nat × Word)
    (hp : p ∈ w) : SMap.look 0 (putAll m w) p.1 = p.2 := by
  induction w generalizing m with
  | nil => simp at hp
  | cons q t ih =>
    obtain ⟨h1, h2⟩ := List.nodup_cons.1 hw
    rcases List.mem_cons.1 hp with rfl | hp
    · have := look_putAll t (SMap.put 0 m p.1 p.2) p.1 fun q hq e => h1 (List.mem_map.2 ⟨q, hq, e⟩)
      simpa [putAll] using this
    · simpa [putAll] using ih h2 (SMap.put 0 m q.1 q.2) hp

/-- Scalar writes to each supplying home group, each from that group's own registers and the state at issue. -/
theorem eachHome_result (s : State) (f : State → Nat → State) (w : Nat → List (Nat × Word))
    (hw : ∀ g, ∀ p ∈ w g, isEm p.1 = false) (hd : ∀ g, ((w g).map Prod.fst).Nodup)
    (hf : ∀ t g, OnlyGroups s t → t.group g = s.group g → f t g = (w g).foldl (fun s p => s.writeS g p.1 p.2) t) :
    OnlyGroups s (s.eachHome f) ∧ ScalarResult s (s.eachHome f) w := by
  have hfold := foldl_homes (fun t h => f t (t.gid h))
    (fun h => { s.group (s.gid h) with s := putAll (s.group (s.gid h)).s (w (s.gid h)) }) s
    (fun t h ht hg => by
      rw [ht.gid, hf t _ ht hg, ← hg]
      exact writes_become _ (hw _) t _) (s.lanes s.cur)
  obtain ⟨h1, h2, h3⟩ := hfold
  have hs : ∀ g, Supplies s g ∨ ∀ h ∈ s.suppliers s.cur, g ≠ s.gid h := by
    intro g
    by_cases hg : Supplies s g
    · exact .inl hg
    · exact .inr fun h hh e => hg ⟨h, hh, e⟩
  refine ⟨h1, ⟨?_, ?_, ?_⟩⟩
  · rintro g ⟨h, hh, rfl⟩ p hp
    have hg := h2 h hh
    have he := isEm_false (hw _ p hp)
    simp only [State.readS, he, if_false]
    change SMap.look 0 (State.group _ _).s _ = _
    unfold State.eachHome State.suppliers
    rw [hg]
    exact look_putAll_mem _ (hd _) _ p hp
  · intro g n hn
    rcases hs g with ⟨h, hh, rfl⟩ | hg
    · unfold State.eachHome State.suppliers
      rw [h2 h hh]
      exact look_putAll _ _ _ fun p hp e => hn ⟨⟨h, hh, rfl⟩, p, hp, e⟩
    · unfold State.eachHome State.suppliers
      rw [h3 g hg]
  · intro g
    rcases hs g with ⟨h, hh, rfl⟩ | hg
    · unfold State.eachHome State.suppliers
      rw [h2 h hh]
    · unfold State.eachHome State.suppliers
      rw [h3 g hg]

/-- A result in the scalar registers is not touched by moving past the instruction. -/
theorem ScalarResult.move {s t u : State} {w : Nat → List (Nat × Word)} (h : ScalarResult s t w) (_k : Kept t u)
    (hg : u.groups = t.groups) (hw : ∀ g, ∀ p ∈ w g, isEm p.1 = false) : ScalarResult s u w := by
  have hgr : ∀ n, u.group n = t.group n := fun n => by simp [State.group, hg]
  refine ⟨fun g hs p hp => ?_, fun g n hn => ?_, fun g => ?_⟩
  · rw [← h.value g hs p hp]
    have he := isEm_false (hw g p hp)
    simp only [State.readS, he, if_false, hgr]
  · rw [hgr, h.others g n hn]
  · rw [hgr, h.group g]

theorem sameElsewhere_ctxOf {s t : State} (h : OnlyGroups s t) : t.curCtx = s.curCtx := by
  simp only [State.curCtx, State.roleCtx, h.team, h.cur]

/-- An effect on groups alone, after which the issue group moves past the instruction. -/
theorem simple_kept (s : State) (len : Nat) (f : State → State) (h : OnlyGroups s (f s)) :
    s.simple len f = .next ((f s).next len) ∧ Kept s ((f s).next len) ∧ Past s ((f s).next len) len ∧
      ((f s).next len).groups = (f s).groups := by
  obtain ⟨k, p, g⟩ := next_kept (f s) len
  refine ⟨rfl, h.kept.trans k h.cur, ⟨fun hi => ?_, ?_, ?_⟩, g⟩
  · have := p.pc (by unfold Issuing at *; rw [h.cur, h.role]; exact hi)
    rw [h.cur, h.ig] at this
    exact this
  · have := p.count
    rw [h.cur] at this
    rw [this]
    simp only [State.pathCount, h.cur, h.role, OnlyGroups.clock h]
  · have := p.retired
    rw [sameElsewhere_ctxOf h, h.ctx] at this
    exact this

/-- An instruction that writes scalar registers completes. -/
theorem simple_scalar (s : State) (len : Nat) (f : State → Nat → State) (w : Nat → List (Nat × Word))
    (hw : ∀ g, ∀ p ∈ w g, isEm p.1 = false) (hd : ∀ g, ((w g).map Prod.fst).Nodup)
    (hf : ∀ t g, OnlyGroups s t → t.group g = s.group g → f t g = (w g).foldl (fun s p => s.writeS g p.1 p.2) t) :
    Completes (s.simple len fun s => s.eachHome f) fun t => ScalarResult s t w ∧ Kept s t ∧ Past s t len := by
  obtain ⟨h1, h2⟩ := eachHome_result s f w hw hd hf
  obtain ⟨he, hk, hp, hg⟩ := simple_kept s len (fun s => s.eachHome f) h1
  obtain ⟨k, -, -⟩ := next_kept (s.eachHome f) len
  exact ⟨_, he, h2.move k hg hw, hk, hp⟩

end Sys2Proof.Machine
end

