-- ==== Sys2Proof/Laws/Vector.lean ====
section
/-! SUPPORT. What an instruction does that writes a vector register, or a pair, in the active lanes. -/

namespace Sys2Proof.Machine

theorem setVec_lane (x : Group) (r : Nat) (m : LaneMask) (f : Nat → Word) (q l : Nat) (hl : l < 96) :
    (x.setVec r m f).lane q l = if q = r ∧ m.getLsbD l then f l else x.lane q l := by
  simp only [Group.setVec, Group.lane, SMap.look_put]
  by_cases hq : q = r
  · subst hq
    simp only [if_true, true_and]
    rw [List.getD_eq_getElem?_getD, List.getElem?_map, List.getElem?_range hl]
    rfl
  · simp [hq]

theorem setVec_rest (x : Group) (r : Nat) (m : LaneMask) (f : Nat → Word) :
    { x.setVec r m f with v := x.v } = x := rfl

theorem setLanes_lane (x : Group) (d : Nat) (wide : Bool) (m : LaneMask) (f : Nat → Flagged) (q l : Nat) (hl : l < 96) :
    (x.setLanes d wide m f).lane q l =
      if wide = true ∧ q = d + 1 ∧ m.getLsbD l then BitVec.ofNat 32 ((f l).1 / 2 ^ 32)
      else if q = d ∧ m.getLsbD l then BitVec.ofNat 32 (f l).1 else x.lane q l := by
  cases wide
  · simp only [Group.setLanes, Bool.false_eq_true, if_false, false_and]
    exact setVec_lane x d m _ q l hl
  · simp only [Group.setLanes, if_true, true_and]
    have := setVec_lane (x.setVec d m fun l => BitVec.ofNat 32 (f l).1) (d + 1) m
      (fun l => BitVec.ofNat 32 ((f l).1 / 2 ^ 32)) q l hl
    rw [setVec_lane x d m _ q l hl] at this
    exact this

theorem setLanes_flags (x : Group) (d : Nat) (wide : Bool) (m : LaneMask) (f : Nat → Flagged) :
    (x.setLanes d wide m f).fpflags = x.fpflags ||| BitVec.ofNat 32 (flagsOf m f % 16) := by
  cases wide <;> rfl

theorem setLanes_rest (x : Group) (d : Nat) (wide : Bool) (m : LaneMask) (f : Nat → Flagged) :
    { x.setLanes d wide m f with v := x.v, fpflags := x.fpflags } = x := by
  cases wide <;> rfl

/-- Moving past an instruction leaves a vector result as it is. -/
theorem VectorResult.move {s t u : State} {d : Nat} {wide : Bool} {f : Nat → Nat → Flagged}
    (h : VectorResult s t d wide f) (hg : u.groups = t.groups) : VectorResult s u d wide f := by
  have hgr : ∀ n, u.group n = t.group n := fun n => by simp [State.group, hg]
  have hv : ∀ g r l, u.readV g r l = t.readV g r l := fun g r l => by simp only [State.readV, hgr]
  exact ⟨fun g l a => by rw [hv]; exact h.value g l a, fun w g l a => by rw [hv]; exact h.upper w g l a,
    fun g r l a b => by rw [hv]; exact h.others g r l a b, fun k a => by rw [hgr]; exact h.flags k a,
    fun g => by rw [hgr]; exact h.group g, fun g a => by rw [hgr]; exact h.idle g a⟩

/-- A vector form's result, each lane's computed from its own group and the state at issue. -/
theorem vector_result (s : State) (d : Nat) (wide : Bool) (F : State → Nat → Nat → Flagged)
    (hF : ∀ t g, OnlyGroups s t → t.group g = s.group g → F t g = F s g) :
    OnlyGroups s (s.vector d wide F) ∧ VectorResult s (s.vector d wide F) d wide (F s) := by
  have hfold := foldl_homes (fun t h => t.modGroup (t.gid h) fun x => x.setLanes d wide (maskOf (s.lanes s.cur) h) (F t (t.gid h)))
    (fun h => (s.group (s.gid h)).setLanes d wide (maskOf (s.lanes s.cur) h) (F s (s.gid h))) s
    (fun t h ht hg => by
      rw [ht.gid, hF t _ ht hg, ← hg]
      exact becomes_setGroup t _ _) (s.lanes s.cur)
  obtain ⟨h1, h2, h3⟩ := hfold
  have h2 : ∀ h ∈ s.suppliers s.cur, (s.vector d wide F).group (s.gid h) =
      (s.group (s.gid h)).setLanes d wide (maskOf (s.lanes s.cur) h) (F s (s.gid h)) := h2
  have h3 : ∀ g, (∀ h ∈ s.suppliers s.cur, g ≠ s.gid h) → (s.vector d wide F).group g = s.group g := h3
  have hs : ∀ g, (∃ h ∈ s.suppliers s.cur, g = s.gid h) ∨ ∀ h ∈ s.suppliers s.cur, g ≠ s.gid h := by
    intro g
    by_cases hg : ∃ h ∈ s.suppliers s.cur, g = s.gid h
    · exact .inl hg
    · exact .inr fun h hh e => hg ⟨h, hh, e⟩
  have hact : ∀ h l, ActiveLane s (s.gid h) l ↔ (maskOf (s.lanes s.cur) h).getLsbD l = true := by
    intro h l
    rw [maskOf_bit, decide_eq_true_eq]
    constructor
    · rintro ⟨a, k, b, c⟩
      rw [gid_inj s c]
      exact ⟨a, b⟩
    · rintro ⟨a, b⟩
      exact ⟨a, h, b, rfl⟩
  have hsup : ∀ g l, ActiveLane s g l → ∃ h ∈ s.suppliers s.cur, g = s.gid h := by
    rintro g l ⟨-, h, b, c⟩
    exact ⟨h, (mem_homesOf _ _).2 ⟨l, b⟩, c⟩
  refine ⟨h1, ⟨?_, ?_, ?_, ?_, ?_, ?_⟩⟩
  · intro g l ha
    obtain ⟨h, hh, rfl⟩ := hsup g l ha
    simp only [State.readV, h2 h hh, setLanes_lane _ _ _ _ _ _ _ ha.1, (hact h l).1 ha]
    simp
  · intro hw g l ha
    obtain ⟨h, hh, rfl⟩ := hsup g l ha
    simp only [State.readV, h2 h hh, setLanes_lane _ _ _ _ _ _ _ ha.1, (hact h l).1 ha]
    simp [hw]
  · intro g r l hl hn
    rcases hs g with ⟨h, hh, rfl⟩ | hg
    · simp only [State.readV, h2 h hh, setLanes_lane _ _ _ _ _ _ _ hl]
      rw [hact h l] at hn
      rw [if_neg fun e => hn ⟨e.2.2, .inr ⟨e.1, e.2.1⟩⟩, if_neg fun e => hn ⟨e.2, .inl e.1⟩]
    · simp only [State.readV, h3 g hg]
  · intro h hh
    rw [h2 h hh, setLanes_flags]
  · intro g
    rcases hs g with ⟨h, hh, rfl⟩ | hg
    · rw [h2 h hh]; exact setLanes_rest _ _ _ _ _
    · rw [h3 g hg]
  · intro g hg
    exact h3 g fun h hh e => hg ⟨h, hh, e⟩

/-- A vector form completes. -/
theorem simple_vector (s : State) (len d : Nat) (wide : Bool) (F : State → Nat → Nat → Flagged)
    (hF : ∀ t g, OnlyGroups s t → t.group g = s.group g → F t g = F s g) :
    Completes (s.simple len fun s => s.vector d wide F) fun t =>
      VectorResult s t d wide (F s) ∧ Kept s t ∧ Past s t len := by
  obtain ⟨h1, h2⟩ := vector_result s d wide F hF
  obtain ⟨he, hk, hp, hg⟩ := simple_kept s len (fun s => s.vector d wide F) h1
  exact ⟨_, he, h2.move hg, hk, hp⟩

theorem OnlyGroups.opnd {s t : State} (h : OnlyGroups s t) {g : Nat} (hg : t.group g = s.group g) (l a : Nat) (w : Bool) :
    t.opnd g l a w = s.opnd g l a w := by
  simp only [State.opnd, State.src, State.readV, h.readS hg, hg]

theorem OnlyGroups.voAt {s t : State} (h : OnlyGroups s t) {g : Nat} (hg : t.group g = s.group g) (op : VoOp) (x : VoArgs)
    (l : Nat) : t.voAt op x g l = s.voAt op x g l := by
  simp only [State.voAt, State.triple, h.opnd hg, h.readS hg]

end Sys2Proof.Machine
end

