-- ==== Sys2Proof/Tests/Slice0.lean ====
section
/-! SUPPORT. Tests: words of the encoding tables, ill-formed terms, a witness for the hypotheses of each statement, and
single steps whose results the spec gives. -/


set_option Elab.async false
set_option linter.unusedVariables false

namespace Sys2Proof.Machine

/-- A state with a scalar register, a lane of a vector register, or a handler. -/
def State.setS (x : State) (n : Nat) (w : Word) : State := x.writeS 32 n w
def State.setV (x : State) (r l : Nat) (w : Word) : State := x.writeLane 32 r l w
def State.setS64 (x : State) (n : Nat) (w : DWord) : State := x.writeS64 32 n w
def State.handler (x : State) (a : DWord) : State := x.modTeam 1 fun t => { t with trapvec := a }
/-- A state with an operation outstanding in its group. -/
def State.withOp (x : State) (o : Op) : State := x.modGroup 32 fun g => { g with ops := [o], ac := [(o.ac, 1)] }
/-- A state with a line of the memory-side cache, valid and dirty under context 1. -/
def State.withLine (x : State) (n : Nat) : State :=
  { x with msc := SMap.ins x.msc n { slot := 1, dirty := true, valid := allValid } }
/-- A state with a command in progress. -/
def State.withCmd (x : State) (ws : List DWord) : State :=
  { x with mbstatBusy := true, mbcmd := fillBuffer [] ws, mbTaken := fillBuffer [] ws }

end Sys2Proof.Machine

namespace Sys2Proof.Tests
open Sys2Proof Sys2Proof.Machine

/-! ### Decoding -/

/-- The header of R218: LEN, FMT and OP; CF stands in bits 14 and 13. -/
def hd (len fmt op : Nat) : Nat := len ||| fmt <<< 2 ||| op <<< 8

/-- Every word of a list decodes to the instruction beside it. -/
def decodesTo (l : List (Nat × Instr)) : Bool := l.all fun p =>
  match decode p.1 with
  | .ok i => i == p.2 && decide (encode i = p.1)
  | .error _ => false

/-- ch: R224, R225. -/
theorem test_decode_ch : decodesTo [
    (hd 0 1 0 ||| 14 <<< 16 ||| 2049 <<< 20 ||| 11 <<< 32 ||| 1 <<< 36 ||| 10 <<< 37 ||| 1 <<< 41,
      .ch { clen := 14, wait := 2049, fa := 11, fav := true, fb := 10, fbv := true })] = true := by decide +kernel

/-- so: R224, R225. -/
theorem test_decode_so : decodesTo [
    (hd 0 2 0 ||| 3 <<< 16 ||| 65 <<< 23 ||| 34 <<< 30 ||| 2 <<< 44,
      .soAdd { sd := 3, sa := 65, sb := 34, ty := .i32 }),
    (hd 0 2 1 ||| 3 <<< 16 ||| 65 <<< 23 ||| 34 <<< 30 ||| 6 <<< 44,
      .soSub { sd := 3, sa := 65, sb := 34, ty := .n32 }),
    (hd 0 2 2 ||| 3 <<< 16 ||| 65 <<< 23 ||| 34 <<< 30 ||| 2 <<< 44,
      .soMul { sd := 3, sa := 65, sb := 34, ty := .i32 }),
    (hd 0 2 3 ||| 3 <<< 16 ||| 65 <<< 23 ||| 34 <<< 30 ||| 6 <<< 44,
      .soMulh { sd := 3, sa := 65, sb := 34, ty := .n32 }),
    (hd 0 2 4 ||| 3 <<< 16 ||| 65 <<< 23 ||| 34 <<< 30 ||| 8 <<< 44,
      .soAnd { sd := 3, sa := 65, sb := 34, ty := .b32 }),
    (hd 0 2 5 ||| 3 <<< 16 ||| 65 <<< 23 ||| 34 <<< 30 ||| 8 <<< 44,
      .soOr { sd := 3, sa := 65, sb := 34, ty := .b32 }),
    (hd 0 2 6 ||| 3 <<< 16 ||| 65 <<< 23 ||| 34 <<< 30 ||| 8 <<< 44,
      .soXor { sd := 3, sa := 65, sb := 34, ty := .b32 }),
    (hd 0 2 7 ||| 3 <<< 16 ||| 65 <<< 23 ||| 34 <<< 30 ||| 8 <<< 44,
      .soShl { sd := 3, sa := 65, sb := 34, ty := .b32 }),
    (hd 0 2 8 ||| 3 <<< 16 ||| 65 <<< 23 ||| 34 <<< 30 ||| 8 <<< 44,
      .soShr { sd := 3, sa := 65, sb := 34, ty := .b32 }),
    (hd 0 2 9 ||| 3 <<< 16 ||| 65 <<< 23 ||| 34 <<< 30 ||| 8 <<< 44,
      .soSra { sd := 3, sa := 65, sb := 34, ty := .b32 }),
    (hd 0 2 10 ||| 3 <<< 16 ||| 65 <<< 23 ||| 34 <<< 30 ||| 6 <<< 44,
      .soMin { sd := 3, sa := 65, sb := 34, ty := .n32 }),
    (hd 0 2 11 ||| 3 <<< 16 ||| 65 <<< 23 ||| 34 <<< 30 ||| 2 <<< 44,
      .soMax { sd := 3, sa := 65, sb := 34, ty := .i32 }),
    (hd 0 2 14 ||| 3 <<< 16 ||| 65 <<< 23 ||| 34 <<< 30 ||| 2 <<< 44,
      .soBfe { sd := 3, sa := 65, sb := 34, ty := .i32 }),
    (hd 0 2 12 ||| 3 <<< 16 ||| 65 <<< 23 ||| 34 <<< 30 ||| 6 <<< 44 ||| 5 <<< 49,
      .soCmp { sd := 3, sa := 65, sb := 34, ty := .n32, sel := 5 }),
    (hd 0 2 13 ||| 3 <<< 16 ||| 65 <<< 23 ||| 34 <<< 30 ||| 17 <<< 37,
      .soSel { sd := 3, sa := 65, sb := 34, sx := 17, ty := .i8 }),
    (hd 0 2 15 ||| 3 <<< 16 ||| 65 <<< 23 ||| 34 <<< 30 ||| 127 <<< 37,
      .soBfi { sd := 3, sa := 65, sb := 34, sx := 127, ty := .i8 }),
    (hd 0 2 16 ||| 3 <<< 16 ||| 65 <<< 23,
      .soPopc { sd := 3, sa := 65, ty := .i8 }),
    (hd 0 2 17 ||| 127 <<< 16 ||| 1 <<< 23,
      .soClz { sd := 127, sa := 1, ty := .i8 }),
    (hd 0 2 18 ||| 4 <<< 16 ||| 66 <<< 23 ||| 34 <<< 30,
      .soAdd64 { sd := 4, sa := 66, sb := 34, ty := .i8 }),
    (hd 0 2 19 ||| 4 <<< 16 ||| 66 <<< 23 ||| 33 <<< 30 ||| 6 <<< 44 ||| 7 <<< 49,
      .soLea { sd := 4, sa := 66, sb := 33, ty := .n32, sel := 7 }),
    (hd 0 2 20 ||| 4 <<< 16 ||| 66 <<< 23 ||| 9 <<< 44,
      .soMov { sd := 4, sa := 66, ty := .b64 }),
    (hd 0 2 21 ||| 9 <<< 16 ||| 7 <<< 49,
      .soRdid { sd := 9, ty := .i8, sel := 7 })] = true := by decide +kernel

/-- sk: R224, R225. -/
theorem test_decode_sk : decodesTo [
    (hd 1 3 0 ||| 9 <<< 16 ||| 8 <<< 30 ||| 0xffffffff <<< 64,
      .skMov { sd := 9, ty := .b32, imm := 0xFFFFFFFF }),
    (hd 1 3 1 ||| 9 <<< 16 ||| 66 <<< 23 ||| 6 <<< 30 ||| 0x80000001 <<< 64,
      .skAdd { sd := 9, sa := 66, imm := 0x80000001, ty := .n32 }),
    (hd 1 3 2 ||| 9 <<< 16 ||| 66 <<< 23 ||| 8 <<< 30 ||| 0x80000001 <<< 64,
      .skAnd { sd := 9, sa := 66, imm := 0x80000001, ty := .b32 }),
    (hd 1 3 3 ||| 9 <<< 16 ||| 66 <<< 23 ||| 8 <<< 30 ||| 0x80000001 <<< 64,
      .skOr { sd := 9, sa := 66, imm := 0x80000001, ty := .b32 }),
    (hd 1 3 4 ||| 9 <<< 16 ||| 66 <<< 23 ||| 8 <<< 30 ||| 0x80000001 <<< 64,
      .skXor { sd := 9, sa := 66, imm := 0x80000001, ty := .b32 }),
    (hd 1 3 5 ||| 9 <<< 16 ||| 66 <<< 23 ||| 2 <<< 30 ||| 3 <<< 35 ||| 0x80000001 <<< 64,
      .skCmp { sd := 9, sa := 66, imm := 0x80000001, ty := .i32, sel := 3 })] = true := by decide +kernel

/-- vo: R224, R225. -/
theorem test_decode_vo : decodesTo [
    (hd 0 4 0 ||| 382 <<< 16 ||| 257 <<< 25 ||| 386 <<< 34 ||| 2 <<< 43 ||| 1 <<< 50,
      .voAdd { d := 382, a := 257, b := 386, ty := .i32, sat := true }),
    (hd 0 4 1 ||| 382 <<< 16 ||| 256 <<< 25 ||| 386 <<< 34 ||| 3 <<< 43,
      .voSub { d := 382, a := 256, b := 386, ty := .i64 }),
    (hd 0 4 2 ||| 382 <<< 16 ||| 257 <<< 25 ||| 386 <<< 34 ||| 6 <<< 43,
      .voMull { d := 382, a := 257, b := 386, ty := .n32 }),
    (hd 0 4 3 ||| 382 <<< 16 ||| 257 <<< 25 ||| 386 <<< 34 ||| 2 <<< 43,
      .voMulh { d := 382, a := 257, b := 386, ty := .i32 }),
    (hd 0 4 4 ||| 382 <<< 16 ||| 256 <<< 25 ||| 386 <<< 34 ||| 9 <<< 43,
      .voAnd { d := 382, a := 256, b := 386, ty := .b64 }),
    (hd 0 4 5 ||| 382 <<< 16 ||| 257 <<< 25 ||| 386 <<< 34 ||| 8 <<< 43,
      .voOr { d := 382, a := 257, b := 386, ty := .b32 }),
    (hd 0 4 6 ||| 382 <<< 16 ||| 257 <<< 25 ||| 386 <<< 34 ||| 8 <<< 43,
      .voXor { d := 382, a := 257, b := 386, ty := .b32 }),
    (hd 0 4 7 ||| 382 <<< 16 ||| 257 <<< 25 ||| 386 <<< 34 ||| 8 <<< 43,
      .voShl { d := 382, a := 257, b := 386, ty := .b32 }),
    (hd 0 4 8 ||| 382 <<< 16 ||| 257 <<< 25 ||| 386 <<< 34 ||| 8 <<< 43,
      .voShr { d := 382, a := 257, b := 386, ty := .b32 }),
    (hd 0 4 9 ||| 382 <<< 16 ||| 257 <<< 25 ||| 386 <<< 34 ||| 8 <<< 43,
      .voSra { d := 382, a := 257, b := 386, ty := .b32 }),
    (hd 0 4 10 ||| 382 <<< 16 ||| 257 <<< 25 ||| 386 <<< 34 ||| 12 <<< 43,
      .voMin { d := 382, a := 257, b := 386, ty := .bf16 }),
    (hd 0 4 11 ||| 382 <<< 16 ||| 257 <<< 25 ||| 386 <<< 34 ||| 6 <<< 43,
      .voMax { d := 382, a := 257, b := 386, ty := .n32 }),
    (hd 0 4 12 ||| 382 <<< 16 ||| 257 <<< 25 ||| 2 <<< 43 ||| 1 <<< 50,
      .voAbs { d := 382, a := 257, ty := .i32, sat := true }),
    (hd 0 4 13 ||| 382 <<< 16 ||| 257 <<< 25 ||| 386 <<< 34 ||| 6 <<< 43,
      .voBfe { d := 382, a := 257, b := 386, ty := .n32 }),
    (hd 0 4 14 ||| 382 <<< 16 ||| 257 <<< 25 ||| 8 <<< 43,
      .voPopc { d := 382, a := 257, ty := .b32 }),
    (hd 0 4 15 ||| 382 <<< 16 ||| 257 <<< 25 ||| 8 <<< 43,
      .voClz { d := 382, a := 257, ty := .b32 }),
    (hd 0 4 16 ||| 382 <<< 16 ||| 257 <<< 25 ||| 8 <<< 43,
      .voBrev { d := 382, a := 257, ty := .b32 }),
    (hd 0 4 17 ||| 382 <<< 16 ||| 257 <<< 25 ||| 386 <<< 34 ||| 13 <<< 43 ||| 3 <<< 48 ||| 1 <<< 50,
      .voFadd { d := 382, a := 257, b := 386, ty := .f16, rm := .rup, sat := true }),
    (hd 0 4 18 ||| 382 <<< 16 ||| 256 <<< 25 ||| 386 <<< 34 ||| 10 <<< 43 ||| 2 <<< 48,
      .voFsub { d := 382, a := 256, b := 386, ty := .f64, rm := .rdn }),
    (hd 0 4 19 ||| 382 <<< 16 ||| 257 <<< 25 ||| 386 <<< 34 ||| 11 <<< 43 ||| 1 <<< 48,
      .voFmul { d := 382, a := 257, b := 386, ty := .f32, rm := .rtz }),
    (hd 0 4 20 ||| 382 <<< 16 ||| 257 <<< 25 ||| 386 <<< 34 ||| 11 <<< 43,
      .voFmin { d := 382, a := 257, b := 386, ty := .f32 }),
    (hd 0 4 21 ||| 382 <<< 16 ||| 257 <<< 25 ||| 386 <<< 34 ||| 12 <<< 43,
      .voFmax { d := 382, a := 257, b := 386, ty := .bf16 }),
    (hd 0 4 22 ||| 382 <<< 16 ||| 256 <<< 25 ||| 15 <<< 43 ||| 1 <<< 48 ||| 1 <<< 50 ||| 10 <<< 51 ||| 3 <<< 56,
      .voCvt { d := 382, a := 256, ty := .f8e5, ty2 := .f64, rm := .rtz, sat := true, sel := 3 }),
    (hd 0 4 23 ||| 382 <<< 16 ||| 257 <<< 25 ||| 13 <<< 43 ||| 2 <<< 48 ||| 1 <<< 56,
      .voRnd { d := 382, a := 257, ty := .f16, rm := .rdn, sel := 1 }),
    (hd 0 4 24 ||| 382 <<< 16 ||| 257 <<< 25 ||| 386 <<< 34 ||| 8 <<< 43 ||| 15 <<< 56,
      .voSel { d := 382, a := 257, b := 386, ty := .b32, sel := 15 }),
    (hd 0 4 25 ||| 382 <<< 16 ||| 256 <<< 25 ||| 9 <<< 43,
      .voMov { d := 382, a := 256, ty := .b64 })] = true := by decide +kernel

/-- vw: R224, R225. -/
theorem test_decode_vw : decodesTo [
    (hd 1 5 0 ||| 382 <<< 16 ||| 257 <<< 25 ||| 386 <<< 34 ||| 130 <<< 43 ||| 11 <<< 52 ||| 3 <<< 62 ||| 1 <<< 64 ||| 5 <<< 65,
      .vwFma { d := 382, a := 257, b := 386, c := 130, ty := .f32, rm := .rup, sat := true, neg := 5 }),
    (hd 1 5 1 ||| 382 <<< 16 ||| 257 <<< 25 ||| 386 <<< 34 ||| 130 <<< 43 ||| 6 <<< 52 ||| 1 <<< 64,
      .vwMad { d := 382, a := 257, b := 386, c := 130, ty := .n32, sat := true }),
    (hd 1 5 2 ||| 382 <<< 16 ||| 257 <<< 25 ||| 386 <<< 34 ||| 130 <<< 43 ||| 8 <<< 52,
      .vwBfi { d := 382, a := 257, b := 386, c := 130, ty := .b32 }),
    (hd 1 5 3 ||| 382 <<< 16 ||| 256 <<< 25 ||| 130 <<< 43 ||| 16 <<< 52 ||| 10 <<< 57 ||| 1 <<< 64 ||| 7 <<< 68,
      .vwCvtsr { d := 382, a := 256, c := 130, ty := .f4, ty2 := .f64, sat := true, sel := 7 }),
    (hd 1 5 4 ||| 382 <<< 16 ||| 257 <<< 25 ||| 386 <<< 34 ||| 130 <<< 43 ||| 14 <<< 52 ||| 11 <<< 57 ||| 2 <<< 62 ||| 1 <<< 64 ||| 1 <<< 68,
      .vwPack { d := 382, a := 257, b := 386, c := 130, ty := .f8e4, ty2 := .f32, rm := .rdn, sat := true, sel := 1 })] = true := by decide +kernel

/-- vk, vm: R224, R225. -/
theorem test_decode_vk_vm : decodesTo [
    (hd 1 6 0 ||| 382 <<< 16 ||| 257 <<< 25 ||| 11 <<< 34 ||| 3 <<< 39 ||| 1 <<< 41 ||| 0x80000001 <<< 64,
      .vkAdd { d := 382, a := 257, imm := 0x80000001, ty := .f32, rm := .rup, sat := true }),
    (hd 1 6 1 ||| 382 <<< 16 ||| 257 <<< 25 ||| 6 <<< 34 ||| 0x80000001 <<< 64,
      .vkMul { d := 382, a := 257, imm := 0x80000001, ty := .n32 }),
    (hd 1 6 2 ||| 382 <<< 16 ||| 257 <<< 25 ||| 8 <<< 34 ||| 0x80000001 <<< 64,
      .vkAnd { d := 382, a := 257, imm := 0x80000001, ty := .b32 }),
    (hd 1 6 3 ||| 382 <<< 16 ||| 257 <<< 25 ||| 8 <<< 34 ||| 0x80000001 <<< 64,
      .vkOr { d := 382, a := 257, imm := 0x80000001, ty := .b32 }),
    (hd 1 6 4 ||| 382 <<< 16 ||| 11 <<< 34 ||| 0x3f800000 <<< 64,
      .vkMov { d := 382, ty := .f32, imm := 0x3F800000 }),
    (hd 1 6 5 ||| 382 <<< 16 ||| 257 <<< 25 ||| 11 <<< 34 ||| 2 <<< 39 ||| 0x80000001 <<< 64,
      .vkFma { d := 382, a := 257, imm := 0x80000001, ty := .f32, rm := .rdn }),
    (hd 0 8 0 ||| 124 <<< 16 ||| 257 <<< 23 ||| 386 <<< 32 ||| 11 <<< 41 ||| 7 <<< 46,
      .vmCmp { sd := 124, a := 257, b := 386, ty := .f32, sel := 7 }),
    (hd 0 8 1 ||| 123 <<< 16 ||| 257 <<< 23 ||| 511 <<< 32 ||| 12 <<< 41,
      .vmClass { sd := 123, a := 257, b := 511, ty := .bf16 })] = true := by decide +kernel

/-- sf: R224, R225. -/
theorem test_decode_sf : decodesTo [
    (hd 0 9 0 ||| 382 <<< 16 ||| 257 <<< 25 ||| 11 <<< 34,
      .sfRcp { d := 382, a := 257, ty := .f32, cf := 0 }),
    (hd 0 9 1 ||| 1 <<< 13 ||| 382 <<< 16 ||| 258 <<< 25 ||| 13 <<< 34,
      .sfRsq { d := 382, a := 258, ty := .f16, cf := 1 }),
    (hd 0 9 2 ||| 2 <<< 13 ||| 382 <<< 16 ||| 259 <<< 25 ||| 12 <<< 34,
      .sfSqrt { d := 382, a := 259, ty := .bf16, cf := 2 }),
    (hd 0 9 3 ||| 382 <<< 16 ||| 260 <<< 25 ||| 11 <<< 34,
      .sfExp2 { d := 382, a := 260, ty := .f32, cf := 0 }),
    (hd 0 9 4 ||| 1 <<< 13 ||| 382 <<< 16 ||| 261 <<< 25 ||| 13 <<< 34,
      .sfLog2 { d := 382, a := 261, ty := .f16, cf := 1 }),
    (hd 0 9 5 ||| 2 <<< 13 ||| 382 <<< 16 ||| 262 <<< 25 ||| 12 <<< 34,
      .sfSin { d := 382, a := 262, ty := .bf16, cf := 2 }),
    (hd 0 9 6 ||| 382 <<< 16 ||| 263 <<< 25 ||| 11 <<< 34,
      .sfCos { d := 382, a := 263, ty := .f32, cf := 0 }),
    (hd 0 9 7 ||| 1 <<< 13 ||| 382 <<< 16 ||| 264 <<< 25 ||| 13 <<< 34,
      .sfTanh { d := 382, a := 264, ty := .f16, cf := 1 }),
    (hd 0 9 8 ||| 2 <<< 13 ||| 382 <<< 16 ||| 265 <<< 25 ||| 12 <<< 34,
      .sfSigm { d := 382, a := 265, ty := .bf16, cf := 2 }),
    (hd 0 9 9 ||| 382 <<< 16 ||| 266 <<< 25 ||| 11 <<< 34,
      .sfGelu { d := 382, a := 266, ty := .f32, cf := 0 }),
    (hd 0 9 10 ||| 1 <<< 13 ||| 382 <<< 16 ||| 267 <<< 25 ||| 13 <<< 34,
      .sfSilu { d := 382, a := 267, ty := .f16, cf := 1 }),
    (hd 0 9 11 ||| 2 <<< 13 ||| 382 <<< 16 ||| 268 <<< 25 ||| 12 <<< 34,
      .sfErf { d := 382, a := 268, ty := .bf16, cf := 2 })] = true := by decide +kernel

/-- xl, bc: R224, R225. -/
theorem test_decode_xl_bc : decodesTo [
    (hd 0 10 0 ||| 2 <<< 13 ||| 382 <<< 16 ||| 257 <<< 25 ||| 386 <<< 34 ||| 124 <<< 43 ||| 8 <<< 50,
      .xlShfl { d := 382, a := 257, b := 386, sm := 124, ty := .b32, cf := 2 }),
    (hd 0 10 1 ||| 382 <<< 16 ||| 257 <<< 25 ||| 127 <<< 34 ||| 41 <<< 43 ||| 8 <<< 50 ||| 3 <<< 55,
      .xlShflx { d := 382, a := 257, b := 127, sm := 41, ty := .b32, sel := 3 }),
    (hd 0 10 2 ||| 1 <<< 13 ||| 382 <<< 16 ||| 257 <<< 25 ||| 386 <<< 34 ||| 41 <<< 43 ||| 8 <<< 50 ||| 12 <<< 55,
      .xlBfly { d := 382, a := 257, b := 386, sm := 41, ty := .b32, sel := 12, cf := 1 }),
    (hd 0 10 3 ||| 382 <<< 16 ||| 257 <<< 25 ||| 41 <<< 43 ||| 8 <<< 50 ||| 3 <<< 55,
      .xlVote { d := 382, a := 257, sm := 41, ty := .b32, sel := 3 }),
    (hd 0 10 4 ||| 382 <<< 16 ||| 257 <<< 25 ||| 386 <<< 34 ||| 8 <<< 50,
      .xlRdln { d := 382, a := 257, b := 386, ty := .b32 }),
    (hd 0 10 5 ||| 382 <<< 16 ||| 385 <<< 25 ||| 511 <<< 34 ||| 8 <<< 50,
      .xlWrln { d := 382, a := 385, b := 511, ty := .b32 }),
    (hd 0 10 6 ||| 382 <<< 16 ||| 257 <<< 25 ||| 41 <<< 43 ||| 11 <<< 50 ||| 9 <<< 55,
      .xlScan { d := 382, a := 257, sm := 41, ty := .f32, sel := 9 }),
    (hd 0 10 7 ||| 382 <<< 16 ||| 257 <<< 25 ||| 41 <<< 43 ||| 8 <<< 50 ||| 5 <<< 55,
      .xlRed { d := 382, a := 257, sm := 41, ty := .b32, sel := 5 }),
    (hd 0 11 0 ||| 257 <<< 16 ||| 0x80001 <<< 25,
      .bcBr { cv := 257, toff := 0x80001 }),
    (hd 0 11 1 ||| 257 <<< 16 ||| 0x80001 <<< 25 ||| 0x40002 <<< 45,
      .bcBrd { cv := 257, toff := 0x80001, roff := 0x40002 }),
    (hd 0 11 2 ||| 0xfffff <<< 25,
      .bcJmp { toff := 0xFFFFF }),
    (hd 0 11 3 ||| 382 <<< 16 ||| 6 <<< 25,
      .bcCall { cv := 382, toff := 6 }),
    (hd 0 11 4 ||| 382 <<< 16,
      .bcRet { cv := 382 }),
    (hd 0 11 5,
      .bcExit {}),
    (hd 0 11 6,
      .bcNop {}),
    (hd 0 11 7 ||| 0xabcde <<< 25,
      .bcBrk { toff := 0xABCDE })] = true := by decide +kernel

/-- xf, ma: R224, R225. -/
theorem test_decode_xf_ma : decodesTo [
    (hd 1 12 0 ||| 1 <<< 13 ||| 382 <<< 16 ||| 257 <<< 25 ||| 504 <<< 34 ||| 11 <<< 43 ||| 0x7f7fffff <<< 64,
      .xfQuant { d := 382, a := 257, b := 504, ty := .f32, imm := 0x7F7FFFFF, cf := 1 }),
    (hd 1 12 1 ||| 383 <<< 16 ||| 256 <<< 25 ||| 385 <<< 34 ||| 11 <<< 43,
      .xfDq { d := 383, a := 256, b := 385, ty := .f32 }),
    (hd 1 12 2 ||| 2 <<< 13 ||| 383 <<< 16 ||| 257 <<< 25 ||| 12 <<< 43 ||| 1 <<< 53,
      .xfSign { d := 383, a := 257, ty := .bf16, sel := 1, cf := 2 }),
    (hd 1 12 3 ||| 383 <<< 16 ||| 257 <<< 25 ||| 18 <<< 43,
      .xfPack { d := 383, a := 257, ty := .tern }),
    (hd 1 13 0 ||| 2 <<< 13 ||| 382 <<< 16 ||| 66 <<< 25 ||| 11 <<< 32 ||| 4 <<< 36 ||| 1 <<< 39 ||| 9 <<< 41 ||| 0x800001 <<< 64,
      .maLd { d := 382, bp := 66, ac := 11, scp := .dev, acq := true, ty := .b64, off := 0x800001, cf := 2 }),
    (hd 1 13 1 ||| 382 <<< 16 ||| 66 <<< 25 ||| 11 <<< 32 ||| 5 <<< 36 ||| 1 <<< 40 ||| 9 <<< 41 ||| 0x800001 <<< 64,
      .maSt { d := 382, bp := 66, ac := 11, scp := .sys, rel := true, ty := .b64, off := 0x800001 }),
    (hd 1 13 2 ||| 383 <<< 16 ||| 11 <<< 32 ||| 4 <<< 41 ||| 2 <<< 46 ||| 258 <<< 48 ||| 0x800001 <<< 64 ||| 2 <<< 88,
      .maLdg { d := 383, ac := 11, ty := .n8, rc := 2, x := 258, off := 0x800001, sel := 2 }),
    (hd 1 13 3 ||| 383 <<< 16 ||| 11 <<< 32 ||| 12 <<< 41 ||| 258 <<< 48 ||| 0x800001 <<< 64 ||| 0x3c <<< 88,
      .maStg { d := 383, ac := 11, ty := .bf16, x := 258, off := 0x800001, sel := 0x3C }),
    (hd 1 13 4 ||| 383 <<< 16 ||| 67 <<< 25 ||| 11 <<< 32 ||| 2 <<< 36 ||| 11 <<< 41 ||| 0x800001 <<< 64 ||| 1 <<< 88,
      .maLds { d := 383, bp := 67, ac := 11, scp := .team, ty := .f32, off := 0x800001, sel := 1 }),
    (hd 1 13 5 ||| 382 <<< 16 ||| 67 <<< 25 ||| 11 <<< 32 ||| 1 <<< 36 ||| 1 <<< 40 ||| 10 <<< 41 ||| 0x800001 <<< 64,
      .maSts { d := 382, bp := 67, ac := 11, scp := .grp, rel := true, ty := .f64, off := 0x800001 }),
    (hd 1 13 6 ||| 1 <<< 13 ||| 383 <<< 16 ||| 67 <<< 25 ||| 11 <<< 32 ||| 17 <<< 41 ||| 259 <<< 48 ||| 0x800001 <<< 64 ||| 4 <<< 88,
      .maLdsc { d := 383, bp := 67, ac := 11, ty := .e8, x := 259, off := 0x800001, sel := 4, cf := 1 }),
    (hd 1 13 7 ||| 3 <<< 36 ||| 3 <<< 46 ||| 258 <<< 48 ||| 0x800001 <<< 64,
      .maPf { rc := 3, x := 258, scp := .clus, off := 0x800001, ty := .i8 }),
    (hd 1 13 8 ||| 383 <<< 16 ||| 11 <<< 32 ||| 8 <<< 41 ||| 63 <<< 88,
      .maFpush { d := 383, ac := 11, ty := .b32, sel := 63 }),
    (hd 1 13 9 ||| 1 <<< 13 ||| 382 <<< 16 ||| 11 <<< 32 ||| 8 <<< 41 ||| 41 <<< 88,
      .maFpop { d := 382, ac := 11, ty := .b32, sel := 41, cf := 1 })] = true := by decide +kernel

/-- mx, mx of 128 bits: R224, R225. -/
theorem test_decode_mx_my : decodesTo [
    (hd 1 14 0 ||| 1 <<< 13 ||| 383 <<< 16 ||| 257 <<< 25 ||| 258 <<< 34 ||| 11 <<< 43 ||| 1 <<< 47 ||| 6 <<< 52 ||| 2 <<< 57,
      .mxAtom96 { d := 383, a := 257, x := 258, ac := 11, scp := .grp, ty := .n32, sel := 2, cf := 1 }),
    (hd 1 14 1 ||| 382 <<< 16 ||| 256 <<< 25 ||| 258 <<< 34 ||| 11 <<< 43 ||| 5 <<< 47 ||| 1 <<< 50 ||| 1 <<< 51 ||| 9 <<< 52 ||| 130 <<< 64,
      .mxCas96 { d := 382, a := 256, x := 258, c := 130, ac := 11, scp := .sys, acq := true, rel := true, ty := .b64 }),
    (hd 1 14 2 ||| 382 <<< 16 ||| 256 <<< 25 ||| 258 <<< 34 ||| 11 <<< 43 ||| 4 <<< 47 ||| 10 <<< 52 ||| 2 <<< 57,
      .mxFatom96 { d := 382, a := 256, x := 258, ac := 11, scp := .dev, ty := .f64, sel := 2 }),
    (hd 1 14 3 ||| 257 <<< 25 ||| 258 <<< 34 ||| 11 <<< 43 ||| 3 <<< 47 ||| 8 <<< 52 ||| 5 <<< 57,
      .mxRed96 { a := 257, x := 258, ac := 11, scp := .clus, ty := .b32, sel := 5 }),
    (hd 2 14 0 ||| 382 <<< 16 ||| 256 <<< 25 ||| 258 <<< 34 ||| 11 <<< 43 ||| 2 <<< 47 ||| 1 <<< 51 ||| 3 <<< 52 ||| 1 <<< 57 ||| 66 <<< 73 ||| 0x800001 <<< 88,
      .mxAtom128 { d := 382, a := 256, x := 258, ac := 11, bp := 66, off := 0x800001, scp := .team, rel := true, ty := .i64, sel := 1 }),
    (hd 2 14 1 ||| 383 <<< 16 ||| 257 <<< 25 ||| 259 <<< 34 ||| 11 <<< 43 ||| 1 <<< 47 ||| 8 <<< 52 ||| 16 <<< 57 ||| 131 <<< 64 ||| 67 <<< 73 ||| 0x800001 <<< 88,
      .mxCas128 { d := 383, a := 257, x := 259, c := 131, ac := 11, bp := 67, off := 0x800001, scp := .grp, ty := .b32, sel := 16 }),
    (hd 2 14 2 ||| 383 <<< 16 ||| 257 <<< 25 ||| 259 <<< 34 ||| 11 <<< 43 ||| 4 <<< 47 ||| 11 <<< 52 ||| 1 <<< 57 ||| 66 <<< 73 ||| 0x800001 <<< 88,
      .mxFatom128 { d := 383, a := 257, x := 259, ac := 11, bp := 66, off := 0x800001, scp := .dev, ty := .f32, sel := 1 }),
    (hd 2 14 3 ||| 257 <<< 25 ||| 259 <<< 34 ||| 11 <<< 43 ||| 5 <<< 47 ||| 11 <<< 52 ||| 2 <<< 57 ||| 66 <<< 73 ||| 0x800001 <<< 88,
      .mxRed128 { a := 257, x := 259, ac := 11, bp := 66, off := 0x800001, scp := .sys, ty := .f32, sel := 2 })] = true := by decide +kernel

/-- ms: R224, R225. -/
theorem test_decode_ms : decodesTo [
    (hd 0 15 0 ||| 15 <<< 16 ||| 63 <<< 20,
      .msWaitc { ac := 15, k := 63 }),
    (hd 0 15 1 ||| 65 <<< 26 ||| 0x8001 <<< 40,
      .msWaitb { sa := 65, imm := 0x8001 }),
    (hd 0 15 2 ||| 65 <<< 26 ||| 34 <<< 33,
      .msWaitm { sa := 65, sb := 34 }),
    (hd 0 15 3,
      .msCommit {}),
    (hd 0 15 4 ||| 7 <<< 40 ||| 2 <<< 56,
      .msBarT { imm := 7, scp := .team }),
    (hd 0 15 5 ||| 5 <<< 40 ||| 3 <<< 56,
      .msBarR { imm := 5, scp := .clus }),
    (hd 0 15 6 ||| 5 <<< 56,
      .msBarG { scp := .sys }),
    (hd 0 15 7 ||| 66 <<< 26 ||| 34 <<< 33,
      .msBind { sa := 66, sb := 34 }),
    (hd 0 15 8 ||| 124 <<< 26 ||| 34 <<< 33,
      .msUnbind { sa := 124, sb := 34 }),
    (hd 0 15 9 ||| 0xff7f <<< 40,
      .msQjoin { imm := 0xFF7F }),
    (hd 0 15 10 ||| 376 <<< 40,
      .msRclaim { imm := 376 }),
    (hd 0 15 11 ||| 8 <<< 40,
      .msRgive { imm := 8 }),
    (hd 0 15 12 ||| 66 <<< 26 ||| 34 <<< 33 ||| 4 <<< 56,
      .msAcq { sa := 66, sb := 34, scp := .dev }),
    (hd 0 15 13 ||| 11 <<< 16 ||| 66 <<< 26 ||| 34 <<< 33 ||| 1 <<< 56,
      .msRel { ac := 11, sa := 66, sb := 34, scp := .grp })] = true := by decide +kernel

/-- ce, mf: R224, R225. -/
theorem test_decode_ce_mf : decodesTo [
    (hd 2 16 0 ||| 2 <<< 16 ||| 66 <<< 21 ||| 34 <<< 28 ||| 17 <<< 35 ||| 9 <<< 42 ||| 4 <<< 49 ||| 0x800001 <<< 64 ||| 0x400002 <<< 88,
      .ceCp { q := 2, src := 66, dst := 34, ln := 17, map := 9, sel := 4, offs := 0x800001, offd := 0x400002 }),
    (hd 2 16 1 ||| 2 <<< 16 ||| 66 <<< 21 ||| 34 <<< 28 ||| 17 <<< 35 ||| 9 <<< 42 ||| 5 <<< 49 ||| 0x800001 <<< 64 ||| 0x400002 <<< 88,
      .ceChain { q := 2, src := 66, dst := 34, ln := 17, map := 9, sel := 5, offs := 0x800001, offd := 0x400002 }),
    (hd 2 16 2 ||| 2 <<< 16 ||| 66 <<< 21 ||| 34 <<< 28 ||| 17 <<< 35 ||| 0x80 <<< 49 ||| 0x400002 <<< 88,
      .ceFill { q := 2, src := 66, dst := 34, ln := 17, sel := 0x80, offd := 0x400002 }),
    (hd 2 17 0 ||| 255 <<< 16 ||| 257 <<< 24 ||| 130 <<< 33 ||| 125 <<< 42 ||| 11 <<< 49 ||| 1 <<< 54 ||| 99 <<< 67,
      .mfMma { tc := 255, a := 257, b := 130, fb := 125, ty := .f32, sel := 1, cw := 99 }),
    (hd 2 17 1 ||| 254 <<< 16 ||| 257 <<< 24 ||| 130 <<< 33 ||| 66 <<< 42 ||| 11 <<< 49 ||| 13 <<< 54 ||| 383 <<< 58 ||| 99 <<< 67,
      .mfMmasp { tc := 254, a := 257, b := 130, fb := 66, ty := .f32, sel := 13, idx := 383, cw := 99 })] = true := by decide +kernel

/-- to: R224, R225. -/
theorem test_decode_to : decodesTo [
    (hd 1 18 0 ||| 255 <<< 16 ||| 99 <<< 57 ||| 66 <<< 64 ||| 0x800001 <<< 71,
      .toLd { td := 255, cw := 99, bp := 66, off := 0x800001, ty := .i8 }),
    (hd 1 18 1 ||| 254 <<< 24 ||| 99 <<< 57 ||| 66 <<< 64 ||| 0x800001 <<< 71,
      .toSt { ta := 254, cw := 99, bp := 66, off := 0x800001, ty := .i8 }),
    (hd 1 18 2 ||| 255 <<< 16 ||| 11 <<< 48 ||| 1 <<< 53 ||| 99 <<< 57,
      .toZero { td := 255, cw := 99, ty := .f32, sel := 1 }),
    (hd 1 18 3 ||| 255 <<< 16 ||| 99 <<< 57,
      .toFree { td := 255, cw := 99, ty := .i8 }),
    (hd 1 18 4 ||| 255 <<< 16 ||| 254 <<< 24 ||| 10 <<< 48 ||| 99 <<< 57,
      .toDense { td := 255, ta := 254, cw := 99, ty := .f64 }),
    (hd 1 18 5 ||| 255 <<< 16 ||| 254 <<< 24 ||| 12 <<< 48 ||| 99 <<< 57,
      .toCmpr { td := 255, ta := 254, cw := 99, ty := .bf16 }),
    (hd 1 18 9 ||| 255 <<< 16 ||| 254 <<< 24 ||| 11 <<< 48 ||| 99 <<< 57,
      .toLu { td := 255, ta := 254, cw := 99, ty := .f32 }),
    (hd 1 18 13 ||| 255 <<< 16 ||| 254 <<< 24 ||| 10 <<< 48 ||| 99 <<< 57,
      .toRound { td := 255, ta := 254, cw := 99, ty := .f64 }),
    (hd 1 18 12 ||| 255 <<< 16 ||| 254 <<< 24 ||| 99 <<< 57,
      .toTr { td := 255, ta := 254, cw := 99, ty := .i8 }),
    (hd 1 18 6 ||| 255 <<< 16 ||| 254 <<< 24 ||| 129 <<< 32 ||| 10 <<< 48 ||| 2 <<< 53 ||| 99 <<< 57,
      .toAdd { td := 255, ta := 254, tb := 129, cw := 99, sel := 2, ty := .f64 }),
    (hd 1 18 7 ||| 255 <<< 16 ||| 254 <<< 24 ||| 129 <<< 32 ||| 12 <<< 48 ||| 2 <<< 53 ||| 99 <<< 57,
      .toMul { td := 255, ta := 254, tb := 129, cw := 99, sel := 2, ty := .bf16 }),
    (hd 1 18 10 ||| 255 <<< 16 ||| 254 <<< 24 ||| 129 <<< 32 ||| 11 <<< 48 ||| 2 <<< 53 ||| 99 <<< 57,
      .toTrsm { td := 255, ta := 254, tb := 129, cw := 99, sel := 2, ty := .f32 }),
    (hd 1 18 8 ||| 255 <<< 16 ||| 254 <<< 24 ||| 129 <<< 32 ||| 66 <<< 40 ||| 11 <<< 48 ||| 3 <<< 53 ||| 99 <<< 57,
      .toGemm { td := 255, ta := 254, tb := 129, tc := 66, cw := 99, sel := 3, ty := .f32 }),
    (hd 1 18 11 ||| 255 <<< 16 ||| 254 <<< 24 ||| 10 <<< 48 ||| 99 <<< 57 ||| 66 <<< 64,
      .toScal { td := 255, ta := 254, cw := 99, bp := 66, ty := .f64 })] = true := by decide +kernel

/-- tq, gx, ta: R224, R225. -/
theorem test_decode_tq_gx_ta : decodesTo [
    (hd 1 19 0 ||| 2 <<< 13 ||| 65 <<< 16 ||| 255 <<< 23,
      .tqInfo { sd := 65, ta := 255, cf := 2 }),
    (hd 1 19 1 ||| 1 <<< 13 ||| 65 <<< 16 ||| 3 <<< 38,
      .tqGet { sd := 65, sel := 3, cf := 1 }),
    (hd 1 19 2 ||| 4 <<< 38 ||| 0x80000001 <<< 64,
      .tqSet { sel := 4, imm := 0x80000001 }),
    (hd 1 20 0 ||| 257 <<< 25 ||| 66 <<< 34 ||| 11 <<< 41 ||| 3 <<< 45 ||| 0x800001 <<< 64,
      .gxAdd { a := 257, bp := 66, ac := 11, rgn := 3, off := 0x800001 }),
    (hd 1 20 1 ||| 2 <<< 13 ||| 383 <<< 16 ||| 66 <<< 34 ||| 11 <<< 41 ||| 3 <<< 45 ||| 0x800001 <<< 64,
      .gxRead { d := 383, cf := 2, bp := 66, ac := 11, rgn := 3, off := 0x800001 }),
    (hd 1 20 2 ||| 2 <<< 45,
      .gxStep { rgn := 2 }),
    (hd 1 20 3 ||| 383 <<< 16 ||| 257 <<< 25 ||| 66 <<< 34 ||| 11 <<< 41 ||| 3 <<< 45 ||| 0x800001 <<< 64,
      .gxSpread { d := 383, a := 257, bp := 66, ac := 11, rgn := 3, off := 0x800001 }),
    (hd 1 20 4 ||| 11 <<< 41 ||| 1 <<< 45,
      .gxCtl { ac := 11, rgn := 1 }),
    (hd 0 21 0 ||| 352 <<< 16 ||| 32 <<< 25,
      .taRec { a := 352, n := 32 }),
    (hd 0 21 1 ||| 65 <<< 31,
      .taMark { sa := 65 }),
    (hd 0 21 2 ||| 1 <<< 13 ||| 352 <<< 16 ||| 31 <<< 25,
      .taPop { a := 352, n := 31, cf := 1 }),
    (hd 0 21 3,
      .taCtlFlush {}),
    (hd 0 21 3 ||| 1 <<< 38,
      .taCtlRewind { sel := 1 }),
    (hd 0 21 4 ||| 66 <<< 31,
      .taHash { sa := 66 }),
    (hd 0 21 5 ||| 15 <<< 25,
      .taGateOff { n := 15 }),
    (hd 0 21 5 ||| 14 <<< 25 ||| 122 <<< 31 ||| 1 <<< 38,
      .taGateRec { n := 14, sa := 122, sel := 1 }),
    (hd 0 21 5 ||| 13 <<< 25 ||| 66 <<< 31 ||| 2 <<< 38,
      .taGatePlay { n := 13, sa := 66, sel := 2 })] = true := by decide +kernel

/-- nm, ls, sy: R224, R225. -/
theorem test_decode_nm_ls_sy : decodesTo [
    (hd 2 22 0 ||| 66 <<< 16 ||| 0x800001 <<< 64,
      .nmUpd { bp := 66, off := 0x800001 }),
    (hd 2 22 1 ||| 66 <<< 16 ||| 5 <<< 23 ||| 42 <<< 26 ||| 0x800001 <<< 64,
      .nmLandInst { bp := 66, stk := 5, buf := 42, off := 0x800001 }),
    (hd 2 22 1 ||| 6 <<< 23 ||| 41 <<< 26 ||| 1 <<< 32,
      .nmLandRem { stk := 6, buf := 41, sel := 1 }),
    (hd 2 22 2 ||| 66 <<< 16 ||| 3 <<< 23 ||| 0x800001 <<< 64,
      .nmCtlDone { bp := 66, stk := 3, off := 0x800001 }),
    (hd 1 23 0 ||| 66 <<< 16 ||| 33 <<< 23 ||| 18 <<< 30 ||| 42 <<< 37 ||| 1 <<< 43 ||| 0xffffffff <<< 64,
      .lsLaunch { sa := 66, sb := 33, sx := 18, q := 42, coop := true, imm := 0xFFFFFFFF }),
    (hd 1 23 1 ||| 66 <<< 16 ||| 383 <<< 64,
      .lsSpawn { sa := 66, imm := 383 }),
    (hd 0 24 0 ||| 65 <<< 16 ||| 0x603 <<< 30,
      .syCsrr { sd := 65, csr := 0x603 }),
    (hd 0 24 1 ||| 65 <<< 23 ||| 0x202 <<< 30,
      .syCsrw { sa := 65, csr := 0x202 }),
    (hd 0 24 2 ||| 65 <<< 23 ||| 0x40f <<< 30,
      .syCsrs { sa := 65, csr := 0x40F }),
    (hd 0 24 3 ||| 65 <<< 23 ||| 0x304 <<< 30,
      .syCsrc { sa := 65, csr := 0x304 }),
    (hd 0 24 4 ||| 0xffff <<< 42,
      .syTrap { imm := 0xFFFF }),
    (hd 0 24 5,
      .syTret {}),
    (hd 0 24 6 ||| 66 <<< 16,
      .syClk { sd := 66 }),
    (hd 0 24 7 ||| 66 <<< 23,
      .syRng { sa := 66 })] = true := by decide +kernel

/-- vp: R224, with `vo.fadd.f32 v1, v2, v3 | vo.add.i32 v4, v5, v2`: the second operation is a complete vo instruction in
bits 127 to 64. -/
theorem test_decode_vp : decodesTo [
    (hd 2 7 17 ||| 1 <<< 16 ||| 2 <<< 25 ||| 3 <<< 34 ||| 11 <<< 43 |||
      (hd 0 4 0 ||| 4 <<< 16 ||| 5 <<< 25 ||| 2 <<< 34 ||| 2 <<< 43) <<< 64,
      .vp .fadd { d := 1, a := 2, b := 3, ty := .f32 } .add { d := 4, a := 5, b := 2, ty := .i32 })] = true := by
  decide +kernel

/-- The worked reading of R226: the bytes 10 11 0A 08 0C 5E 00 00 are `vo.fadd.f32 v10, v4, s3`. -/
theorem test_decode_worked : decodesTo [(0x00005E0C080A1110, .voFadd { d := 10, a := 4, b := 387, ty := .f32 })] = true := by
  decide +kernel

/-- A word is refused for the reason given. -/
def refuses (l : List (Nat × DecodeErr)) : Bool := l.all fun p =>
  match decode p.1 with
  | .ok _ => false
  | .error e => e == p.2

/-- R216, R219, R220, R222, R223, R225, R221: LEN 3, FMT 0 and 25, so at 96 bits, nm at 96 bits, OP beyond the grid, TY
19, SCP 6, a set reserved bit, and bit 15. -/
theorem test_decode_refuses : refuses [
    (hd 3 2 0, .lengthCode), (0, .format 0), (hd 0 25 0, .format 25), (hd 1 2 0, .lengthOfFormat 2),
    (hd 1 22 0, .lengthOfFormat 22), (hd 0 11 8, .unassigned 11 8), (hd 0 2 0 ||| 19 <<< 44, .unassigned 2 0),
    (hd 0 15 4 ||| 6 <<< 56, .unassigned 15 4), (hd 0 11 6 ||| 1 <<< 15, .reserved),
    (hd 0 24 6 ||| 1 <<< 63, .reserved), (hd 0 11 6 ||| 1 <<< 13, .reserved)] = true := by decide +kernel

/-- R216: an instruction's bytes are read up to its own length, and no further. -/
def readsBytes (bs : List Byte) (i : Instr) (rest : List Byte) : Bool :=
  match decodeBytes bs with
  | .ok (j, r) => i == j && r == rest
  | .error _ => false
theorem test_decodeBytes_length : readsBytes (toBytes 9 (hd 0 11 5)) (.bcExit {}) [0] = true := by decide +kernel
theorem test_decodeBytes_short : readsBytes (toBytes 7 (hd 0 11 5)) (.bcExit {}) [] = false := by decide +kernel
/-! ### Ill-formed terms: each breaks one check of Instr.wf -/

/-- No term of a list is well formed. -/
def ill (l : List Instr) : Bool := l.all fun i => !i.wf

theorem test_ill_ch : ill [.ch { clen := 16 }, .ch { wait := 4096 }, .ch { fa := 12, fav := true }, .ch { fa := 1 },
    .ch { fb := 12, fbv := true }, .ch { fb := 1 }, .ch { fa := 3, fav := true, fb := 3, fbv := true }] = true := by
  decide +kernel

theorem test_ill_so : ill [.soAdd { ty := .b32 }, .soAdd { sd := 128, ty := .i32 }, .soAdd { sa := 128, ty := .i32 },
    .soAdd { sb := 128, ty := .i32 }, .soAdd { sx := 1, ty := .i32 }, .soAdd { sel := 1, ty := .i32 },
    .soAnd { ty := .i32 }, .soCmp { ty := .i32, sel := 6 }, .soSel { sx := 128 }, .soSel { ty := .b32 },
    .soPopc { sb := 1 }, .soAdd64 { sd := 1 }, .soAdd64 { sa := 1 }, .soAdd64 { sb := 1 }, .soLea { ty := .i32, sd := 1 },
    .soLea { ty := .i32, sel := 8 }, .soMov { ty := .b64, sa := 1 }, .soMov { ty := .i32 }, .soRdid { sel := 8 },
    .soRdid { sa := 1 }] = true := by decide +kernel

theorem test_ill_sk : ill [.skMov { ty := .i32 }, .skMov { ty := .b32, sa := 1 }, .skMov { ty := .b32, imm := 2 ^ 32 },
    .skAdd { ty := .b32 }, .skAdd { ty := .i32, sel := 1 }, .skAnd { ty := .n32 }, .skCmp { ty := .n32, sel := 6 },
    .skAdd { ty := .i32, sd := 128 }] = true := by decide +kernel

theorem test_ill_vo : ill [.voAdd { ty := .b32 }, .voAdd { ty := .i32, d := 384 }, .voAdd { ty := .i32, a := 512 },
    .voAdd { ty := .i64, d := 1 }, .voAdd { ty := .i64, b := 1 }, .voAdd { ty := .i64, sat := true },
    .voAdd { ty := .i32, ty2 := .f32 }, .voAdd { ty := .i32, rm := .rtz }, .voAdd { ty := .i32, sel := 1 },
    .voMull { ty := .i64 }, .voMulh { ty := .i32, sat := true }, .voAnd { ty := .i32 }, .voShl { ty := .b64 },
    .voMin { ty := .i64 }, .voAbs { ty := .n32 }, .voAbs { ty := .i32, b := 1 }, .voAbs { ty := .f32, sat := true },
    .voBfe { ty := .b32 }, .voPopc { ty := .b32, b := 1 }, .voFadd { ty := .i32 }, .voFmin { ty := .f32, rm := .rtz },
    .voCvt { ty := .f32, ty2 := .f32 }, .voCvt { ty := .i32, ty2 := .f32, sat := true },
    .voCvt { ty := .f4, ty2 := .i32 }, .voCvt { ty := .i64, ty2 := .i32, rm := .rtz },
    .voCvt { ty := .f16, ty2 := .f32, sel := 2 }, .voCvt { ty := .f32, ty2 := .f32, sel := 1 },
    .voRnd { ty := .i32 }, .voRnd { ty := .f32, sat := true }, .voSel { ty := .b32, sel := 16 },
    .voMov { ty := .b32, b := 1 }] = true := by decide +kernel

theorem test_ill_vw_vk_vp : ill [.vwFma { ty := .i32 }, .vwFma { ty := .f32, neg := 8 }, .vwFma { ty := .f32, sel := 1 },
    .vwMad { ty := .i64 }, .vwMad { ty := .i32, neg := 1 }, .vwBfi { ty := .b32, sat := true },
    .vwCvtsr { ty := .f32, ty2 := .f64 }, .vwCvtsr { ty := .f16, ty2 := .f16 }, .vwCvtsr { ty := .f16, ty2 := .f32, sel := 2 },
    .vwPack { ty := .f32, ty2 := .i32 }, .vwPack { ty := .f16, ty2 := .f32, sel := 1 }, .vkAdd { ty := .b32 },
    .vkAdd { ty := .i32, rm := .rtz }, .vkMul { ty := .i32, sat := true }, .vkMov { ty := .f32, a := 1 },
    .vkFma { ty := .f16 }, .vkAdd { ty := .i32, imm := 2 ^ 32 },
    -- R232: banks, register counts, sources written, classes
    .vp .mov { d := 0, a := 8, ty := .b32 } .mov { d := 4, a := 9, ty := .b32 },
    .vp .fadd { d := 0, a := 8, b := 9, ty := .f32 } .add { d := 1, a := 10, b := 11, ty := .i32 },
    .vp .fadd { d := 0, a := 8, b := 9, ty := .f32 } .add { d := 1, a := 8, b := 9, ty := .i32 },
    .vp .mov { d := 0, a := 8, ty := .b32 } .mov { d := 1, a := 0, ty := .b32 },
    .vp .fadd { d := 0, a := 8, b := 8, ty := .f32 } .fmul { d := 1, a := 8, b := 8, ty := .f32 },
    .vp .add { d := 0, a := 8, b := 8, ty := .i32 } .xor { d := 1, a := 8, b := 8, ty := .b32 }] = true := by decide +kernel

theorem test_ill_vm_sf_xl_bc : ill [.vmCmp { sd := 125, ty := .i32 }, .vmCmp { ty := .b32 }, .vmCmp { ty := .i32, sel := 6 },
    .vmClass { ty := .i32 }, .vmClass { ty := .f32, b := 512 }, .vmClass { ty := .f32, sel := 1 }, .sfRcp { ty := .f64 },
    .sfRcp { ty := .f32, cf := 3 }, .sfErf { ty := .f32, d := 384 }, .xlShfl { ty := .i32 }, .xlShfl { ty := .b32, sel := 1 },
    .xlShfl { ty := .b32, sm := 125 }, .xlShflx { ty := .b32, b := 128 }, .xlShflx { ty := .b32, sel := 4 },
    .xlBfly { ty := .b32, sel := 5 }, .xlVote { ty := .b32, b := 1 }, .xlRdln { ty := .b32, b := 383 },
    .xlRdln { ty := .b32, b := 384, sm := 1 }, .xlWrln { ty := .b32, a := 0, b := 384 }, .xlScan { ty := .b32 },
    .xlScan { ty := .f32, sel := 3 }, .xlRed { ty := .i32, sel := 8 }, .bcBr { roff := 1 }, .bcBrd { roff := 0 },
    .bcBrd { roff := 2 ^ 19 }, .bcJmp { cv := 1 }, .bcJmp { toff := 2 ^ 20 }, .bcCall { cv := 1 }, .bcRet { toff := 1 },
    .bcExit { cv := 1 }, .bcNop { toff := 1 }, .bcBrk { roff := 1 }] = true := by decide +kernel

theorem test_ill_xf_ma : ill [.xfQuant { ty := .f32, b := 384, d := 1 }, .xfQuant { ty := .f32, b := 505 },
    .xfQuant { ty := .f32, b := 384, imm := 0x7F800000 }, .xfDq { ty := .f32, b := 384, a := 1 }, .xfDq { ty := .f16, b := 384 },
    .xfSign { ty := .f32, sel := 1 }, .xfSign { ty := .bf16, sel := 2 }, .xfPack { ty := .bf16 }, .xfPack { ty := .i8, imm := 1 },
    .maLd { ty := .f4 }, .maLd { ty := .i32, sel := 3 }, .maLd { ty := .i32, sel := 4 }, .maLd { ty := .bf16, sel := 12 },
    .maLd { ty := .i64, d := 1 }, .maLd { ty := .i32, bp := 1 }, .maLd { ty := .i32, ac := 16 }, .maLd { ty := .i32, acq := true },
    .maLd { ty := .i64, acq := true }, .maLd { ty := .i64, rel := true, scp := .grp }, .maSt { ty := .i32, cf := 1 },
    .maSt { ty := .i64, acq := true, scp := .grp }, .maSt { ty := .i32, x := 2 }, .maLdg { ty := .i32, x := 1 },
    .maLdg { ty := .i32, rc := 4 }, .maStg { ty := .i32, rc := 1 }, .maLds { ty := .i32, off := 2 ^ 24 },
    .maSts { ty := .i32, bp := 128 }, .maLdsc { ty := .i64, scp := .grp, acq := true }, .maPf { scp := .team },
    .maPf { ac := 1 }, .maFpush { ty := .i32 }, .maFpush { ty := .b32, cf := 1 }, .maFpop { ty := .b32, d := 1 }] = true := by
  decide +kernel

theorem test_ill_mx_ms : ill [.mxAtom96 { ty := .i32 }, .mxAtom96 { ty := .b32, scp := .grp },
    .mxAtom96 { ty := .i32, scp := .grp, x := 1 }, .mxAtom96 { ty := .i32, scp := .grp, acq := true },
    .mxAtom96 { ty := .i32, scp := .grp, sel := 16 }, .mxAtom96 { ty := .i32, scp := .grp, bp := 2 },
    .mxAtom128 { ty := .i32, scp := .grp, bp := 1 }, .mxAtom128 { ty := .i32, scp := .grp, sel := 32 },
    .mxCas96 { ty := .i32, scp := .grp }, .mxCas96 { ty := .b32, scp := .grp, sel := 1 }, .mxFatom96 { ty := .f16, scp := .grp },
    .mxFatom96 { ty := .f32, scp := .grp, sel := 3 }, .mxRed96 { ty := .b32, scp := .grp, sel := 6 },
    .mxRed96 { ty := .i32, scp := .grp, d := 1 }, .mxRed128 { ty := .i32, scp := .grp, cf := 1 },
    .msWaitc { k := 64 }, .msWaitc { ac := 16 }, .msWaitc { sa := 1 }, .msWaitb { imm := 2 ^ 16 }, .msWaitm { sb := 1 },
    .msCommit { imm := 1 }, .msBarT { imm := 8 }, .msBarR { sa := 1 }, .msBarG { scp := .clus }, .msBind { sa := 126 },
    .msBind { sb := 1 }, .msUnbind { sa := 1 }, .msQjoin {}, .msQjoin { imm := 128 }, .msRclaim { imm := 384 },
    .msRgive { imm := 4 }, .msAcq {}, .msRel { scp := .grp, sa := 1 }] = true := by decide +kernel

theorem test_ill_ce_mf_to : ill [.ceCp { q := 4 }, .ceCp { sel := 2 }, .ceCp { sel := 12 }, .ceCp { sel := 16 },
    .ceCp { src := 1 }, .ceCp { dst := 1 }, .ceCp { sel := 0x80, map := 1 }, .ceCp { sel := 8, offd := 1 },
    .ceChain { sel := 0 }, .ceChain { sel := 4, offd := 2 ^ 23 }, .ceFill { sel := 1 }, .ceFill { offs := 1 },
    .mfMma { ty := .f16 }, .mfMma { ty := .f32, fb := 126 }, .mfMma { ty := .f32, sel := 4 }, .mfMma { ty := .f32, idx := 1 },
    .mfMmasp { ty := .f32 }, .mfMmasp { ty := .f32, sel := 6 }, .mfMmasp { ty := .f32, sel := 4, idx := 384 },
    .toLd { ta := 1 }, .toLd { bp := 1 }, .toSt { td := 1 }, .toZero { ty := .f64, sel := 1 }, .toZero { ty := .f16 },
    .toFree { ty := .f64 }, .toDense { ty := .f64, tb := 1 }, .toAdd { ty := .f64, sel := 4 }, .toGemm { ty := .f64, tc := 256 },
    .toScal { ty := .f64, bp := 1 }, .toTr { ty := .f64 }, .toRound { ty := .f64, cw := 128 }] = true := by decide +kernel

theorem test_ill_tq_gx_ta : ill [.tqInfo { ta := 256 }, .tqInfo { imm := 1 }, .tqGet { sel := 4 }, .tqSet { sel := 5 },
    .tqSet { sd := 1 }, .gxAdd { d := 1 }, .gxAdd { bp := 1 }, .gxAdd { cf := 1 }, .gxRead { a := 1 }, .gxRead { rgn := 4 },
    .gxStep { ac := 1 }, .gxSpread { a := 512 }, .gxCtl { off := 1 }, .taRec { n := 0 }, .taRec { n := 33 },
    .taRec { a := 353, n := 32 }, .taPop { n := 1, cf := 3 }, .taMark { n := 1 }, .taCtlFlush { sel := 1 },
    .taCtlRewind {}, .taHash { sa := 1 }, .taGateOff { n := 16 }, .taGateRec { sel := 1, sa := 124 },
    .taGatePlay { sel := 1 }] = true := by decide +kernel

theorem test_ill_nm_ls_sy : ill [.nmUpd { stk := 1 }, .nmUpd { bp := 1 }, .nmLandInst { stk := 8 }, .nmLandInst { buf := 64 },
    .nmLandRem {}, .nmLandRem { sel := 1, off := 1 }, .nmCtlDone { buf := 1 }, .lsLaunch { sa := 1 }, .lsLaunch { q := 64 },
    .lsLaunch { imm := 2 ^ 32 }, .lsSpawn { imm := 384 }, .lsSpawn { coop := true }, .syCsrr { csr := 5 }, .syCsrr { sa := 1 },
    .syCsrw { csr := 0x501 }, .syCsrs { csr := 0x103 }, .syCsrc { sd := 1, csr := 0x100 }, .syTrap { imm := 2 ^ 16 },
    .syTret { sa := 1 }, .syClk { sd := 1 }, .syRng { sa := 1 }] = true := by decide +kernel

/-! ### Small states -/

/-- The address at which the tests' instructions stand. -/
def pc0 : DWord := 0x1000

/-- A page of 1 GiB of each class from 0 to 4, at that many GiB, mapped to the device memory at the same address. -/
def pages : SMap DWord := [(0, 0x1001), (0x1000, leafOf 0 0 7 0), (0x1008, leafOf 0x40000000 1 3 0),
  (0x1010, leafOf 0x80000000 2 3 0), (0x1018, leafOf 0xC0000000 3 3 0), (0x1020, leafOf 0x100000000 4 3 0)]

/-- Team 1 of context 1: one home group, group 32 of role 4 on core 0, whose threads of `m` are on the current path, and
of `em` active, in one issue group, number 1. -/
def mk (m em : ThreadMask) : State :=
  { agenda := [], cur := { role := 4, ig := 1 }, nextUid := 2, mbstatReady := true, ptab := pages,
    ctxs := [(1, {})], grids := [(1, { ctx := 1, count := 1, placed := 1, applied := true })],
    teams := [(1, { ctx := 1, grid := 1, alloc := 1, krec := { entry := 0x1000, tiles := 4 } })],
    allocs := [(1, { size := 4096, granules := [(0, 0)] })],
    roles := [(4, { entries := [{ kind := .path, pc := pc0, rpc := none, mask := m }], em := em, threads := m,
                    igs := [{ uid := 1, pc := pc0, slots := (List.range 96).map fun l =>
                              if m.getLsbD l then some 0 else none }] })],
    groups := [(32, { team := 1, gran := 2 })], cores := [(0, { free := 510 })] }

/-- One active lane, lane 0; lanes 0 and 1; lane 0 held but not active. -/
def one : State := mk 1 1
def two : State := mk 3 3
def idle : State := mk 1 0

/-- A clause whose flag 11 is free, or full. -/
def inClause (n : Nat) : State := (one.modIg one.cur fun g =>
  { g with clause := some { hdr := 0x0FF8, len := 2, fa := some 11, fb := none, idx := 0 } }).modGroup 32 fun g =>
  { g with cf := [(11, n)] }

theorem homed_of {s : State} {ctx key n : Nat} (h : (!(s.keySlot ctx).blocked && (List.range n).all fun i =>
    match findKey s.msc ((key + i) / 64) with
    | some m => m.slot == ctx && m.valid == allValid
    | none => false) = true) : Homed s ctx key n := by
  simp only [Bool.and_eq_true, Bool.not_eq_true'] at h
  refine ⟨h.1, fun i hi => ?_⟩
  have := List.all_eq_true.mp h.2 i (List.mem_range.mpr hi)
  split at this
  · rename_i m hm
    simp only [Bool.and_eq_true, beq_iff_eq] at this
    exact ⟨m, hm, this.1, this.2⟩
  · simp at this

/-- A next state. -/
def goesOn : Out → Bool
  | .next _ => true
  | _ => false

theorem next_of {o : Out} (h : goesOn o = true) : ∃ t, o = .next t := by
  cases o <;> simp_all [goesOn]

/-- Whether an instruction completes in a state of which `p` holds. -/
def runs (i : Instr) (s : State) (p : State → Bool) : Bool :=
  match exec i s with
  | .next t => p t
  | _ => false

/-! ### Witnesses: states and operands that meet the hypotheses of each statement -/

/-- ScalarArithmetic to ScalarConstants: the last register pair below em0, with each type and the last selector. -/
theorem witness_Scalar : ∃ x y : SoArgs, ∃ k : SkArgs, isEm x.sd = false ∧ isEm (x.sd + 1) = false ∧ x.ty = .i32 ∧
    x.sel < 8 ∧ isEm y.sd = false ∧ y.ty = .n32 ∧ isEm k.sd = false ∧ k.ty = .n32 :=
  ⟨{ sd := 122, ty := .i32, sel := 7 }, { sd := 127, ty := .n32 }, { sd := 123, ty := .n32 }, by decide⟩

theorem witness_ScalarPairs : ∃ x y : SoArgs, isEm x.sd = false ∧ isEm (x.sd + 1) = false ∧ x.ty = .b64 ∧
    isEm y.sd = false ∧ isEm (y.sd + 1) = false ∧ y.ty = .b32 :=
  ⟨{ sd := 0, ty := .b64 }, { sd := 122, ty := .b32 }, by decide⟩

/-- EmWrite, one instruction of each of its six shapes, at the first and the last mask register. -/
theorem witness_EmWrite : isEm 124 = true ∧ isEm 126 = true ∧ Records one ∧
    (∃ x : SoArgs, x.sd = 124 ∧ ∃ c ∈ [Instr.soAdd], c x = .soAdd x ∧ ∃ u, exec (c { x with sd := 0 }) one = .next u) ∧
    (∃ x : SoArgs, x.sd = 126 ∧ ∃ u, exec (.soAdd64 { x with sd := 0 }) one = .next u) ∧
    (∃ x : SoArgs, x.sd = 126 ∧ x.ty = .b64 ∧ ∃ u, exec (.soMov { x with sd := 0 }) one = .next u) ∧
    (∃ x : SkArgs, x.sd = 124 ∧ ∃ u, exec (.skMov { x with sd := 0 }) one = .next u) ∧
    ∃ x : SyArgs, x.sd = 126 ∧ (∃ u, exec (.syCsrr { x with sd := 0 }) one = .next u) ∧
      ∃ u, exec (.syClk { x with sd := 0 }) one = .next u :=
  ⟨rfl, rfl, by unfold Records; decide +kernel,
    ⟨{ sd := 124 }, rfl, .soAdd, by simp, rfl, next_of (by decide +kernel)⟩,
    ⟨{ sd := 126 }, rfl, next_of (by decide +kernel)⟩, ⟨{ sd := 126, ty := .b64 }, rfl, rfl, next_of (by decide +kernel)⟩,
    ⟨{ sd := 124 }, rfl, next_of (by decide +kernel)⟩,
    ⟨{ sd := 126, csr := 1 }, rfl, next_of (by decide +kernel), next_of (by decide +kernel)⟩⟩

/-- FloatRounding: of each format the least subnormal and the greatest finite value, and of those that have them an
infinity and a signalling NaN; a zero beside them. -/
theorem witness_FloatRounding :
    (∀ t ∈ [Ty.f64, .f32, .f16, .bf16, .f8e5, .f8e4, .f4], 1 % 2 ^ (fmt t).sign ≤ (fmt t).maxFin ∧ ratOf t 1 ≠ 0 ∧
      (fmt t).maxFin % 2 ^ (fmt t).sign ≤ (fmt t).maxFin ∧ ratOf t (fmt t).maxFin ≠ 0) ∧
    ∀ t ∈ [Ty.f64, .f32, .f16, .bf16],
      (fmt t).maxFin + 2 < 2 * 2 ^ (fmt t).sign ∧ ((fmt t).maxFin + 1) % 2 ^ (fmt t).sign = (fmt t).maxFin + 1 ∧
      (fmt t).maxFin + 1 < ((fmt t).maxFin + 2) % 2 ^ (fmt t).sign ∧ ratOf t 0 = 0 ∧
      ¬(fmt t).maxFin + 1 < (fmt t).maxFin % 2 ^ (fmt t).sign := by decide +kernel

/-- ScaleCodes: a NaN in the formats that have one, an infinity, a zero, and the least and greatest finite values. -/
theorem witness_ScaleCodes : (∀ t ∈ [Ty.f64, .f32, .bf16, .f16, .f8e5], (fmt t).hasInf = true ∧
      (fmt t).maxFin + 1 < ((fmt t).maxFin + 2) % 2 ^ (fmt t).sign ∧ ((fmt t).maxFin + 1) % 2 ^ (fmt t).sign = (fmt t).maxFin + 1) ∧
    ((fmt .f8e4).hasInf = false ∧ (fmt .f8e4).maxFin < 0x7F % 2 ^ (fmt .f8e4).sign) ∧
    ∀ t ∈ [Ty.f64, .f32, .bf16, .f16, .f8e5, .f8e4, .f4], 0 % 2 ^ (fmt t).sign = 0 ∧ 0 < (fmt t).maxFin % 2 ^ (fmt t).sign ∧
      (fmt t).maxFin < 2 ^ ((fmt t).sign + 1) := by decide

theorem issuing_one : Issuing one := ⟨one.ig one.cur, by decide +kernel, by decide +kernel⟩

theorem witness_ClauseHeader : (one.ig one.cur).resume = none ∧ Issuing one := ⟨by decide +kernel, issuing_one⟩

/-- VectorInteger, VectorBits, VectorSelect, VectorFloat: an operand record of each type that a clause names. -/
theorem witness_VectorForms : (∃ x : VoArgs, x.ty ∈ [Ty.i32, .n32, .i64, .n64] ∧ x.sat = false) ∧
    (∃ x : VoArgs, x.ty = .i32 ∧ x.sat = true) ∧ (∃ x : VoArgs, x.ty = .n32 ∧ x.sat = true) ∧
    (∃ x : VoArgs, x.ty.is64 = false) ∧ (∃ x : VoArgs, x.ty ∈ [Ty.f64, .f32, .f16, .bf16]) :=
  ⟨⟨{ ty := .n64 }, by decide⟩, ⟨{ ty := .i32, sat := true }, by decide⟩, ⟨{ ty := .n32, sat := true }, by decide⟩,
    ⟨{ ty := .b32 }, by decide⟩, ⟨{ ty := .bf16 }, by decide⟩⟩

theorem witness_VectorConvert : Instr.wf (.voCvt { ty := .f16, ty2 := .f64, sel := 1 }) = true ∧
    Instr.wf (.voCvt { ty := .i64, ty2 := .f4, sel := 7 }) = true ∧ Instr.wf (.voRnd { ty := .f4, sel := 7 }) = true := by
  decide

theorem witness_VectorFourOperand : (∃ x : VwArgs, x.ty = .i32 ∧ x.sat = true) ∧ (∃ x : VwArgs, x.ty = .n32) ∧
    ∃ x : VwArgs, x.ty = .b32 :=
  ⟨⟨{ ty := .i32, sat := true }, by decide⟩, ⟨{ ty := .n32 }, rfl⟩, ⟨{ ty := .b32 }, rfl⟩⟩

theorem witness_VectorConstant : (∃ x : VkArgs, x.imm < 2 ^ 32 ∧ x.ty = .f32) ∧
    (∃ x : VkArgs, x.imm < 2 ^ 32 ∧ x.ty = .i32 ∧ x.sat = true) ∧ ∃ x : VkArgs, x.imm < 2 ^ 32 ∧ x.ty = .n32 ∧ x.sat = true :=
  ⟨⟨{ ty := .f32, imm := 0xFFFFFFFF }, by decide⟩, ⟨{ ty := .i32, sat := true, imm := 0x80000000 }, by decide⟩,
    ⟨{ ty := .n32, sat := true }, by decide⟩⟩

theorem witness_VectorPair : Instr.wf (.vp .fadd { d := 1, a := 2, b := 3, ty := .f32 } .mov { d := 2, a := 2, ty := .b32 }) =
    true := by decide

theorem witness_MaskForms : Records one ∧ Records two := ⟨by unfold Records; decide +kernel, by unfold Records; decide +kernel⟩

/-- FloatComparison: a NaN on either side, and the two zeros; FloatClass: every format. -/
theorem witness_FloatComparison : (isNaN .f32 0x7F800001 || isNaN .f32 0) = true ∧
    (isNaN .f16 0x7C00 || isNaN .f16 0xFE00) = true ∧ (isNaN .f64 0 || isNaN .f64 (2 ^ 63)) = false ∧
    isZeroF .f64 0 = true ∧ isZeroF .f64 (2 ^ 63) = true ∧ ∀ t ∈ [Ty.f64, .f32, .f16, .bf16], isZeroF t 0 = true := by
  decide

theorem witness_SpecialOperands : isNaN .f32 0x7FC00000 = true ∧ ∃ p q, decodeF .f32 0xBF800000 = .fin true p q := by
  refine ⟨by decide, ?_⟩
  have h : (match decodeF .f32 0xBF800000 with | .fin true _ _ => true | _ => false) = true := by decide +kernel
  split at h
  · exact ⟨_, _, by assumption⟩
  · simp at h

/-- CrossLane: two lanes of one issue group, and the last selector of each form. -/
theorem witness_CrossLane : two.lanes two.cur ≠ [] ∧ two.xlParty = some [two.cur] ∧
    (∀ h ∈ homesOf ([two.cur].flatMap two.lanes), two.pendingElsewhere (two.gid h) 0
      (BitVec.allOnes 96) (maskOf ([two.cur].flatMap two.lanes) h) = false) ∧ ({ sel := 3 } : XlArgs).sel < 4 := by decide +kernel

theorem witness_Combination : (∀ v ∈ ([] : List Nat), v < 2 ^ 32) ∧ (∀ v ∈ [0xFFFFFFFF, 0], v < 2 ^ 32) ∧
    (Ty.n32 = .i32 ∨ Ty.n32 = .n32) := by decide

/-- A second issue group of the path that is still on its way; a lane outside the step with a load of v0 outstanding. -/
def onItsWay : State := two.modRole 4 fun r =>
  { r with igs := [{ uid := 1, pc := pc0, slots := [some 0] }, { uid := 2, pc := 0x2000, slots := [none, some 0] }] }
theorem witness_CrossLaneWaits : onItsWay.lanes onItsWay.cur ≠ [] ∧ onItsWay.xlParty = none ∧
    (let p := (mk (1 ||| BitVec.twoPow 3072 95) 1).withOp { id := 1, kind := .load, ig := 2, writes := [0], lanes := [{ lane := 95, addr := 0 }] }
     p.lanes p.cur ≠ [] ∧ ∃ party, p.xlParty = some party ∧ ∃ h ∈ homesOf (party.flatMap p.lanes),
       p.pendingElsewhere (p.gid h) 0 (BitVec.allOnes 96) (maskOf (party.flatMap p.lanes) h) = true) :=
  ⟨by decide +kernel, by decide +kernel, by decide +kernel, [one.cur], by decide +kernel, 0, by decide +kernel,
    by decide +kernel⟩

/-- Branches: every way that the conditions and the return addresses can fall. -/
theorem witness_Branches :
    (∀ p ∈ two.lanes two.cur, (two.src (two.gid p.2) p.1 0 != 0) = false) ∧
    (let s := (two.setV 0 0 1).setV 0 1 1
     s.lanes s.cur ≠ [] ∧ ∀ p ∈ s.lanes s.cur, (s.src (s.gid p.2) p.1 0 != 0) = true) ∧
    (let s := (two.setV 0 0 1).handler 0x2000
     Handled s ∧ (∃ p ∈ s.lanes s.cur, (s.src (s.gid p.2) p.1 0 != 0) = true) ∧
       (∃ p ∈ s.lanes s.cur, (s.src (s.gid p.2) p.1 0 != 0) = false) ∧
       s.lanes s.cur = (0, 0) :: [] ++ (1, 0) :: [] ∧ s.src (s.gid 0) 1 0 ≠ s.src (s.gid 0) 0 0) ∧
    idle.lanes idle.cur = [] ∧
    (∀ p ∈ two.lanes two.cur, ∀ q ∈ two.lanes two.cur,
      two.src (two.gid q.2) q.1 0 = two.src (two.gid p.2) p.1 0 ∧ (two.src (two.gid p.2) p.1 0).toNat % 4 = 0) ∧
    (let s := ((two.setV 0 0 2).setV 0 1 2).handler 0x2000
     Handled s ∧ ∀ p ∈ s.lanes s.cur, ∀ q ∈ s.lanes s.cur,
       s.src (s.gid q.2) q.1 0 = s.src (s.gid p.2) p.1 0 ∧ (s.src (s.gid p.2) p.1 0).toNat % 4 ≠ 0) := by
  unfold Handled
  decide +kernel

/-- The stack of role 4 with `n` reconvergence entries under its path. -/
def deep (n : Nat) : State := two.modRole 4 fun r =>
  { r with entries := r.entries ++ List.replicate n { kind := .reconv, pc := 0, rpc := none, mask := 3 } }

/-- The path's own entry. -/
def top : Entry := { kind := .path, pc := pc0, rpc := none, mask := 3 }

/-- MeetResolution: stacks of 1, 62 and 63 entries; no thread, one thread and all threads in T. -/
theorem witness_MeetResolution_stack : ∀ s ∈ [deep 0, deep 61, deep 62], (s.role 4).path = some top ∧
    (s.role 4).entries.head? = some top ∧ (s.grid (s.team (roleTeam 4)).grid).lost = false ∧ (s.role 4).exited = 0 := by
  decide +kernel
theorem witness_MeetResolution_length : ((deep 61).role 4).entries.length = 62 ∧ ((deep 62).role 4).entries.length = 63 := by
  decide +kernel
theorem witness_MeetResolution_threads : (0 : ThreadMask) &&& ~~~(top.mask &&& ~~~0) = 0 ∧
    (1 : ThreadMask) &&& ~~~(top.mask &&& ~~~0) = 0 ∧ top.mask &&& ~~~(0 : ThreadMask) &&& ~~~1 ≠ 0 ∧
    (3 : ThreadMask) &&& ~~~(top.mask &&& ~~~0) = 0 ∧ top.mask &&& ~~~(0 : ThreadMask) &&& ~~~3 = 0 := by
  simp [top]

theorem handled_one : Handled (one.handler 0x2000) := by
  unfold Handled
  decide +kernel

theorem witness_TrapEntry : Handled (one.handler 0x2000) ∧ (0x11 : Nat) ≠ 8 := ⟨handled_one, by decide⟩

/-- TrapTerminates: no handler, a misaligned one, and a handler that is active. -/
def acting : State := (one.handler 0x2000).modGroup 32 fun g => { g with trapCause := 0x80000000, trapPc := 0x3000 }
theorem witness_TrapTerminates : (one.team one.curTeam).trapvec = 0 ∧
    ((one.handler 2).team (one.handler 2).curTeam).trapvec.toNat % 4 ≠ 0 ∧
    (∃ h ∈ (acting.ig acting.cur).homes, (acting.group (acting.gid h)).act = true) ∧
    ∀ s ∈ [one, one.handler 2, acting], (s.team s.curTeam).terminated = false ∧
      (s.grid (s.team s.curTeam).grid).krec.coop = false := by decide +kernel

theorem witness_SoftwareTraps : (one.handler 0x2000).lanes (one.handler 0x2000).cur ≠ [] ∧ Handled (one.handler 0x2000) ∧
    idle.lanes idle.cur = [] := ⟨by decide +kernel, handled_one, by decide +kernel⟩

/-- TrapReturn: an aligned and a misaligned TRAPPC, no entry in any window and one that is held. -/
def misled : State := acting.modGroup 32 fun g => { g with trapPc := 0x3002 }
theorem witness_TrapReturn : (∀ s ∈ [acting, misled], (s.ig s.cur).homes ≠ [] ∧
      ∀ h ∈ (s.ig s.cur).homes, (s.group (s.gid h)).act = true) ∧
    (acting.group (acting.gid ((acting.ig acting.cur).homes.headD 0))).trapPc.toNat % 4 = 0 ∧
    (misled.group (misled.gid ((misled.ig misled.cur).homes.headD 0))).trapPc.toNat % 4 ≠ 0 ∧
    (∀ p ∈ acting.pairs, ∀ e ∈ p.2.window, e.held = true → ∀ h ∈ (acting.ig acting.cur).homes, e.group ≠ acting.gid h) ∧
    ∃ h ∈ (one.ig one.cur).homes, (one.group (one.gid h)).act = false := by decide +kernel

/-- Context 1 as a test context. -/
def testing : State := one.modCtx 1 fun c => { c with test := true }
/-- CsrRead and CsrWrite: contexts of both kinds, and an idle tape. -/
theorem witness_CsrRead : isEm 127 = false ∧ (testing.ctx (testing.groupCtx 32)).test = true ∧
    (one.ctx (one.groupCtx 32)).test = false ∧ (one.group 32).tapeIdle = true := by decide +kernel
theorem witness_CsrWrite : (one.group 32).tapeIdle = true ∧ (testing.ctx (testing.groupCtx 32)).test = true ∧
    (0x304 : Nat) ≠ 0x303 := by decide +kernel

/-- CsrForms: a write of TAPECTL with an entry still in the tape queue. -/
def taping : State := one.modGroup 32 fun g => { g with tapeQ := [.write 0 []] }
theorem witness_CsrForms : (∃ h ∈ taping.suppliers taping.cur, (taping.group (taping.gid h)).tapeIdle = false) ∧
    ¬∃ h ∈ one.suppliers one.cur, (one.group (one.gid h)).tapeIdle = false := by decide +kernel

theorem witness_ClockAndGenerator : isEm 122 = false ∧ isEm 123 = false := by decide

/-! Memory instructions at issue. -/

/-- A check that passes. -/
def passes (c : Chk) : Bool :=
  match c with
  | .ok _ => true
  | .bad _ => false
theorem pass_of {c : Chk} (h : passes c = true) : ∃ t, c = .ok t := by
  cases c <;> simp_all [passes]

theorem lanesPass_of {s : State} {need : Need} {permits : Nat → Bool} {store : Bool} {n : Nat} {a : Nat → Nat → DWord}
    (h : ((s.lanes s.cur).all fun p => decide ((a (s.gid p.2) p.1).toNat % n = 0) &&
      passes (s.check s.curCtx need permits store (a (s.gid p.2) p.1).toNat)) = true) : LanesPass s need permits store n a := by
  intro p hp
  have := List.all_eq_true.mp h p hp
  simp only [Bool.and_eq_true, decide_eq_true_eq] at this
  exact ⟨this.1, pass_of this.2⟩

/-- Loads, Stores and Atomics: lanes at the end of a page, and the last offsets of the scratch allocation. -/
theorem witness_Loads : two.room (some 15) 0 = true ∧
    LanesPass two .rd maClass false 32 (fun _ l => 0x3FFFFFC0 + BitVec.ofNat 64 (32 * l)) ∧
    OffsetsPass two 32 fun _ l => 4032 + (32 * l : Nat) :=
  ⟨by decide +kernel, lanesPass_of (by decide +kernel), by unfold OffsetsPass; decide +kernel⟩

theorem witness_Stores : two.room (some 15) 0 = true ∧ ({ sel := 2 } : MaArgs).sel / 4 % 2 = 0 ∧
    (∀ h ∈ two.suppliers two.cur, (two.group (two.gid h)).tapeHashing = false) ∧
    LanesPass two .wr maClass true 32 (fun _ l => 0x3FFFFFC0 + BitVec.ofNat 64 (32 * l)) ∧
    OffsetsPass two 32 fun _ l => 4032 + (32 * l : Nat) :=
  ⟨by decide +kernel, rfl, by decide +kernel, lanesPass_of (by decide +kernel), by unfold OffsetsPass; decide +kernel⟩

theorem witness_Atomics : two.room (some 15) 0 = true ∧ LanesPass two .both mxClass false 8 (fun _ l => BitVec.ofNat 64 (8 * l)) ∧
    OffsetsPass two 8 (fun _ l => 4080 + (8 * l : Nat)) ∧ ({ sel := 15 } : MxArgs).sel / 16 % 2 = 0 ∧
    ({ sel := 31 } : MxArgs).sel / 16 % 2 = 1 :=
  ⟨by decide +kernel, lanesPass_of (by decide +kernel), by unfold OffsetsPass; decide +kernel, rfl, rfl⟩

/-- AccessFails: a misaligned address; the second lane on an unmapped page (4), and one on a page of class 3 (6); a load
under a flag; an offset at the end of the allocation and a misaligned one, past an offset that fits. -/
theorem witness_AccessFails : one.room (some 0) 0 = true ∧ (inClause 62).room (some 0) 1 = true ∧
    ({ sel := 15 } : MxArgs).sel / 16 % 2 = 0 ∧ ({ sel := 16 } : MxArgs).sel / 16 % 2 = 1 ∧
    (let fits := fun (o : Int) => 0 ≤ o ∧ o + 4 ≤ (two.scratchOf two.curTeam).size
     (4092 : Int) % 4 = 0 ∧ fits 4092 ∧ ¬fits 4096 ∧ ¬fits (-4) ∧ (4090 : Int) % 4 ≠ 0) ∧
    passes (two.check two.curCtx .both mxClass false 0x3FFFFFF8) = true ∧
    two.check two.curCtx .both mxClass false 0xC0000000 = .bad 6 ∧
    one.lanes one.cur = [] ++ (0, 0) :: [] ∧ (2 : Nat) % 4 ≠ 0 ∧
    two.lanes two.cur = [(0, 0)] ++ (1, 0) :: [] ∧ passes (two.check two.curCtx .rd maClass false 0x13FFFFFFC) = true ∧
    two.check two.curCtx .rd maClass false 0x140000000 = .bad 4 ∧ two.check two.curCtx .rd maClass false 0xC0000000 = .bad 6 := by
  decide +kernel

theorem witness_Deschedule : Issuing one := issuing_one

/-- Bank 63 of cluster 0 in FIFO mode, attached to context 1. -/
def fifo (f : List (LaneMask × Vec)) : State := one.modBank 0 63 fun b => { b with mode := 3, ctl := 0x10003, fifo := f }
theorem witness_FifoForms : (fifo []).lanes (fifo []).cur ≠ [] ∧ (fifo []).room (some 0) 0 = true ∧
    (let b := ((fifo []).cluster ((fifo []).groupCluster (fifo []).lowest)).bank 63
     b.mode = 3 ∧ b.ctl.toNat / 2 ^ 16 % 256 = (fifo []).curCtx) ∧
    (∃ l h, ((fifo []).ig (fifo []).cur).slots[l]? = some (some h) ∧ l ∈ ((fifo []).lanes (fifo []).cur).map (·.1)) ∧
    (∃ l h, (idle.ig idle.cur).slots[l]? = some (some h) ∧ l ∉ (idle.lanes idle.cur).map (·.1)) ∧
    ((one.cluster (one.groupCluster one.lowest)).bank 63).mode ≠ 3 ∧ idle.lanes idle.cur = [] := by
  refine ⟨?_, ?_, ?_, ⟨0, 0, ?_⟩, ⟨0, 0, ?_⟩, ?_, ?_⟩ <;> decide +kernel

/-- Prefetch: no address that passes; a line that no lane names, valid at home, and past device memory; no dirty byte. -/
theorem witness_Prefetch_line : (one.withLine 0x1000000).validAt 1 0x40000000 = true ∧ ¬2 ^ 64 + 64 < 2 ^ 64 ∧
    one.cores.all (fun c => c.2.level.bytes.isEmpty) = true ∧ one.clusters = [] := by decide +kernel
theorem witness_Prefetch : ∀ p ∈ one.lanes one.cur, ∀ t, one.check one.curCtx .rd maClass false 0x140000000 ≠ .ok t := by
  intro p _ t h
  have : passes (one.check one.curCtx .rd maClass false 0x140000000) = false := by decide +kernel
  rw [h] at this
  exact Bool.noConfusion this

theorem witness_NoRoomWaits :
    (one.modGroup 32 fun g => { g with ac := [(15, 63)] }).room (some 15) 0 = false := by decide +kernel

/-! Waits, barriers, binding and claims. -/

theorem witness_WaitCounter : (∀ h ∈ one.suppliers one.cur, SMap.look 0 (one.group (one.gid h)).ac 0 ≤ 0) ∧
    (let s := one.modGroup 32 fun g => { g with ac := [(0, 1)] }
     ¬∀ h ∈ s.suppliers s.cur, SMap.look 0 (s.group (s.gid h)).ac 0 ≤ 0) := by decide +kernel

/-- A scratch allocation whose last doubleword holds 5. -/
def landed : State := one.modAlloc 1 fun a => { a with bytes := [(4088, 5)] }
/-- WaitBatchAndMap: a batch that is open and one that is not; a map with and without the bits of its mask; an offset that
is misaligned and one that passes the allocation. -/
theorem witness_WaitBatchAndMap : one.lanes one.cur ≠ [] ∧
    (∀ h ∈ one.suppliers one.cur, (one.group (one.gid h)).batches = []) ∧
    (let s := one.modGroup 32 fun g => { g with batches := [(65535, 1)] }
     ∃ h ∈ s.suppliers s.cur, 65535 ∈ (s.group (s.gid h)).batches.map Prod.fst ∧ (0 + 65536 - 65535) % 65536 ≤ 32767) ∧
    4088 % 8 = 0 ∧ 4088 + 8 ≤ (landed.scratchOf landed.curTeam).size ∧
    BitVec.ofNat 64 (ofLE ((landed.scratchOf landed.curTeam).read 4088 8)) &&& 4 = 4 ∧
    BitVec.ofNat 64 (ofLE ((landed.scratchOf landed.curTeam).read 4088 8)) &&& 7 ≠ 7 ∧
    landed.suppliers landed.cur = [] ++ 0 :: [] ∧ (4092 : Nat) % 8 ≠ 0 ∧ ¬4096 + 8 ≤ (landed.scratchOf landed.curTeam).size := by
  decide +kernel

/-- Commit: nothing pending; 64 batches; and 63, of which the one waited for is not complete, is complete, or is none. -/
def committing (n : Nat) (c : Option Nat) (w : Wait) : State :=
  (one.modGroup 32 fun g => { g with pending := 1, commitFor := c, batches := (List.range n).map fun k => (k, 1) }).modIg
    one.cur fun g => { g with wait := w }
def commitFull (s : State) : Bool := (s.suppliers s.cur).any fun h =>
  (s.group (s.gid h)).pending != 0 && (decide (64 ≤ (s.group (s.gid h)).batches.length) ||
    ((s.ig s.cur).wait == .full && match (s.group (s.gid h)).commitFor with
      | some n => ((s.group (s.gid h)).batches.map Prod.fst).contains n
      | none => false))
theorem witness_Commit : commitFull one = false ∧ commitFull (committing 64 none .none) = true ∧
    commitFull (committing 63 (some 5) .full) = true ∧ commitFull (committing 63 (some 63) .full) = false ∧
    commitFull (committing 63 none .none) = false ∧ Issuing (committing 64 none .none) := by
  refine ⟨?_, ?_, ?_, ?_, ?_, ⟨(committing 64 none .none).ig (committing 64 none .none).cur, ?_⟩⟩ <;> decide +kernel

/-- The kernel of the grid made cooperative, and its barrier lost. -/
def coop (lost : Bool) : State := one.modGrid 1 fun g => { g with krec := { g.krec with coop := true }, lost := lost }
theorem witness_BarrierArrival_drain :
    (let s := one.modTeam 1 fun t => { t with place := .pair 0 }
     Scope.dev ≠ .none ∧ pointOf (s.team s.curTeam).place .dev = .home ∧ pointOf (s.team s.curTeam).place .dev ≠ .core) ∧
    (one.grid (one.team one.curTeam).grid).krec.coop = false ∧
    (let s := idle.modGrid 1 fun g => { g with krec := { g.krec with coop := true } }
     activeThreads (s.role 4).active (s.ig s.cur) = 0 ∧ (s.grid (s.team s.curTeam).grid).krec.coop = true ∧
       s.lanes s.cur = []) := by decide +kernel
theorem witness_BarrierArrival : activeThreads (one.role 4).active (one.ig one.cur) ≠ 0 ∧ one.holds .grp = false ∧
    activeThreads (idle.role 4).active (idle.ig idle.cur) = 0 ∧
    (one.withOp { id := 1, kind := .store, ig := 1 }).holds .grp = true ∧ one.holds .sys = false ∧
    (one.grid (one.team one.curTeam).grid).krec.coop = false ∧
    (let g := (coop false).grid ((coop false).team (coop false).curTeam).grid
     g.krec.coop = true ∧ g.lost = false) ∧
    (let g := (coop true).grid ((coop true).team (coop true).curTeam).grid
     g.krec.coop = true ∧ g.lost = true ∧ (coop true).lanes (coop true).cur ≠ []) := by decide +kernel

theorem witness_AcquireRelease : pointOf (.core 0) .grp = .core ∧ pointOf (.core 0) .clus ≠ .core ∧
    pointOf (.core 0) .dev = .home := by decide

/-- Binding: an entry that passes, at the last line of the address space, and one of no line, which does not. -/
theorem witness_Binding :
    (let s := ((one.setS64 0 0xFFFFFFFFFFC0).setS 2 1).setS64 4 0
     (bindAll s { sa := 0, sb := 4 } (s.suppliers s.cur) (s.ctx s.curCtx).binds).1 = none) ∧
    (bindAll one { sa := 0, sb := 4 } (one.suppliers one.cur) (one.ctx one.curCtx).binds).1 = some 0 := by decide +kernel

/-- QueueJoin: every queue named, with room and in turn; a full queue; the window out of turn, which another team on the
pair waits for, full, and entered in this clock by the follower. -/
def outOfTurn : State :=
  { one with
    teams := SMap.ins one.teams 2 { ctx := 1, grid := 1, num := 1, alloc := 1, krec := { entry := 0x1000, tiles := 4 } }
    roles := SMap.ins one.roles 8
      { entries := [{ kind := .path, pc := pc0, rpc := none, mask := 1 }], threads := 1, igs := [{ uid := 2, pc := pc0, slots := [some 0], wait := .window }] }
    pairs := [(0, { turn := one.windowKey 1 })] }
theorem witness_QueueJoin : (one.suppliers one.cur = [0] ∧ one.copyRoom (one.group (one.gid 0)).core 0xFF7F 1 = true ∧
      0xFF7F / 2 ^ 4 % 2 = 1 ∧ one.windowTurn one.curTeam = true ∧
      (one.pair (one.teamPair one.curTeam)).window.length + 1 ≤ 32 ∧
      (one.pair (one.teamPair one.curTeam)).follow ≠ some one.clock.toNat) ∧
    (let s := one.modCore 0 fun c => { c with copy := [(0, List.replicate 64 (.join 0))] }
     s.suppliers s.cur = [0] ∧ s.copyRoom (s.group (s.gid 0)).core 1 1 = false) ∧
    (outOfTurn.suppliers outOfTurn.cur = [0] ∧ outOfTurn.copyRoom (outOfTurn.group (outOfTurn.gid 0)).core 16 1 = true ∧
      outOfTurn.windowTurn outOfTurn.curTeam = false) ∧
    (let s := one.modPair 0 fun p => { p with follow := some 0 }
     s.suppliers s.cur = [0] ∧ s.copyRoom (s.group (s.gid 0)).core 16 1 = true ∧ (s.group (s.gid 0)).core % 2 = 0 ∧
       (s.pair (s.teamPair s.curTeam)).follow = some s.clock.toNat) := by decide +kernel

/-- RegisterClaims: each count at the last value of its side, for a group of two granules, with no claim waiting and with
one of three granules. -/
def claimed3 : State := one.modCore 0 fun c => { c with claims := [{ group := 32, ig := 2, n := 3, clock := 0 }] }
theorem witness_RegisterClaims : one.suppliers one.cur = [0] ∧ 8 / 8 + 1 ≤ (one.group (one.gid 0)).gran ∧
    (one.group (one.gid 0)).gran < 16 / 8 + 1 ∧
    (one.group (one.gid 0)).gran + one.claimed (one.gid 0) + 368 / 8 ≤ 48 ∧
    48 < (one.group (one.gid 0)).gran + one.claimed (one.gid 0) + 376 / 8 ∧ one.claiming = false ∧
    (let s := one.modCore 0 fun c => { c with claims := [{ group := 32, ig := 1, n := 3, clock := 0 }] }
     s.suppliers s.cur = [0] ∧ s.claiming = true) ∧ claimed3.claiming = false ∧ claimed3.suppliers claimed3.cur = [0] ∧
    (claimed3.group (claimed3.gid 0)).gran + claimed3.claimed (claimed3.gid 0) + 344 / 8 ≤ 48 ∧
    48 < (claimed3.group (claimed3.gid 0)).gran + claimed3.claimed (claimed3.gid 0) + 352 / 8 := by decide +kernel

theorem witness_SyncRelease : one.room (some 15) 0 = true ∧
    ∀ h ∈ one.suppliers one.cur, (one.readS64 (one.gid h) 0).toNat % 8 = 0 ∧
      ∃ t, one.check one.curCtx .both mxClass false (one.readS64 (one.gid h) 0).toNat = .ok t := by
  refine ⟨by decide +kernel, fun h hh => ?_⟩
  have : h = 0 := by
    have e : one.suppliers one.cur = [0] := by decide +kernel
    rw [e] at hh
    simpa using hh
  subst this
  exact ⟨by decide +kernel, pass_of (by decide +kernel)⟩

/-- SyncAcquire: an object at home that reads 0, awaited at 0 and at 1, and a poisoned one. -/
theorem witness_SyncAcquire :
    let s := one.withLine 0
    let r := fun t : State => t.readAt (t.group 32).core (t.pointFor 32 .dev 0) 0 0 t.curCtx 8 .free
    s.suppliers s.cur = [0] ∧ (s.ig s.cur).acqDone = [] ∧ (s.group (s.gid 0)).home = 0 ∧
    (s.readS64 32 0).toNat % 8 = 0 ∧
    s.check s.curCtx .both mxClass false 0 = .ok { cls := 0, loc := .dev 0, page := 0, pageSize := 0x40000000 } ∧
    (r s).2.2 = [] ∧ s.readS64 32 0 ≤ BitVec.ofNat 64 (ofLE (r s).2.1) ∧
    ¬(1 : DWord) ≤ BitVec.ofNat 64 (ofLE (r s).2.1) ∧ (r { s with homePoison := [0] }).2.2 ≠ [] := by decide +kernel

/-! Performing what is outstanding. -/

/-- One lane's access of `n` bytes to device memory at `k`, of a class, and the state with one operation of it. -/
def acc (cls k n : Nat) : LaneAcc := { lane := 95, addr := k, loc := k, cls := cls, size := n }
def withLanes (kind : OpKind) (ls : List LaneAcc) : Op := { id := 1, kind := kind, ig := 1, cf := some 0, lanes := ls }

def storeAcc (cls k : Nat) : LaneAcc := { acc cls k 2 with data := [1, 2] }
/-- StorePerforms: a cached store, with its lines' ways to find, one to home at the end of a
line that the cache holds, and one to scratch. -/
def settled (s : State) : State := (s.withLine 0x1000000).modCore 0 fun c => { c with
  level := { ways := [(tagged 1 0 / 64, 0), (tagged 1 64 / 64, 1)] } }
theorem witness_StorePerforms : ∀ p ∈ [(0, 63, false), (1, 0x4000003E, false), (0, 4094, true)],
    let a := storeAcc p.1 p.2.1
    let o : Op := { withLanes .store [a] with scratch := p.2.2 }
    let s := settled (one.withOp o)
    s.op? 32 1 = some o ∧ o.kind = .store ∧ o.rel = false ∧ o.acq = false ∧ o.ready = false ∧
    s.laneWaits (s.opGroups 32 1) 1 a = false ∧ (s.keySlot (s.groupCtx 32)).blocked = false ∧
    (∀ i ∈ [0, 1], p.1 = 0 → p.2.2 = false → SMap.has (s.core 0).level.ways (tagged (s.groupCtx 32) (a.loc + i) / 64) = true) ∧
    (∀ i ∈ [0, 1], p.1 = 1 → SMap.has s.msc ((a.loc + i) / 64) = true) ∧ o.scope = .none ∧ o.todo none = [a] ∧
    o.todo (some a.lane) = [a] ∧ a.peer = none ∧ a.data.length = a.size ∧ (∀ b ∈ o.lanes, b.acked = true) ∧
    ((s.group 32).ops.filter fun p => p.id == o.id) = [o] ∧
    s.pointFor 32 .none a.cls = (if p.1 = 0 then .core else .home) := by decide +kernel

/-- An operation that loads one doubleword in lane 95 into v0. -/
def loadOf (cls k : Nat) : Op := { withLanes .load [acc cls k 8] with ty := .i64, cnt := 1, d := 0 }
/-- The bytes of a cached doubleword, and of one at home. -/
def held8 : State := (one.withOp (loadOf 0 0)).modCore 0 fun c =>
  { c with level := { valid := [tagged 1 0 / 32],
                      bytes := (List.range 8).map fun i => (tagged 1 i, { val := 7, va := i, ctx := 1, dirty := false }) } }
def home8 : State := (one.withOp (loadOf 1 0x40000000)).withLine 0x1000000

theorem witness_LoadPerforms : ∀ p ∈ [(held8, loadOf 0 0), (home8, loadOf 1 0x40000000)],
    p.1.op? 32 1 = some p.2 ∧ ((p.1.group 32).ops.filter fun q => q.id == p.2.id) = [p.2] ∧
    (p.2.kind = .load ∧ p.2.ready = false ∧ p.1.opGroups 32 1 = [32]) ∧
    (∃ a, p.2.todo none = [a] ∧ a.got = [] ∧ a.landed = [] ∧ a.peer = none ∧ a.lane < 96 ∧ 0 < a.size ∧
      a.size = p.2.cnt * WellFormed.memBytes p.2.ty) ∧ (p.2.lanes.map (·.lane)).Nodup ∧
    (∀ b ∈ p.2.lanes, b.acked = true ∧ b.psn = []) ∧ p.2.ty.is64 = true ∧ p.2.d + 1 < 8 * (p.1.group 32).gran := by
  intro p hp
  refine ⟨?_, ?_, ?_, ⟨p.2.lanes.headD (acc 0 0 0), ?_⟩, ?_, ?_, ?_, ?_⟩ <;> revert p hp <;> decide +kernel

/-- Every byte of a span is served by a core level with a value. -/
theorem inLevel_of {lv : Level} {ctx k n : Nat} {f : Nat → Byte}
    (h : ((List.range n).all fun i => (lv.serves (tagged ctx (k + i))).any fun b => b.val == f i) = true) :
    ∀ i, i < n → ∃ b, lv.serves (tagged ctx (k + i)) = some b ∧ b.val = f i := by
  intro i hi
  have := List.all_eq_true.mp h i (List.mem_range.mpr hi)
  cases hb : lv.serves (tagged ctx (k + i)) with
  | none => simp [hb] at this
  | some b => exact ⟨b, rfl, by simpa [hb] using this⟩

/-- The bytes of a span are of no other context's line in a level. -/
theorem own_of {lv : Level} {ctx k n : Nat} (h : ((List.range n).all fun i => !lv.foreign ctx ((k + i) / 64)) = true) :
    ∀ i, i < n → lv.foreign ctx ((k + i) / 64) = false := by
  intro i hi
  simpa using List.all_eq_true.mp h i (List.mem_range.mpr hi)

theorem witness_LoadPerforms_own : ∀ p ∈ [(held8, 0), (home8, 0x40000000)],
    ∀ i, i < 8 → (p.1.cluster (clusterOf (p.1.group 32).core)).level.foreign (p.1.groupCtx 32) ((p.2 + i) / 64) = false := by
  intro p hp
  refine own_of ?_
  revert p hp
  decide +kernel

theorem witness_LoadPerforms_held : held8.pointFor 32 .none 0 = .core ∧
    (held8.core (held8.group 32).core).level.poison = [] ∧
    ∀ i, i < 8 → ∃ b, (held8.core (held8.group 32).core).level.serves (tagged (held8.groupCtx 32) (0 + i)) = some b ∧ b.val = (7 : Byte) :=
  ⟨by decide +kernel, by decide +kernel, inLevel_of (f := fun _ => 7) (by decide +kernel)⟩

theorem witness_LoadPerforms_home : home8.pointFor 32 .none 1 = .home ∧ home8.homePoison = [] ∧
    (∀ i, i < 8 → (home8.core (home8.group 32).core).level.find (tagged (home8.groupCtx 32) (0x40000000 + i)) = none ∧
      (home8.cluster (clusterOf (home8.group 32).core)).level.find (0x40000000 + i) = none ∧
      home8.readMem (0x40000000 + i) = 0 ∧ home8.validAt (home8.groupCtx 32) (0x40000000 + i) = true) :=
  ⟨by decide +kernel, by decide +kernel, by decide +kernel⟩

/-- LoadPerforms, from scratch and as an acquire. -/
theorem witness_LoadPerforms_scratch :
    let o : Op := { loadOf 0 4088 with scratch := true }
    let s := landed.withOp o
    s.op? 32 1 = some o ∧ (s.scratchOf (s.group 32).team).poison = [] ∧ o.acq = false ∧
    (∀ i, i < 8 → SMap.look 0 (s.scratchOf (s.group 32).team).bytes (4088 + i) = if i = 0 then 5 else 0) ∧
    (let q : Op := { loadOf 1 0x40000000 with acq := true, scope := .dev, outside := false }
     q.acq = true ∧ ∀ p ∈ q.syncs, pointOf (s.placeOf 32) p.1 ≠ .core) ∧
    (loadOf 0 0).outside = true ∧ ({ loadOf 0 0 with outside := false } : Op).outside = false := by decide +kernel

/-- ResultsLand: a finished load of one register, one of a scalar register, and one of two lanes and two registers of
which the first word of lane 0 has landed and of which it has not. -/
def finishedOp (ls : List Nat) (d n : Nat) (out : Bool) (landed : List Nat) : Op :=
  { id := 1, kind := .load, ig := 1, ty := .b32, d := d, cnt := n, outside := out, ready := true,
    lanes := ls.map fun l => { lane := l, addr := 0, size := 4 * n, done := true, landed := if l = 0 then landed else [],
                               got := (List.range (4 * n)).map fun i => (i, 7) } }
theorem witness_ResultsLand :
    (∀ o ∈ [finishedOp [0] 0 1 true [], finishedOp [0] 389 1 false [], finishedOp [0, 95] 0 2 false [],
        finishedOp [0, 95] 0 2 false [0]],
      let s := one.withOp o
      s.op? 32 1 = some o ∧ ((s.group 32).ops.filter fun p => p.id == o.id) = [o] ∧ o.ready = true ∧
      (o.lanes.map (·.lane)).Nodup ∧ (∀ b ∈ o.lanes, b.lane < 96) ∧
      (o.d < 384 → ∀ b ∈ o.lanes, ∀ p ∈ o.results b, p.1 < 384)) ∧ isEm 5 = false ∧
    (∀ b ∈ (finishedOp [0] 389 1 false []).lanes, (finishedOp [0] 389 1 false []).results b = [(384 + 5, 0x07070707)] ∧
      b.landed = []) ∧
    ∃ c ∈ (finishedOp [0, 95] 0 2 false [0]).lanes, ∃ i ∈ List.range 2,
      i < ((finishedOp [0, 95] 0 2 false [0]).results c).length ∧ i ∉ c.landed ∧ ¬(c.lane = 0 ∧ 1 ≤ i ∧ i < 2) := by
  decide +kernel

/-- AtomicPerforms: a word in the core level, and one at home. -/
def atomOf (cls k : Nat) : Op := { withLanes .atomic [acc cls k 4] with ty := .b32, sel := 6, scope := .grp }
def heldWord : State := (one.withOp (atomOf 0 0)).modCore 0 fun c =>
  { c with level := { ways := [(tagged 1 0 / 64, 0)], valid := [tagged 1 0 / 32],
                      bytes := (List.range 4).map fun i => (tagged 1 i, { val := 0, va := i, ctx := 1, dirty := false }) } }
def homeWord : State := (one.withOp (atomOf 1 0x40000000)).withLine 0x1000000
theorem witness_AtomicPerforms : ∀ p ∈ [(heldWord, atomOf 0 0, 0), (homeWord, atomOf 1 0x40000000, 0x40000000)],
    p.1.op? 32 1 = some p.2.1 ∧ p.2.1.kind = .atomic ∧ p.2.1.scratch = false ∧ p.2.1.rel = false ∧ p.2.1.acq = false ∧
    p.2.1.ready = false ∧ p.2.1.outside = true ∧ p.1.atomPoison (p.1.opGroups 32 1) 1 = false ∧
    (p.1.keySlot (p.1.groupCtx 32)).blocked = false ∧
    p.1.wordLanes (p.1.opGroups 32 1) 1 p.2.2 false = [(32, acc (if p.2.2 = 0 then 0 else 1) p.2.2 4)] ∧
    p.1.gateHolds p.2.2 4 (gidOf (p.1.team (p.1.group 32).team).num (p.1.group 32).home) = false ∧
    p.1.gated p.2.2 4 = false ∧ p.1.opGroups 32 1 = [32] ∧ ((p.1.group 32).ops.filter fun q => q.id == 1) = [p.2.1] ∧
    (∀ q ∈ p.1.lanesLeft (p.1.opGroups 32 1) 1, ∀ i ∈ List.range 4,
      p.1.heldAbove (p.1.group q.1).core (p.1.groupCtx q.1) (p.1.pointFor q.1 p.2.1.scope q.2.cls) (q.2.loc + i) = true ∨
        p.1.validAt (p.1.groupCtx q.1) (q.2.loc + i) = true) := by
  decide +kernel

theorem witness_AtomicPerforms_held : heldWord.pointFor 32 .grp 0 = .core ∧
    (∀ i ∈ List.range 4, SMap.has (heldWord.core 0).level.ways (tagged (heldWord.groupCtx 32) i / 64) = true) ∧
    (heldWord.core 0).level.poison = [] ∧
    (∀ i, i < 4 → ∃ b, (heldWord.core 0).level.serves (tagged (heldWord.groupCtx 32) (0 + i)) = some b ∧ b.val = (0 : Byte)) ∧ 0 < 2 ^ (8 * 4) :=
  ⟨by decide +kernel, by decide +kernel, by decide +kernel, inLevel_of (f := fun _ => 0) (by decide +kernel), by decide⟩

theorem witness_AtomicPerforms_home : homeWord.pointFor 32 .grp 1 = .home ∧ homeWord.homePoison = [] ∧
    (∀ i, i < 4 → (homeWord.core 0).level.find (tagged (homeWord.groupCtx 32) (0x40000000 + i)) = none ∧ homeWord.readMem (0x40000000 + i) = 0 ∧
      homeWord.validAt (homeWord.groupCtx 32) (0x40000000 + i) = true) ∧
    (homeWord.cores = [(0, { free := 510 })] ∧ homeWord.clusters = [] ∧ homeWord.presence = []) :=
  by refine ⟨?_, ?_, ?_, ?_⟩ <;> decide +kernel

/-- ReleasePerforms: a release store and an add of ms.rel, with nothing before them. -/
theorem witness_ReleasePerforms : ∀ k ∈ [OpKind.store, .relAdd],
    let o : Op := { withLanes k [{ acc 0 0 8 with data := [1, 0, 0, 0, 0, 0, 0, 0] }] with rel := true, scope := .dev, ty := .b64 }
    let s := one.withOp o
    s.op? 32 1 = some o ∧ o.rel = true ∧ o.scope ≠ .none ∧ s.relHeld 32 o = false ∧
    (∀ p ∈ o.syncs, pointOf (s.placeOf 32) p.1 ≠ .core) ∧
    (s.modGroup 32 fun g => { g with ops := { withLanes .store [acc 0 0 8] with id := 0 } :: g.ops }).relHeld 32 o = true ∧
    (∀ a ∈ o.lanes, s.gateHolds a.loc a.size (gidOf (s.team (s.group 32).team).num (s.group 32).home) = false ∧
      a.done = false) ∧ o.lanes ≠ [] := by decide +kernel

/-- FifoPerforms: a push into a bank of 511 entries, and a pop of a bank of one. -/
theorem witness_FifoPerforms : ∀ p ∈ [(OpKind.push, 511), (OpKind.pop, 1)],
    ∀ out ∈ [true, false],
    let o : Op := { withLanes p.1 [acc 0 0 4] with bank := 63, outside := out }
    let s := (fifo (List.replicate p.2 (1, [5]))).withOp o
    s.op? 32 1 = some o ∧ s.opGroups 32 1 = [32] ∧ ((s.group 32).ops.filter fun q => q.id == o.id) = [o] ∧
    (o.lanes.map (·.lane)).Nodup ∧ (∀ a ∈ o.lanes, a.lane < 96 ∧ a.landed = []) ∧ o.ready = false ∧ o.acq = false ∧
    (let b := (s.cluster (s.groupCluster 32)).bank 63
     b.mode = 3 ∧ b.zero = false ∧ b.fifo.length < 512 ∧ b.fifo ≠ []) ∧ 0 + 1 < 8 * (s.group 32).gran := by decide +kernel

/-- LevelMoves: a dirty byte in the core level and in the cluster point, a clean one, a dirty line, and an ageing due. -/
def leveled (dirty : Bool) : State :=
  let lv := fun k : Nat => ({ bytes := [(k, { val := 1, va := 64, ctx := 1, dirty := dirty })] } : Level)
  (one.modCore 0 fun c => { c with level := lv (tagged 1 64) }).modCluster 0 fun c => { c with level := lv 64, accesses := 64 * 1024 }
theorem witness_LevelMoves : (∀ p ∈ ((leveled true).core 0).level.dirtyBytes (tagged 1 64 / 64) ++ ((leveled true).cluster 0).level.dirtyBytes 1,
      ((leveled true).keySlot p.2.ctx).blocked = false) ∧ ((leveled true).core 0).level.dirtyBytes (tagged 1 64 / 64) ≠ [] ∧
    (((leveled true).core 0).level.bytes.map Prod.fst).Nodup ∧ ((leveled true).cluster 0).level.dirtyBytes 1 ≠ [] ∧
    (((leveled true).cluster 0).level.bytes.map Prod.fst).Nodup ∧ ((leveled false).core 0).level.dirtyBytes (tagged 1 64 / 64) = [] ∧
    ((leveled false).cluster 0).level.dirtyBytes 1 = [] ∧
    findKey (one.withLine 1).msc 1 = some { slot := 1, dirty := true, valid := allValid } ∧
    SMap.has (one.withLine 1).msc 1 = true ∧ (one.eqHead + 1) % 256 ≠ one.eqTail.toNat % 256 ∧
    ((leveled true).cluster 0).pincfg.toNat / 256 % 4096 = 64 ∧ 64 * 1024 ≤ ((leveled true).cluster 0).accesses ∧
    (((leveled true).cluster 0).lines.map Prod.fst).Nodup := by
  decide +kernel

/-! Engine entries. -/

theorem witness_TransformEntries : (inClause 62).lanes (inClause 62).cur ≠ [] ∧ (inClause 62).room none 1 = true ∧
    (inClause 63).lanes (inClause 63).cur ≠ [] ∧ (inClause 63).room none 1 = false ∧ elemBits .f8e4 ∈ [1, 2, 4, 8, 16] ∧
    elemBits .tern ∈ [1, 2, 4, 8, 16] := by decide +kernel

/-- CopyEntries: 32,768 bytes of global memory to scratch with a map, a full queue, and a length of 2. -/
def copyArgs : CeArgs := { q := 3, src := 0, dst := 2, ln := 3, map := 4, sel := 4 }
def copies : State := ((((one.modAlloc 1 fun a => { a with size := 65536 }).setS64 0 0x40000000).setS 2 64).setS 3 0).setS 4 0
theorem witness_CopyEntries : copies.suppliers copies.cur = [0] ∧ copies.ceFail .cp copyArgs 32 = none ∧
    (SMap.look [] (copies.core (copies.group 32).core).copy 3).length < Config.copyQueueLen ∧
    ((copies.setS 3 2).ceFail .cp copyArgs 32).isSome = true ∧
    (let s := copies.modCore 0 fun c => { c with copy := [(3, List.replicate 64 (.join 0))] }
     s.ceFail .cp copyArgs 32 = none ∧ ¬(SMap.look [] (s.core (s.group 32).core).copy 3).length < Config.copyQueueLen) := by
  decide +kernel

/-- A window with `n` joins. -/
def windowed (w : List WEntry) : State := one.modPair 0 fun p => { p with window := w }
def filler (id : Nat) : WEntry := { id := id, ctx := 1, team := 1, group := 32, pc := 0, job := .join id, td := 255 }
/-- TileEntries: the last slot and completion word of the team, with room for one entry and without; the accepted formats
of a multiply, dense and scaled, and formats that are not accepted. -/
theorem witness_TileEntries_follow :
    let s := one.modPair 0 fun p => { p with follow := some 0 }
    s.lanes s.cur ≠ [] ∧ (s.group s.lowest).core % 2 = 0 ∧ (s.pair (s.teamPair s.curTeam)).follow = some s.clock.toNat ∧
    (one.pair (one.teamPair one.curTeam)).follow ≠ some one.clock.toNat := by decide +kernel
theorem witness_TileEntries_turn : outOfTurn.lanes outOfTurn.cur ≠ [] ∧ outOfTurn.windowTurn outOfTurn.curTeam = false ∧
    3 < (outOfTurn.team outOfTurn.curTeam).krec.tiles ∧ (outOfTurn.readS outOfTurn.lowest 0).toNat + 8 ≤
      (outOfTurn.scratchOf outOfTurn.curTeam).size := by decide +kernel
theorem witness_TileEntries : ∀ n ∈ [31, 32],
    let s := (windowed ((List.range n).map filler)).setS 0 4088
    s.windowTurn s.curTeam = true ∧ s.lanes s.cur ≠ [] ∧ 3 < (s.team s.curTeam).krec.tiles ∧ (s.readS s.lowest 0).toNat % 8 = 0 ∧
    (s.readS s.lowest 0).toNat + 8 ≤ (s.scratchOf s.curTeam).size ∧
    ((s.pair (s.teamPair s.curTeam)).window.length < Config.windowLen ↔ n = 31) := by decide +kernel

/-- Two FP4 operands with scales of 16, whose scale bytes end below 4,096; formats that are not a pair. -/
theorem witness_TileEntries_mma : fragTypes 0x03100310 = some (.f4, .f4) ∧ fragShape .f4 .f4 = some (256, 32, 32, true) ∧
    (0x03100310 : Word) &&& 0xFCE0FCE0#32 = 0 ∧ scaledTy .f4 = true ∧ one.scaleFail 0 256 16 = none ∧
    one.scaleFail 2560 256 16 = none ∧ fragTypes 19 = none ∧ (∀ a : DWord, a = 0xFFFFFFFFFFC0 → a.toNat % 64 = 0) := by
  refine ⟨by decide, by decide, by decide, by decide, by decide +kernel, by decide +kernel, by decide, ?_⟩
  rintro a rfl
  decide

/-- TileControls: the team's last slot, and the first beyond it, with room for a flag and without; each selector of
tq.set. -/
theorem witness_TileControls : one.lanes one.cur ≠ [] ∧ one.room none 1 = true ∧ (inClause 63).lanes (inClause 63).cur ≠ [] ∧
    (inClause 63).room none 1 = false ∧ 3 < (one.team one.curTeam).krec.tiles ∧
    (one.team one.curTeam).krec.tiles ≤ 4 ∧ ∀ n, n ≤ 4 → ({ sel := n } : TqArgs).sel = n :=
  by refine ⟨?_, ?_, ?_, ?_, ?_, ?_, fun _ _ => rfl⟩ <;> decide +kernel

/-- TileQueries: each count and a slot, of an operation outside a clause and in one; the slot with an entry of the window
that entered before it and writes it, and with one that entered after it. -/
def queryOf (sel : Nat) (out : Bool) : Op :=
  { id := 9, kind := .query, ig := 1, counted := false, outside := out, accepted := true, sel := sel, d := 384 + 9, ty := .b32,
    lanes := [{ lane := 0, addr := 0, size := 4 }] }
theorem witness_TileQueries : (∀ n ∈ List.range 5, ∀ out ∈ [true, false],
      let o := queryOf n out
      let s := one.withOp o
      s.op? 32 9 = some o ∧ ((s.group 32).ops.filter fun p => p.id == o.id) = [o] ∧ o.kind = .query ∧ o.ready = false ∧
      o.acq = false ∧ o.d = 384 + 9 ∧ (∀ a ∈ o.lanes, a.size = 4 ∧ a.landed = []) ∧ isEm 9 = false ∧ o.sel = n) ∧
    isEm 126 = true ∧ ({ queryOf 0 true with d := 384 + 126 } : Op).d = 384 + 126 ∧
    ∀ p ∈ [(8, true), (10, false)],
      let w : WEntry := { id := p.1, ctx := 1, team := 1, group := 32, pc := 0, job := .free, td := 0 }
      let s := (one.withOp (queryOf 4 true)).modPair 0 fun x => { x with window := [w] }
      decide (∃ e ∈ (s.pair (s.teamPair 1)).window, e.team = 1 ∧ e.id < 9 ∧
        ((s.pair (s.teamPair 1)).slot 1 0).getD 0 ∈ e.writes) = p.2 := by decide +kernel

/-! Engines at work. -/

/-- Two flags of two home groups, of which one word's going leaves only one. -/
theorem witness_TransformCompletes_groups :
    let e : XformEntry := { writes := [(32, 15, 95, 7), (33, 15, 0, 8)], flags := [(32, 0), (33, 0)] }
    (∀ u ∈ e.writes.eraseIdx 0, u.1 ≠ 32) ∧ (∃ u ∈ e.writes.eraseIdx 0, u.1 = 33) ∧ e.flags.Nodup := by decide
theorem witness_TransformCompletes :
    let e : XformEntry := { writes := [(32, 15, 95, 7), (32, 14, 95, 8)], flags := [(32, 0)] }
    let s := one.modCore 0 fun c => { c with xform := [.entry e] }
    (s.core 0).xform = .entry e :: [] ∧ (∀ w ∈ e.writes, w.2.1 < 384) ∧ e.writes[1]? = some (32, 14, 95, 8) ∧
    2 ≤ e.writes.length ∧ (e.writes.map fun w => (w.1, w.2.1, w.2.2.1)).Nodup ∧
    (∀ w ∈ e.writes, w.2.2.1 < 96 ∧ w.2.1 < 8 * (s.group w.1).gran) ∧ e.flags.Nodup := by decide +kernel

/-- CopyChunkLand: the second chunk, of 4 bytes, of a pattern or of scratch, to scratch or to global memory; the chunk is
the last where the first has landed. -/
def copyOf (src dst : Place) (landed : BitVec 64) : CopyEntry :=
  { id := 1, ctx := 1, team := 1, group := 32, batch := none, src := src, dst := dst, len := 516, first := 63, map := some 4088,
    landed := landed }
def copying (e : CopyEntry) : State := one.modCore 0 fun c => { c with copy := [(3, [.entry e])] }
theorem witness_CopyChunkLand : ∀ e ∈ [copyOf (.pattern 7) (.scratch 512) 0, copyOf (.scratch 0) (.global 0x40000000) 1],
    (copying e).copyHead 0 3 = some e ∧ 1 < chunksOf e.len ∧ e.landed.getLsbD 1 = false ∧ e.sent.getLsbD 1 = false ∧
    e.stalled = none ∧ (e.events = [] ∧ findKey e.asked 1 = none ∧ 0x40000200 + 4 ≤ 2 ^ 64 ∧
      ((copying e).keySlot e.ctx).blocked = false) ∧ ((copying e).scratchOf e.team).poison = [] ∧
    (∀ m, e.map = some m → m + 16 ≤ 512 ∨ 512 + e.len ≤ m) ∧
    (∀ i, i < min 512 (e.len - 512 * 1) → (copying e).check e.ctx .wr engineClass true (0x40000000 + 512 * 1 + i) =
      .ok { cls := 1, loc := .dev (0x40000200 + i), page := 0x40000000, pageSize := 0x40000000 }) := by
  intro e he
  have hm : e.map = some 4088 ∧ e.len = 516 := by
    revert e he
    decide
  refine ⟨?_, ?_, ?_, ?_, ?_, ?_, ?_, ?_, ?_⟩
  case refine_8 =>
    intro m h
    rw [hm.1] at h
    cases h
    rw [hm.2]
    decide
  all_goals
    clear hm
    revert e he
    decide +kernel

/-- TileExecution: an entry that may start; one that loads, whose image is all there and is no image, whose page is of a
class it may not read or is not mapped, whose header a peer holds, and whose low-rank image is in the memory-side cache;
and started ones with a result and without. -/
def tileOf (job : TileJob) (started : Bool) : WEntry := { filler 9 with job := job, td := 0, started := started }
/-- Context 1 with a page of class 6, of peer 5, at 5 GiB, and an image of rank 1 at 1 GiB. -/
def loading : State :=
  { windowed [] with
    ptab := pages ++ [(0x1028, leafOf 0 6 3 5)]
    routes := [(1, 5, 0)]
    msc := (List.range 7).map fun i => (0x1000000 + i, { slot := 1, dirty := true, valid := allValid })
    mem := [(0x40000000, (0x42 : Byte)), (0x40000001, (4 : Byte))] }
def gathers (a off n : Nat) : State × Except (Nat × Nat) (List (Option (Byte × Bool))) :=
  loading.engineGather 0 1 a engineClass .free off n (.tile 0 9)
/-- What a gather came to: the cause of its failure, whether a peer was asked, or how its bytes read. -/
def gatherKind (p : State × Except (Nat × Nat) (List (Option (Byte × Bool)))) : Nat × Nat :=
  match p.2 with
  | .error (_, c) => (1, c)
  | .ok more => match allCome more with
    | none => (2, more.countP (·.isNone))
    | some hd => match imageRead hd with
      | .inl n => (3, n)
      | .inr r => (4, r.2)
theorem witness_TileExecution_start : ((windowed [tileOf .free false]).pair 0).mayStart 9 = some (tileOf .free false) ∧
    (∀ a ∈ [0x40000000, 0xC0000000, 0x140000000], ((windowed [tileOf (.ld a) false]).pair 0).mayStart 9 =
      some (tileOf (.ld a) false) ∧ (tileOf (.ld a) false).asked = []) ∧
    ((allCome (List.replicate 64 (some (1, false)))).any fun bs => (imageRead bs).isRight) = true := by decide +kernel
theorem witness_TileExecution_read : gatherKind (gathers 0xC0000000 0 64) = (1, 6) ∧
    gatherKind (gathers 0x180000000 0 64) = (1, 4) ∧ gatherKind (gathers 0x140000000 0 64) = (2, 64) ∧
    gatherKind (gathers 0x40000000 0 64) = (3, 384) ∧
    (match (gathers 0x40000000 0 64).2, ((gathers 0x40000000 0 64).1.modEntry 0 9 fun x => x).engineGather 0 1 0x40000040
        engineClass .free 64 384 (.tile 0 9) with
      | .ok more, (_, .ok more') => (allCome (more ++ more')).any fun bs => (imageRead bs).isRight
      | _, _ => false) = true := by decide +kernel
theorem witness_TileExecution_commit :
    (∀ e ∈ [tileOf .free true, tileOf .badMma true], [e].find? (fun x => x.team == e.team) = some e ∧ e.id = 9 ∧
      e.started = true ∧ e.stalled = none ∧ e.held = false ∧ (windowed [e]).queryBefore 0 e = false) ∧
    (let r := ((windowed [tileOf .badMma true]).pair 0).result (tileOf .badMma true)
     r.1 = none ∧ r.2 < 2 ^ 64) ∧
    (let r := ((windowed [tileOf .free true]).pair 0).result (tileOf .free true)
     (r.1.map Tile.granules) = some 0 ∧ r.2 < 2 ^ 64) := by decide +kernel

/-- TileExecution: a to.st of the zero tile to 1 GiB, to a page of class 3 and to one that is not mapped; a result of more
granules than the quota allows, with TILETRAP and without; a held entry, whose home group lives and has exited. -/
def storing (a : Nat) : WEntry := { tileOf (.st a) true with ta := 0 }
def needs : WEntry := { tileOf .dense true with ta := 1 }
def refusing (trap : Bool) : State := (windowed [needs]).modCtx 1 fun c =>
  { c with tileQuota := 0, tileTrap := if trap then 1 else 0 }
theorem witness_TileExecution_store : (∀ a ∈ [0x40000000, 0xC0000000, 0x140000000], (storing a).failed = false ∧
      (windowed [storing a]).requests = [] ∧ (storing a).chunk = 0) ∧
    (let s := windowed [storing 0x40000000]
     let img := tileImage ((s.pair 0).entry 0).tile
     0 < img.length ∧ 0x40000000 + img.length ≤ 2 ^ 64 ∧ (s.keySlot 1).blocked = false ∧
       (∀ i ∈ List.range img.length, s.check 1 .wr engineClass true (0x40000000 + i) =
         .ok { cls := 1, loc := .dev (0x40000000 + i), page := 0x40000000, pageSize := 0x40000000 }) ∧
       ∀ p ∈ [(0xC0000000, 6), (0x140000000, 4)],
         (match s.engineAim 1 p.1 .wr engineClass (min 512 img.length) with
           | .error (_, c) => c == p.2
           | _ => false) = true) := by decide +kernel
theorem witness_TileExecution_alloc : (∀ b ∈ [true, false], let s := refusing b
      (match (s.pair 0).result needs with
        | (some t, f) => decide (((s.pair 0).entry needs.td).ngran < t.granules) && decide (f < 2 ^ 64) &&
            decide ((s.ctx 1).tileQuota.toNat < (s.pair 0).heldBy 1 + (t.granules - ((s.pair 0).entry needs.td).ngran))
        | _ => false) = true ∧ (s.ctx 1).tileTrap.getLsbD 0 = b ∧ (s.group 32).exited = false ∧
      [needs].find? (fun x => x.team == needs.team) = some needs) ∧
    (∀ e ∈ [true, false], let s := (windowed [{ needs with held := true }]).modGroup 32 fun g => { g with exited := e }
      (s.group 32).exited = e ∧ s.queryBefore 0 { needs with held := true } = false ∧
      ((s.pair 0).result { needs with held := true }).1.isSome = true) := by decide +kernel

/-- A fault record of context 1 that the host has answered. -/
def answeredFault (s : State) : State := s.modCtx 1 fun c => { c with ring := [(0, (.access 0 0 0 0, true))] }
theorem witness_EnginesGoOn :
    (let s : State := { one.modCore 0 fun c => { c with copy := [(0, [.join 9])], xform := [.join 9] } with
       joins := [(9, [33, 0, 1])] }
     findKey s.joins 9 = some [33, 0, 1] ∧ (s.team 1).resident = true ∧ (∀ q ∈ (s.core 0).copy, headJoin q.2 9 = true) ∧
       headJoin (s.core 0).xform 9 = true ∧ headJoin s.dmaQ 9 = true ∧ (∀ t ∈ s.stks, headJoin t.2.nmu 9 = true) ∧
       windowJoin (s.pair (0 / 2)).window 9 = true) ∧
    (let e : CopyEntry := { copyOf (.pattern 7) (.scratch 512) 0 with stalled := some (0, 1, 0) }
     let s := answeredFault (copying e)
     s.copyHead 0 3 = some e ∧ s.answered e.ctx 0 = true) ∧
    (let e : WEntry := { tileOf (.ld 0) false with stalled := some 0 }
     let s := answeredFault (windowed [e])
     (s.pair 0).window.find? (fun x => x.id == e.id) = some e ∧ s.answered e.ctx 0 = true) ∧
    (let s := (answeredFault one).modRegion 1 3 fun r => { r with stalled := some 0 }
     ((s.ctx 1).region 3).stalled = some 0 ∧ s.answered 1 0 = true) ∧
    (let s := answeredFault (one.modIg one.cur fun g => { g with fault := some 0 })
     (s.role 4).igs ≠ [] ∧ (∃ x ∈ (s.role 4).igs, x.uid = 1) ∧ (s.ig s.cur).fault = some 0 ∧
       (s.team (4 / 4)).resident = true ∧ (s.ctx (s.team (4 / 4)).ctx).run = .running ∧
       s.answered (s.team (4 / 4)).ctx 0 = true) := by decide +kernel

/-! The near-memory tier. -/

theorem witness_NearMemoryForms : idle.lanes idle.cur = [] ∧ 2 ^ 48 % 128 = 0 ∧
    one.check one.curCtx .rd (onlyClass 2) false 0x140000000 = .bad 4 ∧
    one.check one.curCtx .rd (onlyClass 2) false 0x40000000 = .bad 6 ∧ one.lanes one.cur ≠ [] ∧ (0x80000000 : DWord).toNat % 128 = 0 ∧
    passes (one.check one.curCtx .rd (onlyClass 2) false 0x80000000) = true ∧ 0xFFFFFFFFFFC0 % 64 = 0 ∧
    0xFFFFFFFFFFC0 < 2 ^ 48 ∧ 0xFFFFFFFFFFF8 % 8 = 0 ∧ 64 % 128 ≠ 0 ∧ 32 % 64 ≠ 0 ∧ 4 % 8 ≠ 0 := by decide +kernel

/-- A momentum update of `n` elements, and the queue of stack 7 with one entry. -/
def updBytes (n : Nat) : List Byte := toBytes 128 (0x80000000 + 0x80100000 * 2 ^ 64 + 0x80200000 * 2 ^ 128 +
  0x40000000 * 2 ^ 320 + n * 2 ^ 384 + 2 ^ 416)
def queued (job : NmuJob) (desc : Option (List Byte)) : State := one.modStack 7 fun t =>
  { t with nmu := [.entry { ctx := 1, team := 1, group := 32, job := job, desc := desc }] }
/-- NearMemoryUpdates: the last of one block, and the first of two. -/
theorem witness_NearMemoryUpdates : ∀ n ∈ [4096, 4097],
    let u := Upd.of (ofLE (updBytes n))
    let s := queued (.upd 0x80000000) (some (updBytes n))
    s.nmuHead 7 = some { ctx := 1, team := 1, group := 32, job := .upd 0x80000000, desc := some (updBytes n) } ∧
    s.wordFail 1 u.status wordClass = none ∧ s.badUpd 1 (ofLE (updBytes n)) = false ∧ s.blockFail 1 u 0 = none ∧
    (u.blocks ≤ 0 + 1 ↔ n = 4096) := by decide +kernel

/-- NearMemoryUpdates: a bad descriptor, a block whose page is of the wrong class, and a descriptor to read. -/
theorem witness_NearMemoryUpdates_ends :
    (let d := toBytes 128 (ofLE (updBytes 1) + 2 ^ 704)
     one.badUpd 1 (ofLE d) = true ∧ one.wordFail 1 (Upd.of (ofLE d)).status wordClass = none) ∧
    (let d := toBytes 128 (ofLE (updBytes 1) + 0x20000000)
     let u := Upd.of (ofLE d)
     let s := { one with ptab := pages.filter fun p => p.1 != 0x1010 }
     one.badUpd 1 (ofLE d) = false ∧ (one.blockFail 1 u 0).isNone = true ∧
     (s.blockFail 1 u 0).map (·.2.1) = some 4) ∧
    (match (one.withLine 0x2000000).withLine 0x2000001 |>.engineRead 1 0x80000000 (onlyClass 2) .clean 128 with
      | (_, .ok bs) => !bs.any (·.2)
      | _ => false) = true := by decide +kernel

theorem witness_LandingUnit_queue : (queued (.remove 63) none).nmuHead 7 ≠ none ∧
    (queued (.done 0x40000038) none).nmuHead 7 ≠ none ∧ 0x40000038 % 8 = 0 ∧
    0x40000038 < 2 ^ 48 ∧ ((queued (.done 0x40000038) none).keySlot 1).blocked = false ∧
    (queued (.done 0x40000038) none).check 1 .wr wordClass true 0x40000038 =
      .ok { cls := 1, loc := .dev 0x40000038, page := 0x40000000, pageSize := 0x40000000 } := by decide +kernel

/-- LandingUnit: a landing descriptor of one contributor and 2 elements of f64, in memory and installed, and one of no
element. -/
def landDesc : Nat := 0x80001000 + 0x80000000 * 2 ^ 64 + 0x40000800 * 2 ^ 128 + 2 * 2 ^ 192 + 2 ^ 240
def landEntry : NmuEntry := { ctx := 1, team := 1, group := 32, job := .install 63 0x40000000 }
def landing (landDesc : Nat) : State :=
  { (queued (.install 63 0x40000000) none).withLine 0x1000000 with
    mem := ((toBytes 64 landDesc).zipIdx.map fun p => (⟨0x40000000 + p.2, p.1⟩ : Nat × Byte)).filter fun p => p.2 != 0 }
theorem witness_LandingUnit_install : ∀ p ∈ [(landDesc, true), (landDesc - 2 * 2 ^ 192, false)],
    (landing p.1).nmuHead 7 = some landEntry ∧
    (match (landing p.1).engineRead 1 0x40000000 engineClass .free 64 with
      | (u, .ok bs) => !bs.any (·.2) && (let x := LandBuf.ofDesc landEntry (ofLE (plain bs))
          u.landOk 1 (ofLE (plain bs)) x == p.2 && (u.spanFail 1 .both (onlyClass 2) x.waddr (8 * x.works)).isNone &&
          (u.wordFail 1 x.saddr engineClass).isNone && !(u.keySlot 1).blocked && decide (x.saddr < 2 ^ 48))
      | _ => false) = true := by decide +kernel

/-- Packets: none installed; outside, inside, of an ended contributor, and one that is applied. -/
def landBuf (ended : List Nat) : LandBuf := { LandBuf.ofDesc landEntry landDesc with ended := ended }
def packet (con elem : Nat) : RPacket := { stack := 7, buf := 63, con := con, elem := elem, vf := 0, fin := false, vals := [(0, true)] }
def landed7 (ended : List Nat) : State := one.modStack 7 fun t => { t with bufs := [(63, landBuf ended)] }
/-- The oldest packet of copy queue 3 of core 0, after one of another queue. -/
def flying (q : Nat) : PacketFlight := { sender := some (0, q, 1, 0), packet := packet 0 1 }
theorem witness_LandingUnit_packet : [flying 2, flying 3].find? (fun f => match f.sender with
      | some (c, n, _, _) => c == 0 && n == 3
      | none => false) = some (flying 3) ∧
    ({ landBuf [] with stalled := some 0 } : LandBuf).stalled ≠ none ∧ (landBuf []).row (packet 0 1) % 8 = 0 ∧
    (∀ need ∈ [Need.rd, .wr], (landed7 []).check (landBuf []).ctx need (onlyClass 2) (need == .wr)
      ((landBuf []).row (packet 0 1)) = .ok { cls := 2, loc := .dev 0x80000008, page := 0x80000000, pageSize := 0x40000000 }) ∧
    (one.stack 7).buf 63 = none ∧
    ((landed7 []).stack 7).buf 63 = some (landBuf []) ∧ ((landed7 [0]).stack 7).buf 63 = some (landBuf [0]) ∧
    (let x := landBuf []
     (packet 0 1).con < x.ncon ∧ (packet 0 1).elem + (packet 0 1).vals.length ≤ x.count ∧ ¬(packet 1 1).con < x.ncon ∧
       ¬(packet 0 2).elem + (packet 0 2).vals.length ≤ x.count ∧ (packet 0 1).con ∉ x.ended ∧ x.stalled = none ∧
       x.held = [] ∧ (packet 0 1).fin = false ∧ (landed7 []).landStall x (packet 0 1) = none) ∧
    (packet 0 1).con ∈ (landBuf [0]).ended := by decide +kernel

/-- The work value that the packet's element stands in. -/
theorem witness_LandingUnit_work : Plain ((landed7 []).withLine 0x2000000) (landBuf []).ctx 0x80000008 8 (fun _ => 0) :=
  ⟨homed_of (by decide +kernel), by decide +kernel⟩

theorem witness_NearMemoryUpdates_kinds : ∀ k ∈ [0, 1, 2], (Upd.of (k <<< 416)).kind = k := by decide +kernel

/-! Gossip. -/

/-- Region 3 of context 1: `n` elements on the page of class 3, with the element at the start in the memory-side cache. -/
def region (r : Region) : State := (one.withLine 0x3000000).modRegion 1 3 fun _ => { r with addr := 0xC000, base := 0xC0000000 }
def gx1 : Region := { len := 1, cfg := 0x00210A01, mode := 1 }
def gx2 : Region := { len := 1, cfg := 0x00210A02, mode := 2 }
theorem elem_region (r : Region) (h : r = gx1 ∨ r = gx2) : Homed (region r) 1 0xC0000000 32 := by
  rcases h with rfl | rfl
  · exact homed_of (by decide +kernel)
  · exact homed_of (by decide +kernel)

theorem witness_GossipElements : Homed (region gx1) (region gx1).curCtx 0xC0000000 32 ∧
    (let s := (region gx1).setS64 0 0xC0000000
     s.lanes s.cur = [(0, 0)] ∧ 0xC0000000 % 32 = 0 ∧
     s.readS64 (s.gid 0) 0 = 0xC0000000 ∧ ((s.ctx 1).region 3).addr.toNat * 65536 ≤ 0xC0000000 ∧
     0xC0000000 < ((s.ctx 1).region 3).addr.toNat * 65536 + 32 * ((s.ctx 1).region 3).len.toNat ∧
     ((s.ctx 1).region 3).initing = false ∧
     (∀ n ∈ [Need.rd, .wr], s.check 1 n (onlyClass 3) false 0xC0000000 =
       .ok { cls := 3, loc := .dev 0xC0000000, page := 0xC0000000, pageSize := 0x40000000 }) ∧
     s.room (some 15) 0 = true ∧ s.room (some 15) 1 = true ∧ (s.elem 1 0xC0000000).psn = false ∧
     ({ s with mem := [(0xC0000018, (4 : Byte))] }.elem 1 0xC0000000).psn = true) := by
  refine ⟨elem_region gx1 (.inl rfl), ?_⟩
  decide +kernel

theorem witness_GossipControl : (region gx2).lanes (region gx2).cur ≠ [] ∧ gx2.cfg.toNat % 4 = 2 ∧ gx2.len ≠ 0 ∧
    gx2.initing = false ∧ gx1.cfg.toNat % 4 ≠ 2 ∧ (region gx1).room (some 0) 0 = true ∧
    (∀ q ∈ (region gx1).groups, q.2.ops = []) ∧
    (∀ h ∈ (region gx1).suppliers (region gx1).cur, (region gx1).groupCtx ((region gx1).gid h) = (region gx1).curCtx) ∧
    gx1.accepted ≤ gx1.completed ∧ (∀ f ∈ gx1.flight, gx1.seq ≤ f.seq) ∧ ¬({ gx2 with accepted := 1 } : Region).accepted ≤ 0 := by
  decide +kernel

/-- The place of an element of region 3. -/
theorem witness_GossipMoves_place (r : Region) (h : r = gx1 ∨ r = gx2) :
    (∃ tr, (region r).elemAt 1 3 0 = .ok tr ∧ tr.loc = .dev 0xC0000000) ∧ 0xC0000000 % 32 = 0 ∧ Homed (region r) 1 0xC0000000 32 := by
  refine ⟨⟨{ cls := 3, loc := .dev 0xC0000000, page := 0xC0000000, pageSize := 0x40000000 }, ?_, rfl⟩, rfl, elem_region r h⟩
  rcases h with rfl | rfl <;> decide +kernel

def flown (seq : Nat) : GxFlight := { seq := seq, elem := 0, hs := 4, hw := 8, psn := false, right := true, round := 0 }
def gxPacket (mode elem : Nat) : GxPacket :=
  { elem := elem, hs := 4, hw := 8, psn := false, toRight := true, mode := mode, round := 0, seq := 1 }
/-- GossipMoves: a departure over a trained link and over another; arrivals at once and held; a bounce, an
acknowledgement; a sweep; an initialisation; a change of MODE. -/
theorem witness_GossipMoves :
    (let s := region { gx1 with sweeping := true, sweeps := 1 }
     s.nextSide 1 3 = some true ∧ ((s.ctx 1).region 3).skip = false ∧ ((s.ctx 1).region 3).early = [] ∧
     (s.link (((s.ctx 1).region 3).linkOf true)).trained = false ∧
     ((s.modLink 2 fun l => { l with trained := true }).link (((s.ctx 1).region 3).linkOf true)).trained = true ∧
     (s.modLink 2 fun l => { l with trained := true }).nextSide 1 3 = some true ∧ ((s.ctx 1).keyless = false) ∧
     s.linkOwes 1 = false) ∧
    (gx1.fromLeft 1 (gxPacket 1 0) = some true ∧ gx1.len ≠ 0 ∧ gx1.initing = false ∧ (gxPacket 1 0).mode = gx1.mode ∧
      (gxPacket 1 0).elem < gx1.len.toNat) ∧
    (gx2.fromLeft 2 (gxPacket 2 0) = some false ∧ gx2.mode = 2 ∧ gx2.steps = 0) ∧
    ((flown 5).doubt = false ∧ [flown 5].find? (fun f => f.seq == 5 && (!f.doubt || false)) = some (flown 5) ∧
      [{ flown 5 with doubt := true }].find? (fun f => f.seq == 5 && (!f.doubt || true)) =
        some { flown 5 with doubt := true } ∧
      [flown 5].any (fun f => f.seq == 5 && !f.doubt) = true) ∧
    (((region gx1).ctx 1).run = .running ∧ gx1.len ≠ 0 ∧ gx1.stalled = none ∧ gx1.mode = 1 ∧ gx1.sweeping = false ∧
      gx1.lastSweep = none) ∧
    ({ gx1 with initing := true } : Region).initing = true ∧ gx2.flight = [] ∧ ({ gx2 with mode := 1 } : Region).mode ≠ gx2.cfg.toNat % 4 := by
  decide +kernel

/-- GossipLinks: one region with one packet in doubt over link 2, performed, not performed and forgotten. -/
theorem witness_GossipLinks :
    let s := region { gx1 with flight := [{ flown 5 with doubt := true }] }
    s.allRegions = [(1, 3)] ∧ (∀ last ∈ [[(1, 7, 5)], [(1, 7, 4)]], last.length = 1) ∧ ((s.ctx 1).region 3).flight = [{ flown 5 with doubt := true }] ∧
    ((s.ctx 1).region 3).linkOf true = 2 ∧ 5 ≠ 0 ∧ 5 ≤ 5 ∧ 4 < 5 ∧
    s.elemAt 1 3 0 = .ok { cls := 3, loc := .dev 0xC0000000, page := 0xC0000000, pageSize := 0x40000000 } := by decide +kernel

/-! The tape. -/

theorem witness_TapeRoundTrip : ∀ k l, (fun _ _ => 2 ^ 32 - 1 : Nat → Nat → Nat) k l < 2 ^ 32 := fun _ _ => by
  show 2 ^ 32 - 1 < 2 ^ 32
  decide

/-- TapeForms: in record mode a tape of one mark's room, and one unit less; in replay mode a mark's entry, and a REC's, at
the end of the tape on the page of class 4. -/
def tape (mode limit : Nat) (pos : Nat) : State := (one.modGroup 32 fun g =>
  { g with tapeBase := 0x100000000, tapePos := BitVec.ofNat 64 pos, tapeLimit := BitVec.ofNat 64 limit,
           tapeCtl := BitVec.ofNat 32 mode }).setS 0 7
def taped (us : List Nat) : State :=
  let bs := unitBytes us
  let s := tape 2 0x100010000 (0x100000000 + bs.length)
  { (s.withLine 0x4000000) with
    mem := (bs.zipIdx.map fun p => (⟨0x100000000 + p.2, p.1⟩ : Nat × Byte)).filter fun p => p.2 != 0 }
/-- In check mode, a tape that holds what is given, with the position at its first byte. -/
def checking (us : List Nat) : State :=
  let s := taped us
  s.modGroup 32 fun g => { g with tapePos := 0x100000000, tapeCtl := 3, tapeLimit := g.tapePos }
/-- TapeForms: an entry said to begin below TAPEBASE, and, with TAPEBASE 0, below address 0; in check mode a mark with the
label and the hash, one with another label, and no mark. -/
theorem witness_TapeForms_check :
    (let s := taped [5, 9]
     (s.group 32).tapeErr = false ∧ (s.group 32).tapeBase.toNat < (s.group 32).tapePos.toNat ∧
     (match (s.tapeRead 32 ((s.group 32).tapePos.toNat - 2) 2).2 with
       | .inl b => decide ((s.group 32).tapePos - BitVec.ofNat 64 (2 * unitAt b 0) < (s.group 32).tapeBase)
       | _ => false) = true ∧
     (match s.lastEntry 32 with
       | (_, .diverge a) => a == 0xFFFFFFF2 && (s.group 32).tapeCtl.toNat % 4 == 2 && (s.group 32).tapeIdle
       | _ => false) = true) ∧
    (∀ p ∈ [(checking (markUnits 7 0), true), (checking (markUnits 8 0), false)],
      (p.1.group 32).tapeCtl.toNat % 4 = 3 ∧ (p.1.group 32).tapeIdle = true ∧
      (match p.1.nextMark 32 (p.1.group 32).tapeLimit.toNat
          (((p.1.group 32).tapeLimit.toNat - (p.1.group 32).tapePos.toNat) / 16 + 1) (p.1.group 32).tapePos.toNat with
        | (u, .at_ a) => (match (u.tapeRead 32 a 16).2 with
            | .inl bs => ((markOf bs).1 == (p.1.readS 32 0).toNat && (markOf bs).2 == (p.1.group 32).tapeHash.toNat) == p.2
            | _ => false)
        | _ => false) = true) ∧
    (let s := checking []
     (match s.nextMark 32 (s.group 32).tapeLimit.toNat
         (((s.group 32).tapeLimit.toNat - (s.group 32).tapePos.toNat) / 16 + 1) (s.group 32).tapePos.toNat with
       | (_, .diverge _) => true
       | _ => false) = true) := by decide +kernel
def recOne : List Nat := recUnits 0 1 1 fun _ _ => 5
theorem witness_TapeForms_record : one.lanes one.cur ≠ [] ∧ one.wholeHere = true ∧ one.suppliers one.cur = [0] ∧
    (tape 1 0x100000012 0x100000000).wholeHere = true ∧
    (let y := (tape 1 0x100000012 0x100000000).group 32
     y.tapeCtl.toNat % 4 = 1 ∧
       y.tapePos.toNat + 2 * (markUnits 7 y.tapeHash).length + 16 * (y.tapeCtl.toNat / 2 ^ 16 % 128) + 2 ≤ y.tapeLimit.toNat) ∧
    (let y := (tape 1 0x100000010 0x100000000).group 32
     y.tapeLimit.toNat <
       y.tapePos.toNat + 2 * (markUnits 7 y.tapeHash).length + 16 * (y.tapeCtl.toNat / 2 ^ 16 % 128) + 2) ∧
    (one.group 32).tapeCtl.toNat % 4 = 0 ∧ (one.group 32).tapeIdle = true ∧ (taping.group 32).tapeIdle = false := by
  decide +kernel

theorem witness_TapeForms_replay :
    (let s := taped (markUnits 7 0)
     (s.group 32).tapeCtl.toNat % 4 = 2 ∧ (s.group 32).tapeIdle = true ∧ s.suppliers s.cur = [0] ∧
     (match s.lastEntry 32 with
       | (_, .entry _ bs) => unitAt bs 0 == 3 * 2 ^ 12 && bs.length == 16 && (markOf bs).1 == (s.readS 32 0).toNat
       | _ => false) = true ∧
     (match (s.setS 0 8).lastEntry 32 with
       | (_, .entry _ bs) => (markOf bs).1 != ((s.setS 0 8).readS 32 0).toNat
       | _ => false) = true) ∧
    (let s := taped recOne
     (match s.lastEntry 32 with
       | (u, .entry a bs) => unitAt bs 0 == tapeHeader 1 1 0 && maskAt bs 2 == s.pathMask 0 &&
           (match u.scanBeats 32 (s.group 32).tapePos.toNat a (s.pathMask 0) 3 0 (a + 16) with
             | (_, .at_ _) => true
             | _ => false)
       | _ => false) = true) := by decide +kernel

/-- GatesAndTapeEntries: gate 15 with the least capacity, an empty order tape to play, an append of a tape
and a stalled one. -/
def gating : State := (((one.setS64 0 0).setS64 2 0x40000000).setS 4 1).withLine 0x1000000
theorem witness_GatesAndTapeEntries : gating.lanes gating.cur ≠ [] ∧ gating.gateFail 15 0 0x40000000 1 = none ∧
    gating.check 1 .both wordClass false 0 = .ok { cls := 0, loc := .dev 0, page := 0, pageSize := 0x40000000 } ∧
    (∀ i, i < 8 → gating.check 1 .both tapePages false (0x40000000 + i) =
        .ok { cls := 1, loc := .dev (0x40000000 + i), page := 0x40000000, pageSize := 0x40000000 } ∧
      (gating.readHome 1 (Loc.dev (0x40000000 + i)).key .free).2.2 = false) ∧
    (match (gating.gateRead 1 0x40000000 8).2 with
      | .inl bs => ofLE (bs.take 4) == 0
      | .inr _ => false) = true ∧
    (let s := one.modGroup 32 fun g => { g with tapeQ := [.write 0x100000000 [1, 2]] }
     (s.keySlot (s.groupCtx 32)).blocked = false ∧ (s.group 32).tapeStall = none ∧ (s.group 32).tapeQ = .write 0x100000000 [1, 2] :: [] ∧
     ∀ i, i < 2 → s.tapeAt 32 .wr (0x100000000 + i) =
       .ok { cls := 4, loc := .dev (0x100000000 + i), page := 0x100000000, pageSize := 0x40000000 }) ∧
    (let s := answeredFault (one.modGroup 32 fun g => { g with tapeStall := some 0 })
     (s.group 32).tapeStall = some 0 ∧ s.answered (s.groupCtx 32) 0 = true) := by decide +kernel

/-! From launch to residence. -/

/-- A kernel of one role of `n` groups of 8 registers, and a state whose context 1 has it in an image. -/
def kernelOf1 (n : Nat) : KRec := { entry := 0x1000, roles := [{ groups := n, regs := 8, share := 0 }] }
def imaged (queue : List Nat) : State := one.modCtx 1 fun c => { c with images := [kernelOf1 1], queues := [(63, queue)] }
/-- LaunchForm: each check that fails, the last status word that fits, a full queue, and one with room for one grid. -/
theorem witness_LaunchForm : one.lanes one.cur ≠ [] ∧ (0x1002 : DWord).toNat % 4 ≠ 0 ∧ (0x1000 : DWord).toNat % 4 = 0 ∧
    (one.ctx one.curCtx).kernel 0x1000 = none ∧ ((imaged []).ctx (imaged []).curCtx).kernel 0x1000 = some (kernelOf1 1) ∧
    (imaged []).readS (imaged []).lowest 0 = 0 ∧ ((imaged []).setS 0 1).readS (imaged []).lowest 0 ≠ 0 ∧
    true ≠ (kernelOf1 1).coop ∧ false = (kernelOf1 1).coop ∧ 2 ^ 48 ≤ (0x1000000000000 : DWord).toNat ∧
    (0xFFFFFFFFFFFF : DWord).toNat < 2 ^ 48 ∧ 4092 ≠ 0xFFFFFFFF ∧ 4092 % 8 ≠ 0 ∧ 4088 % 8 = 0 ∧
    4088 + 8 ≤ ((imaged []).scratchOf (imaged []).curTeam).size ∧ ((imaged []).scratchOf (imaged []).curTeam).size < 4096 + 8 ∧
    64 ≤ (((imaged (List.range 64)).ctx 1).queue 63).length ∧ (((imaged (List.range 63)).ctx 1).queue 63).length < 64 ∧
    (imaged []).teamLives (imaged []).curTeam = true := by decide +kernel

/-- SpawnForm: a bin with the key; bin 15 the only empty one; no bin empty. -/
def binOf (e : DWord) (n : Nat) : Bin := { ctx := 1, entry := e, threads := List.replicate n { arg := 3, clock := 5, team := 1 } }
def binned (bins : SMap Bin) : State := (imaged []).modCore 0 fun c => { c with bins := bins }
theorem witness_SpawnForm : (imaged []).lanes (imaged []).cur = [(0, 0)] ∧ ((imaged []).ctx 1).kernel 0x1000 ≠ none ∧
    (one.ctx 1).kernel 0x1000 = none ∧
    (let k := (binned [(15, binOf 0x1000 1)]).core 0
     (k.bins.map (·.1)).Nodup ∧ (15, binOf 0x1000 1) ∈ k.bins ∧ ∀ p ∈ k.bins, p.2.entry = 0x1000 → p.1 = 15) ∧
    (let k := (binned ((List.range 15).map fun n => (n, binOf 0x2000 1))).core 0
     (∀ p ∈ k.bins, p.2.entry ≠ 0x1000) ∧ SMap.has k.bins 15 = false ∧ ∀ j, j < 15 → SMap.has k.bins j = true) ∧
    (let k := (binned ((List.range 16).map fun n => (n, binOf 0x2000 1))).core 0
     (∀ p ∈ k.bins, p.2.entry ≠ 0x1000) ∧ ∀ j, j < 16 → SMap.has k.bins j = true) := by decide +kernel

/-- TeamPlacement: a head to judge, of a kernel of no role and of one; the only head of priority 3, judged, with MODE
values to set and without, of a kernel that fits and of one that does not. -/
def placing (k : KRec) (judged : Bool) : State :=
  { one with grids := [(2, { ctx := 1, q := 63, krec := k, count := 1, judged := judged, applied := true })],
             ctxs := [(1, { queues := [(63, [2])] })] }
def wide : KRec := { entry := 0x1000, roles := [{ groups := 32, regs := 384, share := 0 }] }
theorem witness_TeamPlacement_judged : (placing { entry := 0x1000 } false).unjudged = some 2 ∧
    ({ entry := 0x1000 } : KRec).limits = false ∧ (placing (kernelOf1 1) false).unjudged = some 2 ∧
    (kernelOf1 1).limits = true ∧ (kernelOf1 1).coop = false := by decide +kernel
theorem witness_TeamPlacement : ∀ k ∈ [kernelOf1 1, wide], (placing k true).unjudged = none ∧ (placing k true).heads 3 = [2] ∧
    ((placing k true).grid 2).applied = true ∧ ((placing k true).grid 2).modes = [] ∧ k.coop = false ∧ k.tape = none ∧
    (placing k true).reservedAgainst 3 2 = false ∧
    (let s := (placing k true).modGrid 2 fun g => { g with modes := [(0, 1)] }
     s.unjudged = none ∧ s.heads 3 = [2] ∧ (s.grid 2).modes ≠ []) := by decide +kernel
theorem witness_TeamPlacement_fits : ((placing (kernelOf1 1) true).spare.choose (kernelOf1 1).demand).isSome = true := by
  decide +kernel
theorem witness_TeamPlacement_waits : (placing wide true).spare.choose wide.demand = none := by decide +kernel

/-- TeamEnds: a team whose group has exited, an allocation that drains with and without inbound copies, and claims. -/
def exited : State := one.modGroup 32 fun g => { g with exited := true }
def claiming (n : Nat) (more : List Claim) : State := one.modCore 0 fun c =>
  { c with free := 510, claims := { group := 32, ig := 1, n := n, clock := 0 } :: more }
/-- One clock after the claims of core 0 were made. -/
def later (s : State) : State := { s with clock := 1 }
theorem witness_TeamEnds_claim : ∀ p ∈ [(0, false), (8, true)],
    let s := (((later (claiming 1 [])).modRole 4 fun r => { r with count := p.1 }).modCtx 1 fun c =>
      { c with pathBudget := 8 }).modIg one.cur fun g => { g with claim := true }
    let ref : IgRef := { role := teamRole (s.group 32).team (s.group 32).role, ig := 1 }
    0 < s.clock.toNat ∧ 1 ≤ (s.core 0).free ∧ (s.ig ref).claim = true ∧ s.overBudget ref = p.2 ∧
    (s.core 0).claims = [{ group := 32, ig := 1, n := 1, clock := 0 }] ∧ (s.ctx (s.groupCtx 32)).run = .running := by
  decide +kernel
theorem witness_TeamEnds_terminated : (one.team 1).terminated = false ∧
    (let s := one.modTeam 1 fun t => { t with terminated := true }
     (s.team 1).terminated = true ∧ (s.dropHeld 1).teamOver 1 = false) := by decide +kernel
theorem witness_TeamEnds : exited.teamOver 1 = true ∧ one.teamOver 1 = false ∧
    findKey one.allocs 1 = some { size := 4096, granules := [(0, 0)] } ∧
    ({ draining := true } : Alloc).draining = true ∧ ({ draining := true } : Alloc).inb = 0 ∧
    ({ draining := true, inb := 1 } : Alloc).inb ≠ 0 ∧ SMap.has exited.groups 32 = true ∧
    (exited.group 32).resident = true ∧ exited.groupDone 32 = true ∧
    ((claiming 2 []).ctx ((claiming 2 []).groupCtx 32)).run = .running ∧ (claiming 1 []).clock.toNat ≤ 0 ∧
    0 < (later (claiming 1 [])).clock.toNat ∧ 510 ≤ ((later (claiming 510 [])).core 0).free ∧
    ¬511 ≤ ((later (claiming 511 [])).core 0).free ∧ (∃ q ∈ [({ group := 32, ig := 1, n := 1, clock := 0 } : Claim)], q.ig = 1) ∧
    (∃ i ∈ ((claiming 1 []).role 4).igs, i.uid = 1) := by decide +kernel

/-- SpawnedTeams: a bin at its last clock before it is due and at the first; a bin of 96 threads, of 97 and of 95. -/
theorem witness_SpawnedTeams : (∀ n ∈ [95, 96, 97], findKey ((binned [(0, binOf 0x1000 n)]).core 0).bins 0 = some (binOf 0x1000 n)) ∧
    ((binned []).ctx 1).run = .running ∧ ((binned []).ctx 1).keyless = false ∧ ((binned []).ctx 1).spawnTimer.toNat ≠ 0 ∧
    5 + ((binned []).ctx 1).spawnTimer.toNat ≤ (4101 : DWord).toNat ∧ (4100 : DWord).toNat < 5 + ((binned []).ctx 1).spawnTimer.toNat ∧
    ((binned []).ctx 1).kernel 0x1000 = some (kernelOf1 1) ∧ (kernelOf1 1).roles ≠ [] ∧ ((binned []).core 0).claims = [] ∧
    (binned []).taken.fits (kernelOf1 1).spawned.demand (.core 0) = true ∧ (binned []).binDue (binOf 0x1000 95) = false ∧
    ({ (binned []) with teams := [] } : State).binDue (binOf 0x1000 1) = true := by decide +kernel

/-- BudgetAndTrigger: a path that waits at its budget, and one below; 1,024 clocks of blocked time and 1,023; the
instruction that reaches PREEMPTAT and one before it; a trigger that is due, with and without a hold, and one that is not.
-/
def budget (n : Nat) : State := (((one.handler 0x2000).modRole 4 fun r => { r with count := n }).modCtx 1 fun c =>
  { c with pathBudget := 8 }).modIg one.cur fun g => { g with wait := .blocked }
def triggered (n : Nat) (due hold : Bool) : State := one.modCtx 1 fun c =>
  { c with test := true, trigCtl := 1, preemptAt := 9, retired := BitVec.ofNat 64 n, due := due, hold := hold }
theorem witness_BudgetAndTrigger : (∀ n ∈ [7, 8], let s := budget n
      s.canTurn s.cur = true ∧ s.dueTrap s.cur = none ∧ (s.ig s.cur).declined = none ∧ (s.ig s.cur).pending = true ∧
      (s.team 1).trapvec ≠ 0 ∧ (s.team 1).trapvec.toNat % 4 = 0 ∧ (s.overBudget s.cur = true ↔ n = 8) ∧
      ∀ h ∈ (s.ig s.cur).homes, (s.group (teamGroup 1 h)).act = false) ∧
    (let s := one.modRole 4 fun r => { r with since := some 1 }
     (s.role 4).since = some 1 ∧ (s.ctx (s.roleCtx 4)).run = .running ∧ 1 + 1024 ≤ (1025 : DWord).toNat ∧
       (1024 : DWord).toNat < 1 + 1024) ∧
    ((triggered 8 false false).count.ctx 1).due = true ∧ ((triggered 7 false false).count.ctx 1).due = false ∧
    (∀ hold ∈ [true, false], ((triggered 9 true hold).ctx 1).run = .running ∧ ((triggered 9 true hold).ctx 1).due = true ∧
      ((triggered 9 true hold).ctx 1).hold = hold) ∧ ((triggered 8 false false).ctx 1).due = false := by decide +kernel

theorem witness_BankDrains :
    (let s := one.modBank 0 63 fun b => { b with busy := true, zero := true }
     ((s.cluster 0).bank 63).busy = true ∧ ((s.cluster 0).bank 63).zero = true) ∧
    ((one.cluster 0).bank 63).busy = false ∧ ((one.cluster 0).bank 63).zero = false ∧
    (0x00000000000FFF0F : DWord) &&& 0xFFFFFFFFFFF000F0#64 = 0 := by decide +kernel

/-! The host and the peers. -/

/-- The first GiB that class 1 maps, assigned to context 1; its key slot open or blocked; its first line in the cache. -/
def assigned (blocked : Bool) : State :=
  { one.withLine 0x1000000 with extents := [{ ctx := 1, base := 0x40000000, len := 0x40000000 }],
                                keys := [(1, { key := 1, blocked := blocked })] }
theorem plain_of {s : State} {ctx key n : Nat} {f : Nat → Byte} (h : Homed s ctx key n)
    (h' : ((List.range n).all fun i => s.readMem (key + i) == f i && !s.homePoisoned (key + i)) = true) : Plain s ctx key n f := by
  refine ⟨h, fun i hi => ?_⟩
  have := List.all_eq_true.mp h' i (List.mem_range.mpr hi)
  simpa using this

theorem plain_assigned : Plain (assigned false) 1 0x40000000 64 fun _ => 0 :=
  plain_of (homed_of (by decide +kernel)) (by decide +kernel)

/-- A line of host memory that cluster 15 may hold. -/
theorem witness_HostAccesses_snoop : ({ one with presence := [(2 ^ 58, 0x8000)] } : State).present ((2 ^ 64 + 0 + 0) / 64) 15 = true := by
  decide +kernel
theorem witness_HostAccesses : (State.reset.mbstatReady = false ∧ one.extentAt 0x40000000 64 = none ∧
      (assigned false).mbstatReady = true ∧
      (∀ b, (assigned b).extentAt 0x40000000 64 = some { ctx := 1, base := 0x40000000, len := 0x40000000 }) ∧
      (assigned false).extentAt 0x7FFFFFC1 64 = none ∧ ((assigned true).keySlot 1).blocked = true ∧
      ((assigned false).keySlot 1).blocked = false) ∧ Plain (assigned false) 1 0x40000000 64 fun _ => 0 :=
  ⟨by decide +kernel, plain_assigned⟩

theorem witness_HostWindows : 4095 < 4096 ∧ one.hostBusy = false ∧
    (one.withOp (withLanes .load [acc 5 0 4])).hostBusy = true := by decide +kernel

/-- PeerRequests: a range exported for reading and writing, to its last byte and past it; a misaligned atomic, one that a
gate holds, and one that none touches; a queue with a request of peer 5. -/
def exporting : State := { assigned false with exports := [{ peer := 5, base := 0x40000000, len := 64, rd := true, wr := true }] }
def playing : State := exporting.modCtx 1 fun c =>
  { c with gates := [(0, { word := 0, loc := 0x40000000, tape := 0, cap := 1, play := true, chunks := 1, gid := 3 })] }
def asked : PeerWait := { ctx := 1, peer := 5, dest := .op 32 1, ask := .write, acc := storeAcc 6 0 }
theorem witness_PeerRequests : (exporting.peerOk 5 0x4000003C 4 true true = true ∧
      exporting.peerOk 5 0x4000003D 4 true true = false ∧ exporting.ownerAt 0x40000000 = 1 ∧ 0x40000002 % 4 ≠ 0 ∧
      playing.peerOk 5 0x40000000 4 true true = true ∧ playing.gateHolds 0x40000000 4 0xFFFFF = true ∧
      exporting.gateHolds 0x40000000 4 0xFFFFF = false ∧ exporting.gated 0x40000000 4 = false ∧
      (∀ c, c < 16 → exporting.present (0x40000000 / 64) c = false) ∧ 0 < 2 ^ (8 * 4)) ∧
    Plain exporting 1 0x40000000 4 fun i => (leBytes 4 0).getD i 0 := by
  refine ⟨?_, plain_of (homed_of ?_) ?_⟩ <;> decide +kernel
theorem witness_PeerRequests_answer :
    (let s := one.modLink 3 fun l => { l with queue := [.step 1 0 0 1, .req asked] }
     ∀ w ∈ [asked], (s.link 3).queue.head? ≠ some (.req w) ∧ (one.link 3).queue.head? ≠ some (.req w)) ∧
    ((one.modLink 3 fun l => { l with queue := [.req asked] }).link 3).queue = .req asked :: [] ∧
    asked.ask = .write ∧ asked.dest = .op 32 1 ∧ ({ ok := true, data := [] } : PeerAns).ok = true ∧
    (let o : Op := withLanes .store [{ storeAcc 6 0 with acked := false, done := true }]
     ((one.withOp o).group 32).ops.filter (fun p => p.id == o.id) = [o] ∧ o.kind = .store ∧ o.acq = false ∧ o.ready = false ∧
       ∀ a ∈ o.lanes, a.psn = [] ∧ a.lane = asked.acc.lane) := by decide +kernel

theorem witness_HostTables : (255 : DWord).toNat < 256 ∧
    (let d : DmaEntry := { ctx := 1, idx := 0, record := .refused 1 }
     ({ one with dmaQ := [.entry d] } : State).dmaQ = .entry d :: [] ∧ d.ctx = 1) := by decide +kernel

/-! The mailbox. -/

theorem commanded_of {s : State} {n : Nat}
    (h : s.mbstatReady = true ∧ s.mbstatBusy = true ∧ s.cmdCode = n ∧ s.mbMoved = false) : Commanded s n :=
  ⟨h.1, h.2.1, h.2.2.1, h.2.2.2⟩

theorem witness_Doorbell : State.reset.mbstatReady = false ∧ (one.withCmd []).mbstatBusy = true ∧ one.mbstatReady = true ∧
    one.mbstatBusy = false ∧ 0x11 ≤ 0x11 ∧ 0x11 < 0x12 := by decide +kernel

/-- Context 1 saved, with or without a key, or with no team resident. -/
def saved (s : State) : State := s.modCtx 1 fun c => { c with run := .saved }
def everyCtx : State := { one with ctxs := (List.range 255).map fun n => (n + 1, {}) }
theorem witness_Contexts_create : (let s := one.withCmd [1, 1, 0, 4096 * 2 ^ 8]
      Commanded s 0x01 ∧ s.cmdWord 1 < 2 ∧ 8 ≤ 8 ∧ s.cmdWord 3 = 4096 * 2 ^ 8 ∧ SMap.has s.ctxs 2 = false ∧
      s.newTable.isSome = true ∧
      ∀ m, 1 ≤ m → m < 2 → SMap.has s.ctxs m = true) ∧
    ∀ m, 1 ≤ m → m ≤ 255 → SMap.has (everyCtx.withCmd [1]).ctxs m = true := by
  refine ⟨⟨commanded_of (by decide +kernel), by decide +kernel, by decide, by decide +kernel, by decide +kernel, by decide +kernel, ?_⟩, ?_⟩
  · intro m h1 h2
    obtain rfl : m = 1 := by omega
    decide +kernel
  · have : ∀ m, m < 256 → 1 ≤ m → SMap.has (everyCtx.withCmd [1]).ctxs m = true := by decide +kernel
    intro m h1 h2
    exact this m (by omega) h1
/-- A device whose firmware-reserved memory is all one save area. -/
def fwFull (s : State) : State := s.modCtx 1 fun c => { c with area := (Config.fwBase, Config.memBytes - Config.fwBase) }
theorem witness_Contexts_full : ((fwFull one).withCmd [1, 1, 0, 4096 * 2 ^ 8]).newTable.isNone = true ∧
    SMap.has ((fwFull one).withCmd [1, 1, 0, 4096 * 2 ^ 8]).ctxs 2 = false := by decide +kernel
theorem witness_Contexts_destroy : Commanded (one.withCmd [0x10006]) 0x06 ∧ Commanded (one.withCmd [0x10002]) 0x02 ∧
    (one.withCmd [0x10006]).cmdCtx = 1 ∧ SMap.has one.ctxs 1 = true ∧ SMap.has one.ctxs 2 = false ∧
    (∃ t ∈ one.ctxTeams 1, (one.team t).resident = true) ∧ one.ctxTeams 1 ≠ [] ∧ (one.ctx 1).run = .running ∧
    ((saved one).ctx 1).run = .saved ∧
    (let s : State := { saved one with teams := [] }
     (∀ t ∈ s.ctxTeams 1, (s.team t).resident = false) ∧ s.engineHas 1 = false ∧ (s.ctx 1).keyless = false ∧
       (s.endStalled 1 fun _ => true).engineHas 1 = false) ∧
    (let d : DmaEntry := { ctx := 1, idx := 0, record := .refused 1 }
     let s : State := { saved one with teams := [], dmaQ := [.entry d] }
     s.engineHas 1 = true ∧ (s.endStalled 1 fun _ => true).engineHas 1 = true) :=
  ⟨commanded_of (by decide +kernel), commanded_of (by decide +kernel), by decide +kernel⟩

/-- Mappings: a page of 64 KiB at 5 GiB, of a given frame and of a fresh one, with no fault and with an open one. -/
def mapCmd (f fid : DWord) : State := (one.modCtx 1 fun c => { c with ring := [(3, (.access 0 0 0 0, false))] }).withCmd
  [0x10003, 0x140000000, 0x10000, f, 1, 7, 0, fid]
def given : State := mapCmd 0x70000 3
def fresh : State := mapCmd 0xFFFFFFFFFFFFFFFF 3
theorem witness_Mappings_map : ∀ s ∈ [given, fresh], s.cmdCode = 0x03 ∧ SMap.has s.ctxs s.cmdCtx = true ∧
    (s.ctx s.cmdCtx).keyless = false ∧ sizeLevel (s.cmdWord 2) = some 0 ∧ s.cmdWord 1 % s.cmdWord 2 = 0 ∧
    s.cmdWord 1 + s.cmdWord 2 ≤ 2 ^ 48 ∧ s.cmdWord 4 < 8 ∧ s.cmdWord 5 < 8 ∧ s.cmdWord 6 < 2 ^ 12 ∧
    s.pageBusy 1 (s.cmdWord 1) (s.cmdWord 2) = false ∧ (s.openFault 1 (s.cmdWord 7)).isSome = true := by decide +kernel
/-- Whether a leaf has its place, for which a predicate holds; the STATUS where it has none. -/
def placeOk (r : Except Nat (Nat × State)) (p : Nat → State → Bool) : Bool :=
  match r with
  | .ok (a, t) => p a t
  | .error _ => false
def placeStatus (r : Except Nat (Nat × State)) : Nat :=
  match r with
  | .ok _ => 0
  | .error n => n
theorem witness_Mappings_noPlace : placeStatus ((mapCmd 0x70000 0).leafPlace 1 0x40010000 0) = 2 ∧
    placeStatus ((fwFull (mapCmd 0x70000 0)).leafPlace 1 0x140000000 0) = 5 ∧ 0x70000 % 65536 = 0 ∧
    0x70000 + 0x10000 ≤ Config.fwBase := by decide +kernel
theorem witness_Mappings_given : (placeOk (given.leafPlace 1 (given.cmdWord 1) 0) fun a t =>
      !isLeaf (SMap.look 0 t.ptab a)) = true ∧ given.cmdWord 3 = 0x70000 ∧
    leafMalformed 0 (leafOf 0x70000 1 7 0) = false ∧
    overlaps 0x70000 0x10000 Config.fwBase (Config.memBytes - Config.fwBase) = false := by decide +kernel
theorem witness_Mappings_fresh : fresh.cmdWord 3 = 0xFFFFFFFFFFFFFFFF ∧ leafMalformed 0 (leafOf 0 1 7 0) = false ∧
    (placeOk (fresh.leafPlace 1 (fresh.cmdWord 1) 0) fun _ t => (t.freshFrame 1 0x10000).isSome) = true ∧
    (placeOk ({ fresh with extents := [{ ctx := 1, base := 0, len := Config.fwBase }] }.leafPlace 1 (fresh.cmdWord 1) 0)
      fun _ t => (t.freshFrame 1 0x10000).isNone) = true := by decide +kernel
theorem witness_Mappings_none : (mapCmd 0x70000 0).cmdWord 7 = 0 ∧ (mapCmd 0x70000 0).openFault 1 0 = none := by decide +kernel

/-- UNMAP of the page of class 1, idle or with a load outstanding, and of a page that is not mapped. -/
def unmapCmd (va : DWord) : State := one.withCmd [0x10004, va, 0x40000000]
theorem witness_Mappings_unmap : ∀ s ∈ [unmapCmd 0x40000000, unmapCmd 0x140000000], s.cmdCode = 0x04 ∧
    SMap.has s.ctxs s.cmdCtx = true ∧ sizeLevel (s.cmdWord 2) = some 2 ∧ s.cmdWord 1 % s.cmdWord 2 = 0 ∧
    s.cmdWord 1 + s.cmdWord 2 ≤ 2 ^ 48 ∧ s.pageBusy s.cmdCtx (s.cmdWord 1) (s.cmdWord 2) = false := by decide +kernel
theorem witness_Mappings_leaf :
    (placeOk ((unmapCmd 0x40000000).openEntry 0x40000000 2 3 0) fun a _ => a == 0x1008 && isLeaf (SMap.look 0 pages a)) = true ∧
    (placeOk ((unmapCmd 0x140000000).openEntry 0x140000000 2 3 0) fun a _ => a == 0x1028 && !isLeaf (SMap.look 0 pages a)) =
      true ∧ placeStatus ((unmapCmd 0x40000000).openEntry 0x40000000 0 3 0) = 2 ∧
    (one.withOp (withLanes .load [acc 1 0x7FFFFFFC 4])).pageBusy 1 0x40000000 0x40000000 = true := by decide +kernel

/-- A command that has changed its leaf and waits, and one that waits no more. -/
theorem witness_Mappings_moved : ∀ q ∈ [(unmapCmd 0x40000000, 0x04), (mapCmd 0x70000 0, 0x03)],
    let s : State := { q.1 with mbMoved := true }
    s.cmdCode = q.2 ∧ s.mbstatReady = true ∧ s.mbstatBusy = true ∧ SMap.has s.ctxs s.cmdCtx = true ∧
    (s.ctx s.cmdCtx).keyless = false ∧ s.pageBusy s.cmdCtx (s.cmdWord 1) (s.cmdWord 2) = false ∧
    (s.withOp (withLanes .load [acc 1 (s.cmdWord 1) 4])).pageBusy s.cmdCtx (s.cmdWord 1) (s.cmdWord 2) = true := by
  decide +kernel

theorem witness_Declines : (let s := (mapCmd 0 0).withCmd [0x10005, 3]
      s.cmdCode = 0x05 ∧ SMap.has s.ctxs s.cmdCtx = true ∧ s.openFault s.cmdCtx (s.cmdWord 1) = some 0) ∧
    (let s := (mapCmd 0 0).withCmd [0x10005, 4]
     s.openFault s.cmdCtx (s.cmdWord 1) = none) := by decide +kernel

/-- The shortest image: a header and one null section; and no image at all. -/
def image0 : List Byte := toBytes 128 (0x00464F4C + 2 ^ 32 + 2 ^ 48 + 64 * 2 ^ 64 + 2 ^ 128)
def loadCmd (n : DWord) (bad : Bool) : State :=
  let cells : Memory := image0.zipIdx.map fun (p : Byte × Nat) => (0x40000000 + p.2, p.1)
  ({ (assigned false).withLine 0x1000001 with mem := cells.filter fun (p : Nat × Byte) => p.2 != 0,
                                              homePoison := if bad then [0x2000000] else [] } : State).withCmd
    [0x10007, 0x40000000, n, 0]
def placed (r : Except Nat State) : Bool :=
  match r with
  | .ok _ => true
  | .error _ => false
theorem witness_ImagesAndLaunches_load : readImageFile [] = none ∧
    (match readImageFile image0 with
      | some (ss, ks) => (ss.all fun x => x.typ != 13) && ks.isEmpty && !signatureOk image0 ss
      | none => false) = true ∧
    (∀ b, let s := loadCmd 128 b
      s.cmdCode = 0x07 ∧ SMap.has s.ctxs s.cmdCtx = true ∧ (s.ctx s.cmdCtx).keyless = false ∧
      s.cmdWord 1 + s.cmdWord 2 ≤ Config.memBytes ∧ s.cmdWord 3 < 2 ∧
      (s.readHomes (s.ownerAt (s.cmdWord 1)) (s.cmdWord 1) (s.cmdWord 2) .free).2 = (image0, b)) ∧
    (match readImageFile image0 with
      | some (ss, _) => placed ((loadCmd 128 false).placeImage 1 image0 ss)
      | none => false) = true := by decide +kernel
/-- An image with a code section of one line at 4 KiB, in a context that has a page of another size there, and in one that
has none; and with a signature section. -/
theorem witness_ImagesAndLaunches_place :
    (let x : Section := { name := 0, typ := 1, flags := 5, align := 5, addr := 0x1000, off := 0, size := 32, link := 0, info := 0, reserved := false }
     placed (one.placeImage 1 image0 [x]) = false ∧
     placed ((one.modCtx 1 fun c => { c with root := 0x100000 }).placeImage 1 image0 [x]) = true) ∧
    (∃ x ∈ [({ (default : Section) with typ := 13 } : Section)], x.typ = 13) := by decide +kernel
theorem witness_ImagesAndLaunches_launch : ∀ n ∈ [63, 64],
    let s := (imaged (List.range n)).withCmd [0x10008, 0x1000, 0xFFFFFFFF, 0xFFFFFFFFFFFF, 63]
    s.cmdCode = 0x08 ∧ SMap.has s.ctxs s.cmdCtx = true ∧ (s.ctx s.cmdCtx).keyless = false ∧
    (s.ctx s.cmdCtx).kernel (BitVec.ofNat 64 (s.cmdWord 1)) = some (kernelOf1 1) ∧ 1 ≤ s.cmdWord 2 ∧ s.cmdWord 2 < 2 ^ 32 ∧
    s.cmdWord 3 < 2 ^ 48 ∧ s.cmdWord 4 < 64 ∧ (((s.ctx s.cmdCtx).queue (s.cmdWord 4)).length < 64 ↔ n = 63) := by decide +kernel

/-- A context saved with the area of `bs`, which stands at 1 GiB in lines of key slot 0. -/
def areaAt (bs : List Byte) : State :=
  ({ one with
     allocs := []
     msc := [(0x1000000, { slot := 0, dirty := true, valid := allValid })]
     mem := (bs.zipIdx.map fun (p : Byte × Nat) => ((0x40000000 + p.2, p.1) : Nat × Byte)).filter fun p => p.2 != 0 } : State).modCtx
    1 fun c => { c with run := .saved, area := (0x40000000, bs.length) }
/-- The shortest area: one last record. -/
def lastRecord : List Byte := toBytes 64 (6 + 64 * 2 ^ 64)
/-- PreemptResume: a context that runs, one that is saved with an area that breaks a rule, and one with the shortest area,
whose team finds its place again, and finds none. -/
theorem witness_PreemptResume : (one.withCmd [0x10009]).cmdCode = 0x09 ∧ ((one.withCmd [0x10009]).ctx 1).run = .running ∧
    (let s := (saved one).withCmd [0x1000A]
     s.cmdCode = 0x0A ∧ (s.ctx s.cmdCtx).run = .saved ∧ (s.ctx s.cmdCtx).keyless = false) ∧
    (let s := testing.withCmd [0x1000B, 9, 1]
     s.cmdCode = 0x0B ∧ SMap.has s.ctxs s.cmdCtx = true ∧ s.cmdWord 2 < 2 ∧ (s.ctx s.cmdCtx).test = true) ∧
    ((one.withCmd [0x1000B]).ctx 1).test = false := by decide +kernel
/-- PREEMPT with room for the save area, and with none. -/
theorem witness_PreemptResume_room : (one.preemptCtx 1).isSome = true ∧
    (one.ctx 1).run = .running ∧
    ({ one with ctxs := one.ctxs ++ [(2, { area := (Config.fwBase, Config.memBytes - Config.fwBase) })] } : State).preemptCtx 1 = none :=
  ⟨by decide +kernel, by decide +kernel, by decide +kernel⟩
theorem witness_PreemptResume_area : ∀ p ∈ [(lastRecord, true), (toBytes 64 (7 + 64 * 2 ^ 64), false)],
    (((areaAt p.1).ctx 1).run = .saved ∧ ((areaAt p.1).readArea 1).2 = (p.1, false) ∧ areaOk p.1 = p.2) ∧
    ({ areaAt p.1 with homePoison := [0x2000000] }.readArea 1).2.2 = true := by decide +kernel
theorem witness_PreemptResume_plan : (((areaAt lastRecord).readArea 1).1.restorePlan 1).isSome = true ∧
    ((({ areaAt lastRecord with cores := (List.range 128).map fun c => (c, { free := 0 }) } : State).readArea 1).1.restorePlan 1).isNone =
      true := by decide +kernel

/-- Capacity: an extent at the end of what may be assigned, one that meets another, a release with and without an access.
-/
theorem witness_Capacity : (let s := (assigned false).withCmd [0x1000C, 0xBEC0000000, 1]
      s.cmdCode = 0x0C ∧ SMap.has s.ctxs s.cmdCtx = true ∧ (s.ctx s.cmdCtx).keyless = false ∧ s.cmdWord 1 % gib = 0 ∧
      s.cmdWord 2 * gib ≠ 0 ∧ s.cmdWord 1 + s.cmdWord 2 * gib ≤ Config.fwBase ∧
      ∀ e ∈ s.extents, ¬(s.cmdWord 1 < e.base + e.len ∧ e.base < s.cmdWord 1 + s.cmdWord 2 * gib)) ∧
    (let s := (assigned false).withCmd [0x1000C, 0, 2]
     ∃ e ∈ s.extents, s.cmdWord 1 < e.base + e.len ∧ e.base < s.cmdWord 1 + s.cmdWord 2 * gib) ∧
    (∀ p ∈ [(assigned false, false), ((assigned false).withOp (withLanes .load [acc 1 0x7FFFFFFC 4]), true)],
      let s : State := p.1.withCmd [0x1000D, 0x40000000, 1]
      s.cmdCode = 0x0D ∧ (∃ e ∈ s.extents, e.ctx = s.cmdCtx ∧ e.base = s.cmdWord 1 ∧ e.len = s.cmdWord 2 * gib) ∧
      (s.ctxs.any fun x => s.outstanding x.1 fun a => decide (0x40000000 ≤ a.loc ∧ a.loc < 0x40000000 + gib)) = p.2) ∧
    (let s := one.withCmd [0x1000E]
     s.cmdCode = 0x0E ∧ SMap.has s.ctxs s.cmdCtx = true ∧ (s.ctx s.cmdCtx).keyless = false) := by decide +kernel

/-- BankControl: the same mode, another from CACHE, another from SCRATCH, and a SCRATCH bank that an allocation holds. -/
def scratchBank (b : Nat) : State := one.modBank 0 b fun k => { k with mode := 2, ctl := 2 }
theorem witness_BankControl : (let s := one.withCmd [0x1000F, 15, 63, 0x00FF0001]
      s.cmdCode = 0x0F ∧ SMap.has s.ctxs s.cmdCtx = true ∧ s.cmdWord 1 < 16 ∧ s.cmdWord 2 < 64 ∧
      BitVec.ofNat 64 (s.cmdWord 3) &&& 0xFFFFFFFFFF00FFF4#64 = 0 ∧
      s.cmdWord 3 % 4 = ((s.cluster 15).bank 63).ctl.toNat % 4) ∧
    (one.withCmd [0x0F]).cmdCtx = 0 ∧ ((one.cluster 15).bank 63).mode = 1 ∧ one.bankFree 15 63 = true ∧
    2 ≠ ((one.cluster 15).bank 63).ctl.toNat % 4 ∧ (scratchBank 63).bankFree 0 63 = true ∧
    (((scratchBank 63).cluster 0).bank 63).mode ≠ 1 ∧ 3 ≠ (((scratchBank 63).cluster 0).bank 63).ctl.toNat % 4 ∧
    (scratchBank 0).bankFree 0 0 = false := by decide +kernel

theorem witness_Attestation : (let s := one.withCmd [0x10, 0, 0, 0, 0, 2]
      s.cmdCode = 0x10 ∧ s.cmdWord 5 ≠ 0 ∧ SMap.has s.ctxs (s.cmdWord 5) = false) ∧
    (let s := one.withCmd [0x10, 0, 0, 0, 0, 1]
     s.cmdCode = 0x10 ∧ SMap.has s.ctxs (s.cmdWord 5) = true) := by decide +kernel

theorem witness_Governor : 50 * 10 ≤ 500 ∧ Commanded (one.withCmd [0x11, 1500]) 0x11 := ⟨by decide, commanded_of (by decide +kernel)⟩

theorem witness_Start : (5, ({ key := 1, data := [], psn0 := false, psn1 := false } : DramLine)) ∈ [(5, ({ key := 1, data := [], psn0 := false, psn1 := false } : DramLine))] ∧ 64 * 5 < 0xBF00000000 := by
  simp

theorem witness_RegisterRows : one.groupCtx 32 = 1 ∧ 3 < 4 := by decide +kernel

/-! The machine as a whole. -/

/-- A state whose next action is the turn of its issue group, at bc.exit. -/
def turning : State := { one.withLine 64 with
  agenda := [{ dt := 1, act := .issue { role := 4, ig := 1 } }],
  mem := [(0x1000, 0x2C), (0x1001, 5)], keys := [(1, { key := 1, blocked := false })] }
theorem witness_StepRunsDecoded :
    let now : State := { turning with agenda := [], clock := 1 }
    let u := now.firstAcquire 1
    let g := u.ig now.cur
    (turning.powered = true ∧ now.dueTrap now.cur = none ∧ now.canTurn now.cur = true ∧ (now.ig now.cur).declined = none ∧
      ((now.role 4).path.bind (·.rpc)) = none ∧ u.mfWaits now.cur (.bcExit {}) = false ∧
      u.check (turning.team 1).ctx .ex fetchClass false g.pc.toNat =
        .ok { cls := 0, loc := .dev 0x1000, page := 0, pageSize := 0x40000000 } ∧ g.pc.toNat % 32 + 8 ≤ 32 ∧
      0x52C < 2 ^ (8 * 8) ∧ 0x52C % 2 ^ 32 ≠ 0 ∧
      (∀ j, j < 8 → (u.cluster (clusterOf (u.igCore now.cur))).level.lineBytes ((0x1000 + j) / 64) = []) ∧
      decodesTo [(0x52C, .bcExit {})] = true ∧ g.clause = none ∧ g.placeOk (.bcExit {}) = true ∧ u.mfRange (.bcExit {}) = false ∧
      u.badReg now.cur (.bcExit {}) = none ∧ u.interlocked now.cur (.bcExit {}) = false) ∧
    Plain u 1 0x1000 8 (fun j => BitVec.ofNat 8 (0x52C / 2 ^ (8 * j))) := by
  refine ⟨?_, plain_of (homed_of ?_) ?_⟩ <;> decide +kernel

theorem witness_StepRunsDecoded_event : isTransition (.coolantFlowLow true) = true ∧
    State.reset.powered = true ∧ State.reset.agenda = { dt := 0, act := .event .deviceReset } :: [] ∧
    ({ State.reset with powered := false } : State).powered = false := by decide

theorem witness_RoundTrip : isTransition (.bcExit {}) = false ∧ Instr.wf (.bcExit {}) = true ∧
    0x52C < 2 ^ lenBits (0x52C % 4) ∧ decodesTo [(0x52C, .bcExit {})] = true := by decide +kernel

theorem witness_MemoryCanonical : State.reset.mem.wf = true ∧ State.reset.hostMem.wf = true ∧ ∃ t, step State.reset = .next t :=
  ⟨rfl, rfl, next_of (by decide +kernel)⟩

theorem witness_ProgramsOwnNoTables : isTransition (.soAdd {}) = false ∧ ∃ t, exec (.soAdd {}) one = .next t :=
  ⟨by decide, next_of (by decide +kernel)⟩


/-! Results to come. -/

/-- A state inside a clause of two words whose FA names flag 11; the same with that flag at 63. -/
def inside (x : State) : State := x.modIg x.cur fun g =>
  { g with clause := some { hdr := 0x0FF8, len := 2, fa := some 11, fb := none, idx := 0 } }
def flagFull (x : State) : State := (inside x).modGroup 32 fun g => { g with cf := [(11, 63)] }

/-- The forms of class L inside a clause: a flag with room, and a full one. -/
theorem witness_ResultsToCome :
    (∀ s ∈ [two, region gx1, taped recOne], ((inside s).ig (inside s).cur).clause ≠ none ∧
      ∀ cf ∈ [0, 1, 3], (inside s).room none cf = true ∧ (inside s).room (some 15) cf = true) ∧
    (flagFull two).flagOf 1 = some 11 ∧ (flagFull two).room none 1 = false ∧
    (inside two).lanes (inside two).cur ≠ [] ∧ (inside two).xlParty = some [two.cur] ∧
    (∀ h ∈ homesOf ([two.cur].flatMap (inside two).lanes),
      (inside two).pendingElsewhere ((inside two).gid h) 0 (BitVec.allOnes 96)
        (maskOf ([two.cur].flatMap (inside two).lanes) h) = false ∧
      ∀ f, (inside two).flagOf 1 = some f → SMap.look 0 ((inside two).group ((inside two).gid h)).cf f < 63) := by
  refine ⟨by decide +kernel, by decide +kernel, by decide +kernel, ?_⟩
  refine ⟨by decide +kernel, by decide +kernel, fun h hh => ?_⟩
  refine ⟨?_, ?_⟩
  · revert h; decide +kernel
  · intro f hf
    have : (inside two).flagOf 1 = some 11 := by decide +kernel
    obtain rfl : 11 = f := by simpa [this] using hf
    revert h; decide +kernel

/-- CrossLaneWaits: a full flag. -/
theorem witness_CrossLaneFlag : (flagFull two).lanes (flagFull two).cur ≠ [] ∧ (flagFull two).xlParty = some [two.cur] ∧
    0 ∈ homesOf ([two.cur].flatMap (flagFull two).lanes) ∧
    SMap.look 0 ((flagFull two).group ((flagFull two).gid 0)).cf 11 = 63 := by decide +kernel

/-- TapeForms: a record's entry inside a clause. -/
theorem witness_TapeForms_clause :
    let s := inside (taped recOne)
    s.lanes s.cur ≠ [] ∧ s.wholeHere = true ∧ s.suppliers s.cur = [0] ∧ (s.group 32).tapeCtl.toNat % 4 = 2 ∧
    (s.group 32).tapeIdle = true ∧ (s.group 32).cf = [] ∧ (∃ l, l < 96 ∧ (s.pathMask (s.group 32).home).getLsbD l = true) ∧
    (match s.lastEntry 32 with
      | (u, .entry a bs) => unitAt bs 0 == tapeHeader 1 1 0 && maskAt bs 2 == s.pathMask 0 &&
          (match u.scanBeats 32 (s.group 32).tapePos.toNat a (s.pathMask 0) 3 0 (a + 16) with
            | (_, .at_ _) => true
            | _ => false)
      | _ => false) = true := by
  refine ⟨?_, ?_, ?_, ?_, ?_, ?_, ⟨0, by decide, ?_⟩, ?_⟩ <;> decide +kernel

/-- R231: a special function inside a clause leaves its register and holds its flag until LOAD_PERFORM. -/
theorem test_sf_in_clause :
    runs (.sfRcp { d := 3, a := 1, ty := .f32, cf := 1 }) (inside (one.setV 1 0 0x40000000)) (fun t =>
      t.readV 32 3 0 == 0 && SMap.look 0 (t.group 32).cf 11 == 1 &&
      runs (.loadPerform 32 2 none .clean) t (fun u => u.readV 32 3 0 == 0x3F000000 && SMap.look 0 (u.group 32).cf 11 == 0)) =
      true := by decide +kernel

/-! ### Single steps, with results the spec gives -/

/-- `one` with two scalar registers; `two` with the first two lanes of a vector register. -/
def ab (a b : Word) : State := (one.setS 1 a).setS 2 b
def lanes2 (r : Nat) (a b : Word) (s : State) : State := (s.setV r 0 a).setV r 1 b

/-- R262: the sum keeps its low 32 bits; an arithmetic shift copies bit 31. -/
theorem test_so_add_wraps :
    runs (.soAdd { sd := 3, sa := 1, sb := 2, ty := .i32 }) (ab 0xFFFFFFFF 2) (fun t => t.readS 32 3 == 1) = true := by
  decide +kernel
theorem test_so_sra :
    runs (.soSra { sd := 3, sa := 1, sb := 2, ty := .i32 }) (ab 0x80000000 4) (fun t => t.readS 32 3 == 0xF8000000) = true := by
  decide +kernel

/-- R264: the same bits compare otherwise as i32 and as n32. -/
theorem test_so_cmp_signed :
    runs (.soCmp { sd := 3, sa := 1, sb := 2, ty := .i32, sel := 2 }) (ab 0xFFFFFFFF 1) (fun t => t.readS 32 3 == 1) = true := by
  decide +kernel
theorem test_so_cmp_unsigned :
    runs (.soCmp { sd := 3, sa := 1, sb := 2, ty := .n32, sel := 2 }) (ab 0xFFFFFFFF 1) (fun t => t.readS 32 3 == 0) = true := by
  decide +kernel

/-- Every instruction moves its issue group past itself: 8 bytes here, 16 for a form of 128 bits. -/
theorem test_pc_after_64 : runs (.soAdd { ty := .i32 }) one (fun t => (t.ig t.cur).pc == 0x1008) = true := by
  decide +kernel

/-- The worked pair of the vector chapter runs as one instruction. -/
theorem test_vp_pair :
    runs (.vp .fadd { d := 10, a := 4, b := 5, ty := .f32 } .mov { d := 13, a := 6, ty := .b32 })
      (((one.setV 4 0 0x3F800000).setV 5 0 0x40000000).setV 6 0 7)
      (fun t => t.readV 32 10 0 == 0x40400000 && t.readV 32 13 0 == 7) = true := by decide +kernel

/-- The first case of R211's note, 1 + 2⁻²⁴, rounds to 1 in f32 and sets INX, bit 0. -/
theorem test_vo_fadd_inexact :
    runs (.voFadd { d := 3, a := 1, b := 2, ty := .f32 }) ((one.setV 1 0 0x3F800000).setV 2 0 0x33800000)
      (fun t => t.readV 32 3 0 == 0x3F800000) = true := by decide +kernel

/-- The worked conversion of the number chapter: 1.1 in f32 gives 0x39 in f8e4. -/
theorem test_vo_cvt_f8e4 :
    runs (.voCvt { d := 3, a := 1, ty := .f8e4, ty2 := .f32 }) (one.setV 1 0 0x3F8CCCCD)
      (fun t => (t.readV 32 3 0) &&& 0xFF == 0x39) = true := by decide +kernel

/-- The transpose of the vector chapter, its first step in lanes 0 and 1: 0x00 0x01 and 0x10 0x11. -/
theorem test_xl_bfly_hi :
    runs (.xlBfly { d := 4, a := 1, b := 0, sm := 40, ty := .b32, sel := 0 })
      (lanes2 1 0x10 0x11 (lanes2 0 0 1 (two.setS 40 3)))
      (fun t => t.readV 32 4 0 == 0 && t.readV 32 4 1 == 0x10) = true := by decide +kernel
theorem test_xl_bfly_lo :
    runs (.xlBfly { d := 5, a := 0, b := 1, sm := 40, ty := .b32, sel := 8 })
      (lanes2 1 0x10 0x11 (lanes2 0 0 1 (two.setS 40 3)))
      (fun t => t.readV 32 5 0 == 1 && t.readV 32 5 1 == 0x11) = true := by decide +kernel

/-- R282: scan.eadd over ones gives the lane number. -/
theorem test_xl_scan_eadd :
    runs (.xlScan { d := 9, a := 8, sm := 40, ty := .n32, sel := 8 }) (lanes2 8 1 1 (two.setS 40 3))
      (fun t => t.readV 32 9 0 == 0 && t.readV 32 9 1 == 1) = true := by decide +kernel

/-- R276: a comparison into em0 deactivates the lane in which it is false. -/
theorem test_vm_cmp_em :
    runs (.vmCmp { sd := 124, a := 1, b := 2, ty := .i32, sel := 2 }) (lanes2 2 0 0 (lanes2 1 0xFFFFFFFF 1 two))
      (fun t => t.readS 32 124 == 1) = true := by decide +kernel

/-- R284: the target is the address of the instruction plus 4 times TOFF. -/
theorem test_bc_jmp : runs (.bcJmp { toff := 16 }) one (fun t => (t.ig t.cur).pc == 0x1040) = true := by
  decide +kernel

/-- R285: bc.brk with a handler records bit 31 and cause 0x10, the code, and the address after the instruction (R234,
R376). -/
theorem test_bc_brk : runs (.bcBrk { toff := 5 }) (one.handler 0x2000)
    (fun t => (t.ig t.cur).pc == 0x2000 && (t.group 32).trapCause == 0x80000010 && (t.group 32).trapPc == 0x1008 &&
      (t.group 32).trapAddr == 5) = true := by decide +kernel

end Sys2Proof.Tests
end

section
/-! PROOFS. The e8 scale of a float (R207): the base-2 logarithm that `floorLog2` gives, the four kinds of value that
`decodeF` tells apart, and the code that `e8Floor` makes of each. -/

namespace Sys2Proof.Machine

/-! ### Scaling and the logarithm -/

/-- `scale n d k` is `n / d` times `2 ^ k`. -/
theorem scale_ratio (n d : Nat) (k : Int) :
    ((scale n d k).1 : ℚ) / (scale n d k).2 = n / d * 2 ^ k := by
  cases k with
  | ofNat j => simp [scale, div_mul_eq_mul_div]
  | negSucc j => simp [scale, zpow_negSucc, div_eq_mul_inv, mul_assoc, mul_comm]

theorem scale_num_pos {n : Nat} (hn : 0 < n) (d : Nat) (k : Int) : 0 < (scale n d k).1 := by
  cases k with
  | ofNat j => exact Nat.mul_pos hn (Nat.two_pow_pos j)
  | negSucc j => exact hn

theorem scale_den_pos (n : Nat) {d : Nat} (hd : 0 < d) (k : Int) : 0 < (scale n d k).2 := by
  cases k with
  | ofNat j => exact hd
  | negSucc j => exact Nat.mul_pos hd (Nat.two_pow_pos (j + 1))

/-- The comparison of `floorLog2` is one of the quotient with the power of two. -/
theorem lt_scale_one_iff (n : Nat) {d : Nat} (hd : 0 < d) (k : Int) :
    n * (scale 1 1 k).2 < (scale 1 1 k).1 * d ↔ (n : ℚ) / d < 2 ^ k := by
  have hpow : ((scale 1 1 k).1 : ℚ) / (scale 1 1 k).2 = 2 ^ k := by simpa using scale_ratio 1 1 k
  have hb : (0 : ℚ) < (scale 1 1 k).2 := by exact_mod_cast scale_den_pos 1 one_pos k
  have hd' : (0 : ℚ) < d := by exact_mod_cast hd
  rw [← hpow, div_lt_div_iff₀ hd' hb]
  exact_mod_cast Iff.rfl

/-- A positive natural number lies between the powers of two beside its `Nat.log2`. -/
theorem log2_bounds {n : Nat} (hn : 0 < n) : (2 : ℚ) ^ (n.log2 : ℤ) ≤ n ∧ (n : ℚ) < 2 ^ ((n.log2 : ℤ) + 1) := by
  have hlo : 2 ^ n.log2 ≤ n := Nat.log2_self_le hn.ne'
  have hhi : n < 2 ^ (n.log2 + 1) := Nat.lt_log2_self
  exact ⟨by exact_mod_cast hlo, by exact_mod_cast hhi⟩

/-- The quotient of two positive numbers lies less than a factor of two from the difference of their logarithms. -/
theorem div_log2_bounds {n d : Nat} (hn : 0 < n) (hd : 0 < d) :
    (2 : ℚ) ^ ((n.log2 : ℤ) - d.log2 - 1) ≤ (n : ℚ) / d ∧ (n : ℚ) / d < 2 ^ ((n.log2 : ℤ) - d.log2 + 1) := by
  obtain ⟨hn₁, hn₂⟩ := log2_bounds hn
  obtain ⟨hd₁, hd₂⟩ := log2_bounds hd
  have hd' : (0 : ℚ) < d := by exact_mod_cast hd
  constructor
  · rw [le_div_iff₀ hd']
    calc (2 : ℚ) ^ ((n.log2 : ℤ) - d.log2 - 1) * d
        ≤ 2 ^ ((n.log2 : ℤ) - d.log2 - 1) * 2 ^ ((d.log2 : ℤ) + 1) := by gcongr
      _ = 2 ^ (n.log2 : ℤ) := by rw [← zpow_add₀ two_ne_zero]; congr 1; ring
      _ ≤ n := hn₁
  · rw [div_lt_iff₀ hd']
    calc (n : ℚ) < 2 ^ ((n.log2 : ℤ) + 1) := hn₂
      _ = 2 ^ ((n.log2 : ℤ) - d.log2 + 1) * 2 ^ (d.log2 : ℤ) := by rw [← zpow_add₀ two_ne_zero]; congr 1; ring
      _ ≤ 2 ^ ((n.log2 : ℤ) - d.log2 + 1) * d := by gcongr

/-- Two powers of two beside a positive rational give its logarithm. -/
theorem intLog_eq_of_bounds {q : ℚ} {k : ℤ} (hlo : (2 : ℚ) ^ k ≤ q) (hhi : q < 2 ^ (k + 1)) : Int.log 2 q = k := by
  have hq : 0 < q := (zpow_pos two_pos k).trans_le hlo
  have hle : k ≤ Int.log 2 q := (Int.zpow_le_iff_le_log one_lt_two hq).1 (by exact_mod_cast hlo)
  have hlt : Int.log 2 q < k + 1 := (Int.lt_zpow_iff_log_lt one_lt_two hq).1 (by exact_mod_cast hhi)
  omega

theorem floorLog2_eq_log {n d : Nat} (hn : 0 < n) (hd : 0 < d) : floorLog2 n d = Int.log 2 ((n : ℚ) / d) := by
  obtain ⟨hlo, hhi⟩ := div_log2_bounds hn hd
  symm
  simp only [floorLog2, lt_scale_one_iff n hd]
  split
  · next hbelow => exact intLog_eq_of_bounds hlo (by simpa using hbelow)
  · next habove => exact intLog_eq_of_bounds (not_lt.1 habove) hhi

/-! ### What a code stands for -/

theorem decodeF_zero {t : Ty} {x : Nat} (h : mag t x = 0) : decodeF t x = .zero (sgn t x) := by
  simp [decodeF, h]

theorem decodeF_inf {t : Ty} {x : Nat} (hinf : (fmt t).hasInf = true) (h : mag t x = (fmt t).maxFin + 1) :
    decodeF t x = .inf (sgn t x) := by
  simp [decodeF, h, hinf]

theorem decodeF_nan {t : Ty} {x : Nat}
    (h : if (fmt t).hasInf then (fmt t).maxFin + 1 < mag t x else (fmt t).maxFin < mag t x) : decodeF t x = .nan := by
  split at h
  · next hinf =>
    have hne : mag t x ≠ 0 ∧ (fmt t).maxFin < mag t x ∧ mag t x ≠ (fmt t).maxFin + 1 := by omega
    simp [decodeF, hne]
  · next hinf =>
    have hne : mag t x ≠ 0 := by omega
    simp [decodeF, h, hne, hinf]

/-- The significand of a finite code as an integer, with its leading bit where the code is normal. -/
def significand (t : Ty) (x : Nat) : Nat :=
  if mag t x / 2 ^ (fmt t).m = 0 then mag t x else mag t x % 2 ^ (fmt t).m + 2 ^ (fmt t).m

/-- The power of two that one unit of the significand counts for. -/
def unitExp (t : Ty) (x : Nat) : Int :=
  (if mag t x / 2 ^ (fmt t).m = 0 then 1 else ((mag t x / 2 ^ (fmt t).m : Nat) : Int)) - (fmt t).bias - (fmt t).m

theorem significand_pos {t : Ty} {x : Nat} (h : 0 < mag t x) : 0 < significand t x := by
  unfold significand
  split
  · exact h
  · exact Nat.add_pos_right _ (Nat.two_pow_pos _)

theorem decodeF_fin {t : Ty} {x : Nat} (hpos : 0 < mag t x) (htop : mag t x ≤ (fmt t).maxFin) :
    decodeF t x = .fin (sgn t x) (scale (significand t x) 1 (unitExp t x)).1
      (scale (significand t x) 1 (unitExp t x)).2 := by
  by_cases he : mag t x / 2 ^ (fmt t).m = 0 <;>
    simp [decodeF, significand, unitExp, he, hpos.ne', htop.not_gt]

/-- The sign of a value does not reach its magnitude. -/
theorem abs_ite_neg {a : ℚ} (ha : 0 ≤ a) (p : Prop) [Decidable p] : |if p then -a else a| = a := by
  split
  · rw [abs_neg, abs_of_nonneg ha]
  · exact abs_of_nonneg ha

/-- The magnitude of `ratOf` is the significand in units of its last place, in a subnormal code as in a normal one. -/
theorem abs_ratOf (t : Ty) (x : Nat) : |ratOf t x| = significand t x * 2 ^ unitExp t x := by
  unfold ratOf significand unitExp mag
  have hm : (2 : ℚ) ^ (fmt t).m ≠ 0 := pow_ne_zero _ two_ne_zero
  by_cases he : x % 2 ^ (fmt t).sign / 2 ^ (fmt t).m = 0
  · have hfrac : x % 2 ^ (fmt t).sign % 2 ^ (fmt t).m = x % 2 ^ (fmt t).sign :=
      Nat.mod_eq_of_lt ((Nat.div_eq_zero_iff_lt (Nat.two_pow_pos _)).1 he)
    simp only [he, if_true]
    rw [abs_ite_neg (by positivity), hfrac, zpow_sub₀ two_ne_zero _ ((fmt t).m : ℤ), zpow_natCast]
    field_simp
  · simp only [he, if_false]
    rw [abs_ite_neg (by positivity), zpow_sub₀ two_ne_zero _ ((fmt t).m : ℤ), zpow_natCast]
    push_cast
    field_simp
    ring

/-! ### The scale code -/

theorem e8Floor_fin {t : Ty} {x : Nat} (hpos : 0 < mag t x) (htop : mag t x ≤ (fmt t).maxFin) :
    (e8Floor t x : Int) = max 0 (min 254 (Int.log 2 |ratOf t x| + 127)) := by
  have hn := scale_num_pos (significand_pos hpos) 1 (unitExp t x)
  have hd := scale_den_pos (significand t x) one_pos (unitExp t x)
  have hlog : floorLog2 (scale (significand t x) 1 (unitExp t x)).1 (scale (significand t x) 1 (unitExp t x)).2 =
      Int.log 2 |ratOf t x| := by
    rw [floorLog2_eq_log hn hd, scale_ratio, abs_ratOf, Nat.cast_one, div_one]
  simp only [e8Floor, decodeF_fin hpos htop, hlog]
  exact Int.toNat_of_nonneg (le_max_left _ _)

theorem cvtElem_e8 {t : Ty} (h : WellFormed.isFloatAny t = true) (rm : Rm) (sat : Bool) (x : Nat) :
    cvtElem .e8 t rm sat x = (e8Floor t x, 0) := by
  have he8 : WellFormed.isFloatAny .e8 = false := rfl
  simp [cvtElem, h, he8]

/-- Settles O5: the four kinds of a code one after the other, with `floorLog2` the logarithm of a finite value. -/
theorem scaleCodes : Obligations.ScaleCodes := by
  intro t ht x rm sat _
  have hfloat : ∀ t ∈ [Ty.f64, .f32, .bf16, .f16, .f8e5, .f8e4, .f4], WellFormed.isFloatAny t = true := by decide
  refine ⟨cvtElem_e8 (hfloat t ht) rm sat x, fun hnan => ?_, fun hzero => ?_, fun hinf htop => ?_, e8Floor_fin⟩
  · rw [e8Floor, decodeF_nan hnan]
  · rw [e8Floor, decodeF_zero hzero]
  · rw [e8Floor, decodeF_inf hinf htop]

end Sys2Proof.Machine
end

section
/-! PROOFS. The paired vector operations (R232, R233): what an instruction does that rewrites the group of each supplying
home group from the state at issue, which registers a vo operation writes, and the group that a vp leaves. -/

namespace Sys2Proof.Machine

/-! ### Rewriting the group of each supplying home group -/

/-- What `eachLanes` makes of the groups when it rewrites each one as `f`, which reads nothing of another group. -/
theorem eachLanes_groups (s : State) (f : State → Nat → LaneMask → Group → Group)
    (hf : ∀ t g m, OnlyGroups s t → t.group g = s.group g → f t g m = f s g m) :
    OnlyGroups s (s.eachLanes fun s g m => s.modGroup g (f s g m)) ∧
    (∀ h ∈ s.suppliers s.cur, (s.eachLanes fun s g m => s.modGroup g (f s g m)).group (s.gid h) =
      f s (s.gid h) (maskOf (s.lanes s.cur) h) (s.group (s.gid h))) ∧
    ∀ g, ¬Supplies s g → (s.eachLanes fun s g m => s.modGroup g (f s g m)).group g = s.group g := by
  obtain ⟨honly, hsup, hidle⟩ := foldl_homes
    (fun t h => t.modGroup (t.gid h) (f t (t.gid h) (maskOf (s.lanes s.cur) h)))
    (fun h => f s (s.gid h) (maskOf (s.lanes s.cur) h) (s.group (s.gid h))) s
    (fun t h ht hg => by
      rw [ht.gid, ← hf t _ _ ht hg, ← hg]
      exact becomes_setGroup t _ _) (s.lanes s.cur)
  exact ⟨honly, hsup, fun g hg => hidle g fun h hh e => hg ⟨h, hh, e⟩⟩

/-- An instruction that rewrites the group of each supplying home group completes. -/
theorem simple_eachLanes (s : State) (len : Nat) (f : State → Nat → LaneMask → Group → Group)
    (hf : ∀ t g m, OnlyGroups s t → t.group g = s.group g → f t g m = f s g m) :
    Completes (s.simple len fun s => s.eachLanes fun s g m => s.modGroup g (f s g m)) fun t =>
      Kept s t ∧ Past s t len ∧
      (∀ h ∈ s.suppliers s.cur, t.group (s.gid h) =
        f s (s.gid h) (maskOf (s.lanes s.cur) h) (s.group (s.gid h))) ∧
      ∀ g, ¬Supplies s g → t.group g = s.group g := by
  obtain ⟨honly, hsup, hidle⟩ := eachLanes_groups s f hf
  obtain ⟨he, hk, hp, hgroups⟩ := simple_kept s len (fun s => s.eachLanes fun s g m => s.modGroup g (f s g m)) honly
  have hg := fun n => congrArg (SMap.look {} · n) hgroups
  exact ⟨_, he, hk, hp, fun h hh => (hg _).trans (hsup h hh), fun g hn => (hg _).trans (hidle g hn)⟩

theorem activeLane_gid_iff (s : State) (h l : Nat) :
    ActiveLane s (s.gid h) l ↔ (maskOf (s.lanes s.cur) h).getLsbD l = true := by
  rw [maskOf_bit, decide_eq_true_eq]
  constructor
  · rintro ⟨hl, k, hk, he⟩
    exact ⟨hl, gid_inj s he ▸ hk⟩
  · rintro ⟨hl, hk⟩
    exact ⟨hl, h, hk, rfl⟩

/-- An active lane is one of a supplying home group. -/
theorem ActiveLane.supplies {s : State} {g l : Nat} (ha : ActiveLane s g l) : Supplies s g := by
  obtain ⟨-, h, hh, rfl⟩ := ha
  exact ⟨h, (mem_homesOf _ _).2 ⟨l, hh⟩, rfl⟩

/-! ### The registers that a vo operation writes -/

/-- The check of every operation contains that of its destination. -/
theorem dst_of_wf_vo {op : VoOp} {x : VoArgs} (h : WellFormed.vo op x = true) : WellFormed.dst x.d x.ty = true := by
  cases op <;> simp only [WellFormed.vo, Bool.and_eq_true] at h <;> simp only [h]

/-- The destination of a well-formed vo operation is a vector register, and its pair the one after it too. -/
theorem mem_voWrites {op : VoOp} {x : VoArgs} (h : WellFormed.vo op x = true) (r : Nat) :
    r ∈ voWrites x ↔ r = x.d ∨ x.ty.is64 = true ∧ r = x.d + 1 := by
  have hd : ¬ 384 ≤ x.d := by
    have := dst_of_wf_vo h
    simp only [WellFormed.dst, Bool.and_eq_true, decide_eq_true_eq] at this
    omega
  cases hw : x.ty.is64 <;> simp [voWrites, operandRegs, hd, hw]

/-- R232: the two operations of a pair write registers of different banks, so never the same one. -/
theorem voWrites_disjoint {op1 op2 : VoOp} {x1 x2 : VoArgs} (h : vpPair op1 x1 op2 x2 = true) :
    List.Disjoint (voWrites x1) (voWrites x2) := by
  intro r h1 h2
  simp only [vpPair, Bool.and_eq_true, List.all_eq_true, and_assoc] at h
  obtain ⟨hbanks, -⟩ := h
  simpa using hbanks r h1 r h2

theorem setLanes_lane_low {x : Group} {d l : Nat} {wide : Bool} {m : LaneMask} {f : Nat → Flagged} (hl : l < 96)
    (hm : m.getLsbD l = true) : (x.setLanes d wide m f).lane d l = BitVec.ofNat 32 (f l).1 := by
  simp [setLanes_lane _ _ _ _ _ _ _ hl, hm]

theorem setLanes_lane_high {x : Group} {d l : Nat} {m : LaneMask} {f : Nat → Flagged} (hl : l < 96)
    (hm : m.getLsbD l = true) : (x.setLanes d true m f).lane (d + 1) l = BitVec.ofNat 32 ((f l).1 / 2 ^ 32) := by
  simp [setLanes_lane _ _ _ _ _ _ _ hl, hm]

/-- A lane that is not of the mask, or a register that the operation does not write, keeps its word. -/
theorem setLanes_lane_other {op : VoOp} {x : VoArgs} (h : WellFormed.vo op x = true) {y : Group} {r l : Nat}
    {m : LaneMask} {f : Nat → Flagged} (hl : l < 96) (hr : ¬(m.getLsbD l = true ∧ r ∈ voWrites x)) :
    (y.setLanes x.d x.ty.is64 m f).lane r l = y.lane r l := by
  rw [mem_voWrites h] at hr
  rw [setLanes_lane _ _ _ _ _ _ _ hl, if_neg fun ⟨hw, he, hm⟩ => hr ⟨hm, .inr ⟨hw, he⟩⟩,
    if_neg fun ⟨he, hm⟩ => hr ⟨hm, .inl he⟩]

/-- Nothing of a vector write is left where the registers and the flags are replaced. -/
theorem setLanes_overwritten (y : Group) (d : Nat) (wide : Bool) (m : LaneMask) (f : Nat → Flagged) (v : SMap Vec)
    (p : Word) : { y.setLanes d wide m f with v := v, fpflags := p } = { y with v := v, fpflags := p } := by
  cases wide <;> rfl

/-! ### The group that a pair leaves -/

/-- The group of home group `h` after a vp: both results, each from the state at issue, written one after the other. -/
def State.vpGroup (s : State) (op1 : VoOp) (x1 : VoArgs) (op2 : VoOp) (x2 : VoArgs) (h : Nat) : Group :=
  ((s.group (s.gid h)).setLanes x1.d x1.ty.is64 (maskOf (s.lanes s.cur) h) (s.voAt op1 x1 (s.gid h))).setLanes
    x2.d x2.ty.is64 (maskOf (s.lanes s.cur) h) (s.voAt op2 x2 (s.gid h))

theorem exec_vp (op1 : VoOp) (x1 : VoArgs) (op2 : VoOp) (x2 : VoArgs) (s : State) :
    exec (.vp op1 x1 op2 x2) s = execVp op1 x1 op2 x2 s := rfl

/-- A vp completes, and its groups are those of `vpGroup`. -/
theorem execVp_groups (op1 : VoOp) (x1 : VoArgs) (op2 : VoOp) (x2 : VoArgs) (s : State) :
    Completes (execVp op1 x1 op2 x2 s) fun t => Kept s t ∧ Past s t 16 ∧
      (∀ h ∈ s.suppliers s.cur, t.group (s.gid h) = s.vpGroup op1 x1 op2 x2 h) ∧
      ∀ g, ¬Supplies s g → t.group g = s.group g :=
  simple_eachLanes s 16
    (fun t g m y => (y.setLanes x1.d x1.ty.is64 m (t.voAt op1 x1 g)).setLanes x2.d x2.ty.is64 m (t.voAt op2 x2 g))
    fun t g m ht hg => by simp only [funext (ht.voAt hg op1 x1), funext (ht.voAt hg op2 x2)]

section
variable {op1 op2 : VoOp} {x1 x2 : VoArgs} {s : State} {h l : Nat}

/-- The second operation does not touch what the first one writes. -/
theorem vpGroup_lane_of_mem_first (hwf2 : WellFormed.vo op2 x2 = true) (hpair : vpPair op1 x1 op2 x2 = true) (hl : l < 96)
    {r : Nat} (hr : r ∈ voWrites x1) : (s.vpGroup op1 x1 op2 x2 h).lane r l =
      ((s.group (s.gid h)).setLanes x1.d x1.ty.is64 (maskOf (s.lanes s.cur) h) (s.voAt op1 x1 (s.gid h))).lane r l :=
  setLanes_lane_other hwf2 hl fun ⟨_, hr2⟩ => voWrites_disjoint hpair hr hr2

theorem vpGroup_lane_other (hwf1 : WellFormed.vo op1 x1 = true) (hwf2 : WellFormed.vo op2 x2 = true) (hl : l < 96) {r : Nat}
    (hr : ¬((maskOf (s.lanes s.cur) h).getLsbD l = true ∧ (r ∈ voWrites x1 ∨ r ∈ voWrites x2))) :
    (s.vpGroup op1 x1 op2 x2 h).lane r l = (s.group (s.gid h)).lane r l :=
  (setLanes_lane_other hwf2 hl fun ⟨hm, h2⟩ => hr ⟨hm, .inr h2⟩).trans
    (setLanes_lane_other hwf1 hl fun ⟨hm, h1⟩ => hr ⟨hm, .inl h1⟩)

theorem vpGroup_flags : (s.vpGroup op1 x1 op2 x2 h).fpflags = (s.group (s.gid h)).fpflags |||
    BitVec.ofNat 32 (flagsOf (maskOf (s.lanes s.cur) h) (s.voAt op1 x1 (s.gid h)) % 16) |||
    BitVec.ofNat 32 (flagsOf (maskOf (s.lanes s.cur) h) (s.voAt op2 x2 (s.gid h)) % 16) := by
  simp only [State.vpGroup, setLanes_flags]

theorem vpGroup_rest : { s.vpGroup op1 x1 op2 x2 h with
    v := (s.group (s.gid h)).v, fpflags := (s.group (s.gid h)).fpflags } = s.group (s.gid h) :=
  (setLanes_overwritten ..).trans (setLanes_overwritten ..)

/-- In an active lane each destination holds its own operation's result, with the upper word in the second register of a
pair. -/
theorem vpGroup_value (hwf1 : WellFormed.vo op1 x1 = true) (hwf2 : WellFormed.vo op2 x2 = true)
    (hpair : vpPair op1 x1 op2 x2 = true) (hl : l < 96) (hm : (maskOf (s.lanes s.cur) h).getLsbD l = true) :
    let y := s.vpGroup op1 x1 op2 x2 h
    y.lane x1.d l = BitVec.ofNat 32 (s.voAt op1 x1 (s.gid h) l).1 ∧
    y.lane x2.d l = BitVec.ofNat 32 (s.voAt op2 x2 (s.gid h) l).1 ∧
    (x1.ty.is64 = true → y.lane (x1.d + 1) l = BitVec.ofNat 32 ((s.voAt op1 x1 (s.gid h) l).1 / 2 ^ 32)) ∧
    (x2.ty.is64 = true → y.lane (x2.d + 1) l = BitVec.ofNat 32 ((s.voAt op2 x2 (s.gid h) l).1 / 2 ^ 32)) := by
  have first := fun {r} hr => vpGroup_lane_of_mem_first (s := s) (h := h) hwf2 hpair hl (r := r) ((mem_voWrites hwf1 r).2 hr)
  refine ⟨(first (.inl rfl)).trans (setLanes_lane_low hl hm), setLanes_lane_low hl hm, fun hw => ?_, fun hw => ?_⟩
  · rw [first (.inr ⟨hw, rfl⟩), hw]
    exact setLanes_lane_high hl hm
  · rw [State.vpGroup, hw]
    exact setLanes_lane_high hl hm

end

/-- Settles O8: a supplying home group's group is `vpGroup` and every other group is kept. -/
theorem vectorPairReadsFirst : Obligations.VectorPairReadsFirst := by
  intro op1 op2 x1 x2 s hwf
  simp only [Instr.wf, Bool.and_eq_true] at hwf
  obtain ⟨⟨hwf1, hwf2⟩, hpair⟩ := hwf
  rw [exec_vp]
  obtain ⟨t, he, hk, hp, hsup, hidle⟩ := execVp_groups op1 x1 op2 x2 s
  refine ⟨t, he, hk, hp, fun g l ha => ?value, fun g r l hl hn => ?others, fun h hh => ?flags, fun g => ?rest, hidle⟩
  case value =>
    obtain ⟨h, hh, rfl⟩ := ha.supplies
    simp only [State.readV, hsup h hh]
    exact vpGroup_value hwf1 hwf2 hpair ha.1 ((activeLane_gid_iff s h l).1 ha)
  case others =>
    by_cases hg : Supplies s g
    · obtain ⟨h, hh, rfl⟩ := hg
      rw [activeLane_gid_iff] at hn
      simp only [State.readV, hsup h hh, vpGroup_lane_other hwf1 hwf2 hl hn]
    · simp only [State.readV, hidle g hg]
  case flags => rw [hsup h hh, vpGroup_flags]
  case rest =>
    by_cases hg : Supplies s g
    · obtain ⟨h, hh, rfl⟩ := hg
      rw [hsup h hh]
      exact vpGroup_rest
    · rw [hidle g hg]

end Sys2Proof.Machine
end

section
/-! PROOFS. The binding table (R33, R309): what an instruction leaves that changes nothing but the bindings of a context, and
the entries that ms.unbind removes. -/

namespace Sys2Proof.Machine

/-! ### An effect on one binding table -/

/-- The states differ in nothing but the binding table of context `c`, and that is `bs`. -/
structure Rebinds (s t : State) (c : Nat) (bs : List Bind) : Prop where
  rest : { t with ctxs := s.ctxs } = s
  ctx : ∀ n, t.ctx n = if n = c then { s.ctx c with binds := bs } else s.ctx n

theorem Rebinds.refl (s : State) (c : Nat) : Rebinds s s c (s.ctx c).binds where
  rest := rfl
  ctx n := by split <;> simp_all

namespace Rebinds
variable {s t : State} {c : Nat} {bs : List Bind}

theorem role (h : Rebinds s t c bs) (n : Nat) : t.role n = s.role n :=
  show ({ t with ctxs := s.ctxs } : State).role n = s.role n by rw [h.rest]
theorem team (h : Rebinds s t c bs) (n : Nat) : t.team n = s.team n :=
  show ({ t with ctxs := s.ctxs } : State).team n = s.team n by rw [h.rest]
theorem groups (h : Rebinds s t c bs) : t.groups = s.groups :=
  show ({ t with ctxs := s.ctxs } : State).groups = s.groups by rw [h.rest]
theorem clock (h : Rebinds s t c bs) : t.clock = s.clock :=
  show ({ t with ctxs := s.ctxs } : State).clock = s.clock by rw [h.rest]
theorem cur (h : Rebinds s t c bs) : t.cur = s.cur :=
  show ({ t with ctxs := s.ctxs } : State).cur = s.cur by rw [h.rest]
theorem ig (h : Rebinds s t c bs) (q : IgRef) : t.ig q = s.ig q := ig_of_role (by rw [h.role])
theorem curCtx (h : Rebinds s t c bs) : t.curCtx = s.curCtx := by
  simp only [State.curCtx, State.roleCtx, h.team, h.cur]
theorem readS64 (h : Rebinds s t c bs) (g n : Nat) : t.readS64 g n = s.readS64 g n := by
  simp only [State.readS64, State.readS, State.group, h.groups, h.role]
theorem binds (h : Rebinds s t c bs) : (t.ctx c).binds = bs := by simp [h.ctx]
theorem retired (h : Rebinds s t c bs) (n : Nat) : (t.ctx n).retired = (s.ctx n).retired := by
  rw [h.ctx]
  split <;> simp_all

/-- A further change of the same table. -/
theorem modCtx (h : Rebinds s t c bs) (f : List Bind → List Bind) :
    Rebinds s (t.modCtx c fun x => { x with binds := f x.binds }) c (f bs) where
  rest := h.rest
  ctx n := by by_cases hn : n = c <;> simp [State.modCtx, h.ctx, hn]

/-- The issue group moves past the instruction as it would have from the state at issue. -/
theorem past {u : State} {len : Nat} (h : Rebinds s t c bs) (p : Past t u len) : Past s u len where
  pc hi := by
    have hpc := p.pc (by simpa only [Issuing, h.cur, h.role] using hi)
    rwa [h.cur, h.ig] at hpc
  count := by
    have hcount := p.count
    simpa only [State.pathCount, h.cur, h.role, h.clock] using hcount
  retired := by
    have hret := p.retired
    rwa [h.curCtx, h.retired] at hret

/-- What moving past the instruction keeps leaves no other change than that of the table. -/
theorem onlyBinds {u : State} (h : Rebinds s t c bs) (k : Kept t u) (hg : u.groups = t.groups) : OnlyBinds s u c := by
  refine ⟨hg.trans h.groups, ?elsewhere, fun n => ?ctx⟩
  case elsewhere =>
    calc ({ u with groups := s.groups, roles := s.roles, ctxs := s.ctxs, agenda := s.agenda } : State)
        = { ({ u with groups := t.groups, roles := t.roles, ctxs := t.ctxs, agenda := t.agenda } : State) with
            groups := s.groups, roles := s.roles, ctxs := s.ctxs, agenda := s.agenda } := rfl
      _ = { ({ t with ctxs := s.ctxs } : State) with groups := s.groups, roles := s.roles, agenda := s.agenda } := by
          rw [k.elsewhere]
      _ = s := by rw [h.rest]
  case ctx =>
    have hk := k.ctx n
    rw [h.ctx] at hk
    by_cases hn : n = c
    · subst hn
      simp only [if_true] at hk ⊢
      exact congrArg (fun x : Ctx => { x with binds := (s.ctx n).binds }) hk
    · simpa only [hn, if_false] using hk

end Rebinds

/-- An instruction whose effect is to make the issuing context's binding table `bs` completes. -/
theorem simple_rebinds (s : State) (len : Nat) (f : State → State) (bs : List Bind) (h : Rebinds s (f s) s.curCtx bs) :
    Completes (s.simple len f) fun t =>
      OnlyBinds s t s.curCtx ∧ Past s t len ∧ (t.ctx s.curCtx).binds = bs := by
  obtain ⟨hk, hp, hg⟩ := next_kept (f s) len
  have hbinds : (((f s).next len).ctx s.curCtx).binds = ((f s).ctx s.curCtx).binds :=
    (congrArg Ctx.binds (hk.ctx s.curCtx) :)
  exact ⟨_, rfl, h.onlyBinds hk hg, h.past hp, hbinds.trans h.binds⟩

/-! ### Removing entries (R309) -/

/-- The entry is the one that the operand pairs of an ms.unbind name in home group `g`. -/
def State.unbinds (s : State) (x : MsArgs) (g : Nat) (b : Bind) : Bool :=
  64 * b.base == (s.readS64 g x.sa).toNat && 8 * b.obj == (s.readS64 g x.sb).toNat

theorem unbinds_eq_decide (s : State) (x : MsArgs) (g : Nat) (b : Bind) : s.unbinds x g b =
    decide (64 * b.base = (s.readS64 g x.sa).toNat ∧ 8 * b.obj = (s.readS64 g x.sb).toNat) :=
  (Bool.decide_and _ _).symm

/-- The step of an ms.unbind for one home group. -/
def State.unbindOne (x : MsArgs) (s : State) (g : Nat) : State :=
  s.modCtx s.curCtx fun c => { c with binds := c.binds.filter fun b => !s.unbinds x g b }

theorem exec_msUnbind (x : MsArgs) (s : State) :
    exec (.msUnbind x) s = s.simple 8 fun s => s.eachHome (State.unbindOne x) := rfl

/-- The operands read the same after a change of a binding table. -/
theorem Rebinds.unbinds {s t : State} {c : Nat} {bs : List Bind} (h : Rebinds s t c bs) (x : MsArgs) (g : Nat) :
    t.unbinds x g = s.unbinds x g := by
  funext b
  simp only [State.unbinds, h.readS64]

theorem Rebinds.unbindOne {s t : State} {bs : List Bind} (h : Rebinds s t s.curCtx bs) (x : MsArgs) (g : Nat) :
    Rebinds s (t.unbindOne x g) s.curCtx (bs.filter fun b => !s.unbinds x g b) := by
  rw [State.unbindOne, h.curCtx, h.unbinds]
  exact h.modCtx fun l => l.filter fun b => !s.unbinds x g b

/-- Home groups in turn leave the entries that none of them names. -/
theorem Rebinds.foldl_unbindOne {s : State} (x : MsArgs) (hs : List Nat) :
    ∀ {t : State} {bs : List Bind}, Rebinds s t s.curCtx bs →
      Rebinds s (hs.foldl (fun t h => t.unbindOne x (t.gid h)) t) s.curCtx
        (bs.filter fun b => !hs.any fun h => s.unbinds x (s.gid h) b) := by
  induction hs with
  | nil =>
    intro t bs h
    simpa using h
  | cons a hs ih =>
    intro t bs h
    have hgid : t.gid a = s.gid a := by simp only [State.gid, h.cur]
    have hstep := ih (h.unbindOne x (t.gid a))
    rw [List.filter_filter] at hstep
    simpa only [List.foldl_cons, List.any_cons, Bool.not_or, hgid, Bool.and_comm] using hstep

/-- Settles O28: the table loses what each supplying home group names, read from the registers at issue. -/
theorem unbindRemoves : Obligations.UnbindRemoves := by
  intro x s
  rw [exec_msUnbind]
  simp only [← unbinds_eq_decide]
  exact simple_rebinds s 8 _ _ ((Rebinds.refl s s.curCtx).foldl_unbindOne x (s.suppliers s.cur))

end Sys2Proof.Machine
end
